-- ==== Sys2Proof/Word.lean ====
section
/-! DEFINITION. The machine's word types and their plainest arithmetic (R4, R5, R44). -/

namespace Sys2Proof

/-- A 64-bit scalar register value. -/
abbrev Word := BitVec 64
/-- One byte of memory. -/
abbrev Byte := BitVec 8
/-- A 512-bit vector register value (R44). -/
abbrev VWord := BitVec 512
/-- A scalar register field: s0 to s31. -/
abbrev SReg := BitVec 5
/-- A vector register field: v0 to v15. -/
abbrev VReg := BitVec 4
/-- A predicate register field: k0 to k7. -/
abbrev KReg := BitVec 3
/-- A segment register field: seg0 to seg7. -/
abbrev SegIx := BitVec 3
/-- An accumulator field: acc0 to acc7. -/
abbrev AccIx := BitVec 3
/-- An operand ring field: ring0 to ring15. -/
abbrev RingIx := BitVec 4

/-- The field of `n` bits of `w` that begins at bit `lo` (R5). -/
def fld (w lo n : Nat) : Nat := w / 2 ^ lo % 2 ^ n

/-- The two's-complement integer of the low `n` bits of `x`: `sext(x, n)` of R58. -/
def sextN (x n : Nat) : Int :=
  let y := x % 2 ^ n
  if 2 * y < 2 ^ n then (y : Int) else (y : Int) - (2 ^ n : Nat)

/-- An integer cut to `n` bits: a destination keeps its low n bits (R57). -/
def cut (n : Nat) (x : Int) : BitVec n := BitVec.ofInt n x

end Sys2Proof
end

