-- ==== Sys2Proof/Machine/Table.lean ====
section
/-! DEFINITION. Sparse tables and byte lists: the plain-data containers of the state. A table is a list of
(key, value) pairs whose keys rise strictly. -/

namespace Sys2Proof.Machine

/-- A sparse table keyed by a number. -/
abbrev Tab (α : Type) := List (Nat × α)

/-- The value at a key. -/
def Tab.get? {α : Type} (t : Tab α) (k : Nat) : Option α :=
  match t with
  | [] => none
  | (j, v) :: r => if j = k then some v else Tab.get? r k

/-- The value at a key, or a default where the table lists none. -/
def Tab.getD {α : Type} (t : Tab α) (k : Nat) (d : α) : α := (Tab.get? t k).getD d

/-- Sets the value at a key, keeping the keys rising. -/
def Tab.put {α : Type} (t : Tab α) (k : Nat) (v : α) : Tab α :=
  match t with
  | [] => [(k, v)]
  | (j, u) :: r => if k < j then (k, v) :: (j, u) :: r else if k = j then (k, v) :: r else (j, u) :: Tab.put r k v

/-- Removes a key. -/
def Tab.del {α : Type} (t : Tab α) (k : Nat) : Tab α := List.filter (fun p => p.1 != k) t

/-- Applies a function to the value at a key, if there is one. -/
def Tab.upd {α : Type} (t : Tab α) (k : Nat) (f : α → α) : Tab α := List.map (fun p => if p.1 = k then (p.1, f p.2) else p) t

/-- The first entry whose key is above `k`. -/
def Tab.above? {α : Type} (t : Tab α) (k : Nat) : Option (Nat × α) := List.find? (fun p => decide (k < p.1)) t

/-- The keys rise strictly. -/
def Tab.sorted {α : Type} : Tab α → Bool
  | [] => true
  | [_] => true
  | (a, _) :: (b, v) :: r => decide (a < b) && Tab.sorted ((b, v) :: r)

/-- `xs` with element `n` replaced. -/
def setAt {α : Type} (xs : List α) (n : Nat) (v : α) : List α := List.set xs n v

/-- `xs` with element `n` changed by `f`. -/
def modAt {α : Type} (xs : List α) (n : Nat) (f : α → α) : List α := List.modify xs n f

/-- The first element that `p` accepts is changed by `f`. -/
def modFirst {α : Type} (p : α → Bool) (f : α → α) : List α → List α
  | [] => []
  | x :: r => if p x then f x :: r else x :: modFirst p f r

/-- The first element that `p` accepts is removed. -/
def dropFirst {α : Type} (p : α → Bool) : List α → List α
  | [] => []
  | x :: r => if p x then r else x :: dropFirst p r

/-- A field of a list of little-endian bytes (R5): `n` bytes from `off`; bytes beyond the list read zero. -/
def bytesNat (bs : List Byte) (off n : Nat) : Nat :=
  ((bs.drop off).take n).foldr (fun b acc => b.toNat + 256 * acc) 0

/-- The `n` bytes of a value, least significant first (R5). -/
def natBytes : Nat → Nat → List Byte
  | 0, _ => []
  | n + 1, x => BitVec.ofNat 8 (x % 256) :: natBytes n (x / 256)

end Sys2Proof.Machine
end

