-- ==== Sys2Proof/Syntax.lean ====
section
/-! DEFINITION. The instructions and events of spec/opcode_table.json, one constructor per row.
An instruction's arguments are the fields of its encoding (R31 to R37); the last, `c`, is the cue bit.
An event row has no encoding: its arguments say at which agent the event comes about. -/

namespace Sys2Proof

/-- Where a channel entry or an inbox message is on its way to: a vcore, and the slot it was sent to (R193). -/
structure MailDest where
  vcid : Nat
  slot : Nat
deriving DecidableEq, Repr

/-- Where a remote flit comes from: the link it arrives on, the module that sent it, and how many bytes it carries or asks for (R385). -/
structure FlitSource where
  link : Nat
  module : Nat
  len : Nat
deriving DecidableEq, Repr

/-- The slot of a STEPTRAP and the command's FREEZE bit (R370, R373). -/
structure StepSlot where
  slot : Nat
  freeze : Bool
deriving DecidableEq, Repr

/-- A unit whose wear is watched (R392): a core by the SADDR of its slot 0, a column of a cluster's matrix array, an L2 slice of a die, a row of an LLC
slice, a 64 KiB frame of HBM. -/
inductive WearUnit where
  | core (sa : Nat)
  | column (cl n : Nat)
  | l2 (die n : Nat)
  | llc (die slice row : Nat)
  | frame (n : Nat)
deriving DecidableEq, Repr

/-- The MERR class of an error (R382, R391), and the unit that it wears or strikes, if any (R392). -/
structure ErrorClass where
  cls : Nat
  part : Option WearUnit
deriving DecidableEq, Repr

/-- Where an uncorrectable error strikes (the table of R391). -/
inductive ErrorSite where
  /-- a strand's registers, segment registers or undo window -/
  | strandState (sa : Nat)
  /-- a clean cache line -/
  | cleanLine
  /-- a dirty line, scratchpad, cluster shared memory or HBM: the word at `loc`; `sa` is the strand whose dirty private L1D line it is, if any -/
  | data (loc : Nat) (dirtyOf : Option Nat)
  /-- a context in the thread-context cache -/
  | savedContext (cl tr vcid : Nat)
  /-- a translation-cache entry or an L1I copy of it -/
  | translation (die key : Nat)
  /-- a Contoa word that the prompter reads -/
  | codeWord (die key : Nat)
  /-- the template table of a die's prompter -/
  | template (die : Nat)
  /-- a line of a die's stage-manager instruction memory -/
  | smCode (die line : Nat)
  /-- a queue descriptor or board entry of the queue -/
  | queueTable (qn : Nat) (pa : Nat)
  /-- a task's buffer, signature or strand state -/
  | task (tr id : Nat)
  /-- the source data of the running command of an engine -/
  | copySource (die eng loc : Nat)
  /-- a firmware slot in flash -/
  | flash (slotB : Bool)
deriving DecidableEq, Repr

/-- One constructor per row of the opcode table. -/
inductive Instr where
  /-- TRANSLATION_CONFIRM (R149): At 10 cycles a global access hits and is confirmed or traps, or misses and replays. -/
  | translationConfirm (sa : Nat) (q : Nat)
  /-- WALK_END (R149): A page walk ends, filling the buffer, trapping or posting fault service. -/
  | walkEnd (port : Nat) (walk : Nat)
  /-- FAULT_SERVICE_RETRY (R149): Firmware signals a retry, releasing every joined access to walk again. -/
  | faultServiceRetry (die : Nat) (req : Nat)
  /-- FAULT_SERVICE_DECLINE (R149): Firmware declines and every joined walk ends as PAGE_UNMAPPED. -/
  | faultServiceDecline (die : Nat) (req : Nat)
  /-- REISSUE (R149): After a walk or service the strand reissues the missing instruction at its next turn. -/
  | reissue (sa : Nat)
  /-- LOAD_DATA_RETURN (R160): A load's data returns and its value is bound. -/
  | loadDataReturn (sa : Nat) (q : Nat)
  /-- STORE_QUEUE_DRAIN (R151): A store leaves the store queue when its conditions hold. -/
  | storeQueueDrain (sa : Nat)
  /-- STORE_PERFORMED (R151): A store is performed at its tier or region. -/
  | storePerformed (sa : Nat) (q : Nat)
  /-- ATOMIC_AT_CONTROLLER (R155): An atomic is performed at the controller where its location lives. -/
  | atomicAtController (sa : Nat) (q : Nat)
  /-- RELEASE_MARKER_LEAVE (R171): A release fence marker leaves the store queue once older accesses are done. -/
  | releaseMarkerLeave (sa : Nat) (q : Nat)
  /-- SC_RELEASE_TIME (R172): An SC operation leaves its strand at its window's release time. -/
  | scReleaseTime (sa : Nat) (q : Nat)
  /-- SC_HELD_ACCESS_PERFORM (R172): A controller performs an SC access held behind an earlier SC access. -/
  | scHeldAccessPerform (sa : Nat) (q : Nat)
  /-- TRAP_DELIVERY (R201): The oldest held precise exception is delivered and the handler vectored. -/
  | trapDelivery (sa : Nat)
  /-- ASYNC_TRAP_DELIVERY (R203): WATCHPOINT, MACHINE_CHECK or TROUPE_QUIESCENT is taken at an instruction boundary. -/
  | asyncTrapDelivery (sa : Nat)
  /-- FATAL_REPORT (R221): A fatal fault report reaches the launching stage manager. -/
  | fatalReport (tr : Nat)
  /-- CORE_DUMP (R221): After every vacating SLOTSWAP returns, the dump is written. -/
  | coreDump (tr : Nat)
  /-- CORE_DUMP_END (R221): The dump ends; the completion record and FAULTED notice are posted. -/
  | coreDumpEnd (tr : Nat)
  /-- GUEST_QUEUE_ENTRY (R229): A ship packet enters the heavy core's guest queue. -/
  | guestQueueEntry (cl : Nat)
  /-- GUEST_ISSUE (R226): The guest queue head issues on the heavy core. -/
  | guestIssue (cl : Nat)
  /-- SHIP_RESULT_RETURN (R234): A return packet arrives and lands, is held, becomes an exception, or is resent. -/
  | shipResultReturn (sa : Nat) (q : Nat)
  /-- SQUASH_NOTICE (R235): A squash notice reaches the heavy core and removes queued entries. -/
  | squashNotice (cl : Nat) (sa : Nat) (q : Nat)
  /-- SHIP_MAP_CHANGE (R231): Firmware rewrites a ship-map entry while withdrawing a heavy core. -/
  | shipMapChange (cl : Nat) (entry : BitVec 8)
  /-- WIDE_ATOMIC_TRANSLATE (R249): The wide-atomic unit's translation outcome is known and STATUS 4 or 2 is returned. -/
  | wideAtomicTranslate (cl : Nat) (sa : Nat) (q : Nat)
  /-- WIDE_ATOMIC_PERFORM (R249): The wide-atomic unit obtains the line, performs the atomic and writes it back. -/
  | wideAtomicPerform (cl : Nat) (sa : Nat) (q : Nat)
  /-- CHANNEL_ENTRY_ARRIVAL (R182): A channel entry reaches its inbound port, or is spilled on a tag mismatch. -/
  | channelEntryArrival (tr : Nat) (dst : MailDest) (port : Nat) (vec : Bool) (data : VWord)
  /-- CREDIT_RETURN (R182): A credit arrives back at the outbound port. -/
  | creditReturn (tr : Nat) (vcid : Nat) (port : Nat)
  /-- INBOX_MESSAGE_ARRIVAL (R191): A message arrives at a strand's inbox, or goes to mail spill. -/
  | inboxMessageArrival (tr : Nat) (dst : MailDest) (msg : Word)
  /-- SPILL_READBACK (R193): When an inbox entry frees, the oldest spilled message is read back. -/
  | spillReadback (tr : Nat) (vcid : Nat)
  /-- BARRIER_ARRIVAL (R187): An arrival reaches the barrier home and may complete the phase. -/
  | barrierArrival (tr : Nat) (bar : Nat) (vcid : Nat)
  /-- GEN_UPDATE_ARRIVAL (R190): A generation advance is seen in a cluster, releasing waiters. -/
  | genUpdateArrival (tr : Nat) (bar : Nat) (cl : Nat) (gen : BitVec 16)
  /-- BAR_ARRIVE_RESULT (R190): A BAR.ARRIVE destination becomes ready. -/
  | barArriveResult (sa : Nat) (q : Nat)
  /-- QUIESCENCE_COUNT_EXPIRY (R196): A troupe has been quiet for 65,536 counted cycles in every cluster. -/
  | quiescenceCountExpiry (tr : Nat)
  /-- TROUPE_QUIESCENT (R196): After the cluster-tree combine the cause is raised at the launching stage manager. -/
  | troupeQuiescent (tr : Nat)
  /-- QUIESCENCE_REOFFER (R203): A report that found 64 held is offered again after 65,536 cycles. -/
  | quiescenceReoffer (tr : Nat)
  /-- WAKE_ARRIVAL (R213): A wake reaches its target, leaving PARK or setting the token. -/
  | wakeArrival (tr : Nat) (vcid : Nat)
  /-- PARK_DEADLINE (R213): CYCLE reaches a PARK deadline and the strand resumes with 0. -/
  | parkDeadline (sa : Nat)
  /-- SLOTSWAP_ARRIVAL (R216): A SLOTSWAP request reaches the target strand and stops issue. -/
  | slotswapArrival (issuer : Nat) (q : Nat)
  /-- CONTEXT_SAVE (R216): After drain the context, matrix area and port entries are saved. -/
  | contextSave (sa : Nat)
  /-- CONTEXT_RESTORE (R216): The incoming context is restored and its spill delivered. -/
  | contextRestore (sa : Nat)
  /-- SCRATCHPAD_COPY (R217): Firmware copies a vcore's KIND 2 ranges to a new home core. -/
  | scratchpadCopy (tr : Nat) (vcid : Nat) (core : Nat)
  /-- SCRATCHPAD_CLEAR_END (R217): The background clear of released scratchpad bytes ends. -/
  | scratchpadClearEnd (core : Nat)
  /-- MATRIX_QUEUE_ENTRY (R256): A matrix operation enters the strand's matrix queue 2 cycles after issue. -/
  | matrixQueueEntry (sa : Nat) (q : Nat)
  /-- SEQUENCER_START (R257): The sequencer starts the earliest ready head, sampling the power alarm. -/
  | sequencerStart (cl : Nat)
  /-- MATRIX_RETIRE (R257): A matrix operation retires, popping slots and ORing MSTAT. -/
  | matrixRetire (cl : Nat)
  /-- MACCST_WALK_END (R268): A MACCST row translation walk ends and the sequencer continues. -/
  | maccstWalkEnd (cl : Nat)
  /-- RING_SLOT_WRITE_RESUME (R255): A store or CPYRING write waiting on an occupied slot proceeds after the pop. -/
  | ringSlotWriteResume (sa : Nat) (q : Nat)
  /-- COMMAND_START (R279): A copy engine starts its next command once the previous one's writes are performed. -/
  | commandStart (die : Nat) (eng : Nat)
  /-- COPY_WALK_END (R280): An engine's page walk ends and the command continues. -/
  | copyWalkEnd (die : Nat) (eng : Nat)
  /-- RING_RESERVATION (R282): CPYRING reserves the next slot once one is free. -/
  | ringReservation (die : Nat) (eng : Nat)
  /-- CPYRING_TAIL_ADVANCE (R282): TAIL advances once every earlier reservation has advanced it. -/
  | cpyringTailAdvance (die : Nat) (eng : Nat)
  /-- COPY_COMPLETION (R283): A command's writes are performed and its completion message is posted. -/
  | copyCompletion (die : Nat) (eng : Nat)
  /-- REMOTE_FLIT_ARRIVAL (R385): A remote module checks and performs or refuses an inbound flit. -/
  | remoteFlitArrival (src : FlitSource) (off : Nat) (put : Bool) (data : BitVec 512)
  /-- REMOTE_FLIT_ACK (R284): A remote acknowledgement performs a put flit. -/
  | remoteFlitAck (die : Nat) (eng : Nat) (flit : Nat) (ok : Bool) (data : BitVec 512)
  /-- LINK_DOWN (R385): A link goes down and its unacknowledged flits are resent. -/
  | linkDown (link : Nat)
  /-- LINK_TRAIN (R385): Links train and report in MLINK. -/
  | linkTrain (up : BitVec 32)
  /-- SPAWN_AT_ORIGIN (R287): A spawn reaches the origin counter and takes its spawn id. -/
  | spawnAtOrigin (tr : Nat)
  /-- TSPAWN_ID_RETURN (R310): The spawn id returns to the spawning strand. -/
  | tspawnIdReturn (sa : Nat) (q : Nat)
  /-- TASK_ACCEPT (R292): A task arrives at its unit and is queued, spilling the highest key if full. -/
  | taskAccept (tr : Nat) (id : Nat)
  /-- TASK_REFILL (R292): A spilled task is read back into the queue. -/
  | taskRefill (tr : Nat) (unit : Nat)
  /-- TASK_DISPATCH (R291): A unit dispatches its lowest key to an idle worker. -/
  | taskDispatch (tr : Nat) (unit : Nat)
  /-- FRONTIER_SAMPLE (R297): Every 128 cycles each unit samples its lowest unfinished key. -/
  | frontierSample (tr : Nat)
  /-- FRONTIER_PUBLISH (R297): The minimum key is published and a commit pass starts. -/
  | frontierPublish (tr : Nat)
  /-- TASK_COMMIT (R301): A finished task's buffer is written back and checked against later signatures. -/
  | taskCommit (tr : Nat)
  /-- COMMIT_PASS_END (R300): A pass ends and the frontier task becomes non-speculative. -/
  | commitPassEnd (tr : Nat)
  /-- NONSPEC_NOTICE (R300): A running task receives the non-speculative notice. -/
  | nonspecNotice (tr : Nat) (id : Nat)
  /-- ABORT_NOTICE (R303): An abort notice reaches a task, which is stopped, requeued and its children removed. -/
  | abortNotice (tr : Nat) (id : Nat) (remove : Bool)
  /-- IRREVOCABLE_COMMIT (R296): The buffer commit of a task turning irrevocable ends and its operation proceeds. -/
  | irrevocableCommit (tr : Nat) (id : Nat)
  /-- IRREVOCABLE_STORE_CHECK (R296): An irrevocable task's store check ends and its aborts are issued. -/
  | irrevocableStoreCheck (tr : Nat) (id : Nat) (t : Word) (unit : Nat) (granule : Nat)
  /-- WORKERS_RESUME (R310): With no task left and the last pass ended, idle workers resume at WPC. -/
  | workersResume (tr : Nat)
  /-- TRANSLATION_END (R320): The prompter finishes a block translation and installs or discards it. -/
  | translationEnd (die : Nat) (key : Nat)
  /-- TEMPLATE_RELOAD (R331): The prompter reloads the template table after an error. -/
  | templateReload (die : Nat)
  /-- TLBINV_PORT_ARRIVAL (R212): A TLBINV reaches a port and removes the named entries. -/
  | tlbinvPortArrival (port : Nat) (form : BitVec 2) (va : BitVec 64) (space : Nat)
  /-- ARRIVAL_WRITE (R333): A host write to a queue's arrival word updates WRIDX or faults the queue. -/
  | arrivalWrite (qn : Nat) (w : BitVec 64)
  /-- BOARD_INSERTION (R335): The rank program finishes and the queue is placed on the call board. -/
  | boardInsertion (qn : Nat)
  /-- WAIT_PACKET_POLL (R341): QWAIT rereads a WAIT packet's word every 64 cycles, or times out. -/
  | waitPacketPoll (sa : Nat)
  /-- PLACEMENT_RETRY (R345): A waiting LAUNCH is retried when a slot frees. -/
  | placementRetry
  /-- TROUPE_RELEASE (R345): The placed troupe is released and its vcores start. -/
  | troupeRelease (tr : Nat)
  /-- THERMAL_SAMPLE (R351): Every 4,096 cycles a cluster samples core temperatures. -/
  | thermalSample (cl : Nat) (core : Nat) (temp : Nat)
  /-- POWER_SAMPLE (R393): Every 1,024 cycles the rail monitor sets or clears the power alarm. -/
  | powerSample (milliwatts : Nat)
  /-- HEAVY_THERMAL_SAMPLE (R393): A cluster watch samples its heavy core against the matrix hot threshold. -/
  | heavyThermalSample (cl : Nat) (temp : Nat)
  /-- DIE_THERMAL_TRIP (R394): A die at 110 degrees C stops every strand and holds. -/
  | dieThermalTrip (die : Nat)
  /-- POWER_GOOD (R386): Power-good starts Stage A and boot verification. -/
  | powerGood
  /-- STAGE_B (R386): Stage B brings up HBM, links, repair map, code and queue tables. -/
  | stageB
  /-- STAGE_C (R386): Stage C opens arrival windows, debug pages and launches. -/
  | stageC
  /-- UPDATE_UTIME_EXPIRY (R389): UTIME elapses and the update drains, saves and warm-resets. -/
  | updateUtimeExpiry
  /-- CORRECTED_ERROR (R391): A corrected error increments its MERR class. -/
  | correctedError (cls : ErrorClass)
  /-- UNCORRECTABLE_ERROR (R391): An uncorrectable error is logged and handled per location. -/
  | uncorrectableError (cls : ErrorClass) (site : ErrorSite)
  /-- PATROL_SCRUB (R391): A patrol scrub reads LLC and HBM lines in idle cycles. -/
  | patrolScrub
  /-- HOST_PORT_ACCESS (R381): A host access to HBM is performed at the LLC slice. -/
  | hostPortAccess (write : Bool) (off : Nat) (data : BitVec 64)
  /-- WATCHPOINT_REPORT (R378): A watch report reaches the owner. -/
  | watchpointReport (die : Nat)
  /-- STOP (R371): Debug command: precise stop of one strand. -/
  | stop (cl : Nat) (core : Nat) (slot : Nat)
  /-- STOP_COMPLETE (R371): The stopped slot has drained and its stop record is written. -/
  | stopComplete (sa : Nat)
  /-- RESUME (R370): Debug command: resume a stopped strand and frozen partners. -/
  | resume (cl : Nat) (core : Nat) (slot : Nat) (freeze : Bool)
  /-- STEP (R373): Debug command: run one virtual instruction and stop. -/
  | step (cl : Nat) (core : Nat) (slot : Nat) (freeze : Bool)
  /-- STEPTRAP (R373): Debug command: run one instruction and raise SINGLE_STEP. -/
  | steptrap (cl : Nat) (core : Nat) (slot : StepSlot)
  /-- BLACKOUT (R372): Debug command: stop every strand of the cluster. -/
  | blackout (cl : Nat)
  /-- CLAIM (R370): Debug command: BRK of the strand stops it instead of trapping. -/
  | claim (cl : Nat) (core : Nat) (slot : Nat)
  /-- UNCLAIM (R370): Debug command: release the claim on the strand. -/
  | unclaim (cl : Nat) (core : Nat) (slot : Nat)
  /-- CLRHIST (R370): Debug command: clear the ready histogram of a core. -/
  | clrhist (cl : Nat) (core : Nat)
  /-- COLD_RESET (R382): MRESET value 1 cold-resets the module. -/
  | coldReset
  /-- FIRMWARE_UPDATE (R389): MRESET value 2 verifies and installs a new image and starts the update. -/
  | firmwareUpdate
  /-- INSTALL_UPLOAD (R388): MRESET value 3 verifies the recovery upload and installs it. -/
  | installUpload
  /-- QUEUE_ENABLE (R332): MQCTL value 1 moves a queue from DISABLED to IDLE and clears its counters. -/
  | queueEnable
  /-- QUEUE_DISABLE (R332): MQCTL value 2 moves an IDLE or FAULTED queue to DISABLED. -/
  | queueDisable
  /-- MQDATA_WRITE (R332): A host write sets the host fields of a DISABLED queue's descriptor. -/
  | mqdataWrite (data : BitVec 512)
  /-- SYSTEM_OBJECT_PLACE (R344): MSYSCTL request: verify and place a system object. -/
  | systemObjectPlace
  /-- ATTESTATION_REQUEST (R383): MATTEST request: firmware writes a signed attestation report. -/
  | attestationRequest
  /-- REGISTER_WRITE (R382): A write to a management or debug register without behaviour of its own. -/
  | registerWrite (off : Nat) (data : BitVec 64)
  /-- TURN (R72): Each turn of a slot, or each cycle offered to a heavy strand, adds 1 to one census counter, and each cycle advances the ready histogram. -/
  | turn
  /-- TLBINV_COMPLETION (R212): A TLBINV completes 160 cycles after issue, releasing a .cue wait and binding every later translation to new entries. -/
  | tlbinvCompletion (sa : Nat) (q : Nat)
  /-- BAR_STAT_RESULT (R189): A remote BAR.STAT read returns from the barrier home at c + 2L and writes s[d]. -/
  | barStatResult (sa : Nat) (q : Nat)
  /-- CODESYNC_COMPLETION (R327): CODESYNC completes after its invalidation, as an acquire at system scope, and the strand resumes issue at a fresh entry. -/
  | codesyncCompletion (sa : Nat) (q : Nat)
  /-- XLATINV_COMPLETION (R328): XLATINV completes at a fixed time after issue, and the strand resumes issue. -/
  | xlatinvCompletion (sa : Nat) (q : Nat)
  /-- CONTEXT_TRANSFER_RESULT (R214): A CTXSAVE or CTXLOAD copy ends 24 cycles plus the tier latency after issue and writes its status. -/
  | contextTransferResult (sa : Nat) (q : Nat)
  /-- SLOTSWAP_STATUS (R216): The SLOTSWAP status returns along the request path to the issuing stage-manager strand and writes s[d]. -/
  | slotswapStatus (issuer : Nat) (q : Nat)
  /-- WATCH_ARM_RESULT (R377): 96 cycles after a WPSET or WPCLR issues, the comparators are armed or cleared and the handle or status result becomes ready. -/
  | watchArmResult (sa : Nat) (q : Nat)
  /-- INSTRUCTION_MEMORY_REFETCH (R347): The refetch of a struck stage-manager instruction line from the HBM image copy ends after 420 or 480 cycles, and the strand resumes. -/
  | instructionMemoryRefetch (sa : Nat)
  /-- ILL (R39): Permanently illegal word that raises ILLEGAL. -/
  | ill (c : Bool)
  /-- ADD (R76): s[d] := s[a] + s[b]. -/
  | add (d : SReg) (a : SReg) (b : SReg) (c : Bool)
  /-- SUB (R76): s[d] := s[a] - s[b]. -/
  | sub (d : SReg) (a : SReg) (b : SReg) (c : Bool)
  /-- MUL (R76): Low 64 bits of the signed product. -/
  | mul (d : SReg) (a : SReg) (b : SReg) (c : Bool)
  /-- MULH (R76): High 64 bits of the signed product. -/
  | mulh (d : SReg) (a : SReg) (b : SReg) (c : Bool)
  /-- MULHN (R76): High 64 bits of the unsigned product. -/
  | mulhn (d : SReg) (a : SReg) (b : SReg) (c : Bool)
  /-- DIV (R77): Signed division rounded toward zero, with the divide-by-zero rule. -/
  | div (d : SReg) (a : SReg) (b : SReg) (c : Bool)
  /-- DIVN (R77): Unsigned division, with the divide-by-zero rule. -/
  | divn (d : SReg) (a : SReg) (b : SReg) (c : Bool)
  /-- REM (R77): Signed remainder taking the sign of the dividend. -/
  | rem (d : SReg) (a : SReg) (b : SReg) (c : Bool)
  /-- REMN (R77): Unsigned remainder. -/
  | remn (d : SReg) (a : SReg) (b : SReg) (c : Bool)
  /-- AND (R76): Bitwise AND. -/
  | and (d : SReg) (a : SReg) (b : SReg) (c : Bool)
  /-- OR (R76): Bitwise OR. -/
  | or (d : SReg) (a : SReg) (b : SReg) (c : Bool)
  /-- XOR (R76): Bitwise XOR. -/
  | xor (d : SReg) (a : SReg) (b : SReg) (c : Bool)
  /-- ANDN (R76): s[a] AND NOT s[b]. -/
  | andn (d : SReg) (a : SReg) (b : SReg) (c : Bool)
  /-- ORN (R76): s[a] OR NOT s[b]. -/
  | orn (d : SReg) (a : SReg) (b : SReg) (c : Bool)
  /-- SLL (R76): Logical left shift by s[b][5:0]. -/
  | sll (d : SReg) (a : SReg) (b : SReg) (c : Bool)
  /-- SRL (R76): Logical right shift by s[b][5:0]. -/
  | srl (d : SReg) (a : SReg) (b : SReg) (c : Bool)
  /-- SRA (R76): Arithmetic right shift by s[b][5:0]. -/
  | sra (d : SReg) (a : SReg) (b : SReg) (c : Bool)
  /-- ROL (R76): Rotate left by s[b][5:0]. -/
  | rol (d : SReg) (a : SReg) (b : SReg) (c : Bool)
  /-- ROR (R76): Rotate right by s[b][5:0]. -/
  | ror (d : SReg) (a : SReg) (b : SReg) (c : Bool)
  /-- MIN (R76): Signed minimum. -/
  | min (d : SReg) (a : SReg) (b : SReg) (c : Bool)
  /-- MAX (R76): Signed maximum. -/
  | max (d : SReg) (a : SReg) (b : SReg) (c : Bool)
  /-- MINN (R76): Unsigned minimum. -/
  | minn (d : SReg) (a : SReg) (b : SReg) (c : Bool)
  /-- MAXN (R76): Unsigned maximum. -/
  | maxn (d : SReg) (a : SReg) (b : SReg) (c : Bool)
  /-- SLT (R76): 1 if s[a] < s[b] signed, else 0. -/
  | slt (d : SReg) (a : SReg) (b : SReg) (c : Bool)
  /-- SLTN (R76): 1 if s[a] < s[b] unsigned, else 0. -/
  | sltn (d : SReg) (a : SReg) (b : SReg) (c : Bool)
  /-- SEQ (R76): 1 if s[a] = s[b], else 0. -/
  | seq (d : SReg) (a : SReg) (b : SReg) (c : Bool)
  /-- SNE (R76): 1 if s[a] differs from s[b], else 0. -/
  | sne (d : SReg) (a : SReg) (b : SReg) (c : Bool)
  /-- CLZ (R76): Count of leading zero bits. -/
  | clz (d : SReg) (a : SReg) (c : Bool)
  /-- CTZ (R76): Count of trailing zero bits. -/
  | ctz (d : SReg) (a : SReg) (c : Bool)
  /-- POPC (R76): Count of one bits. -/
  | popc (d : SReg) (a : SReg) (c : Bool)
  /-- BREV (R76): Bit reversal. -/
  | brev (d : SReg) (a : SReg) (c : Bool)
  /-- BSWAP (R76): Byte reversal. -/
  | bswap (d : SReg) (a : SReg) (c : Bool)
  /-- EXT (R78): Signed bitfield extract. -/
  | ext (d : SReg) (a : SReg) (b : SReg) (c : Bool)
  /-- EXTN (R78): Unsigned bitfield extract. -/
  | extn (d : SReg) (a : SReg) (b : SReg) (c : Bool)
  /-- DEP (R78): Bitfield deposit into s[d]. -/
  | dep (d : SReg) (a : SReg) (b : SReg) (c : Bool)
  /-- SEL (R78): Select s[a] or s[b] by whether s[d] is non-zero. -/
  | sel (d : SReg) (a : SReg) (b : SReg) (c : Bool)
  /-- ADDI (R79): Add a signed 15-bit immediate. -/
  | addi (d : SReg) (a : SReg) (i : BitVec 15) (c : Bool)
  /-- ANDI (R79): AND with a signed 15-bit immediate. -/
  | andi (d : SReg) (a : SReg) (i : BitVec 15) (c : Bool)
  /-- ORI (R79): OR with an unsigned 15-bit immediate. -/
  | ori (d : SReg) (a : SReg) (i : BitVec 15) (c : Bool)
  /-- XORI (R79): XOR with an unsigned 15-bit immediate. -/
  | xori (d : SReg) (a : SReg) (i : BitVec 15) (c : Bool)
  /-- SLLI (R80): Logical left shift by an immediate. -/
  | slli (d : SReg) (a : SReg) (s : BitVec 6) (c : Bool)
  /-- SRLI (R80): Logical right shift by an immediate. -/
  | srli (d : SReg) (a : SReg) (s : BitVec 6) (c : Bool)
  /-- SRAI (R80): Arithmetic right shift by an immediate. -/
  | srai (d : SReg) (a : SReg) (s : BitVec 6) (c : Bool)
  /-- SLTI (R81): Signed compare with a 14-bit immediate. -/
  | slti (d : SReg) (a : SReg) (i : BitVec 14) (c : Bool)
  /-- SLTNI (R81): Unsigned compare with a 14-bit immediate. -/
  | sltni (d : SReg) (a : SReg) (i : BitVec 14) (c : Bool)
  /-- MULI (R82): Multiply by a signed 15-bit immediate. -/
  | muli (d : SReg) (a : SReg) (i : BitVec 15) (c : Bool)
  /-- LUI (R83): Set the upper 32 bits of s[d] from s[a][31:0] plus an immediate. -/
  | lui (d : SReg) (a : SReg) (i : BitVec 15) (c : Bool)
  /-- LI (R84): Load a sign-extended 32-bit immediate (two words). -/
  | li (d : SReg) (imm : BitVec 32) (c : Bool)
  /-- LEA (R85): s[a] plus the signed s[b] shifted by aux. -/
  | lea (d : SReg) (a : SReg) (b : SReg) (s : BitVec 3) (c : Bool)
  /-- ADDX (R85): s[a] plus the unsigned low half of s[b] shifted by aux. -/
  | addx (d : SReg) (a : SReg) (b : SReg) (s : BitVec 3) (c : Bool)
  /-- BEQ (R86): Branch if equal. -/
  | beq (a : SReg) (b : SReg) (i : BitVec 11) (c : Bool)
  /-- BNE (R86): Branch if not equal. -/
  | bne (a : SReg) (b : SReg) (i : BitVec 11) (c : Bool)
  /-- BLT (R86): Branch if signed less. -/
  | blt (a : SReg) (b : SReg) (i : BitVec 11) (c : Bool)
  /-- BGE (R86): Branch if signed greater or equal. -/
  | bge (a : SReg) (b : SReg) (i : BitVec 11) (c : Bool)
  /-- BLTN (R86): Branch if unsigned less. -/
  | bltn (a : SReg) (b : SReg) (i : BitVec 11) (c : Bool)
  /-- BGEN (R86): Branch if unsigned greater or equal. -/
  | bgen (a : SReg) (b : SReg) (i : BitVec 11) (c : Bool)
  /-- JMP (R87): PC-relative jump with a 25-bit displacement. -/
  | jmp (i : BitVec 25) (c : Bool)
  /-- CALL (R87): Write the link to s31 and jump. -/
  | call (i : BitVec 25) (c : Bool)
  /-- JR (R88): Jump to the address in s[a]. -/
  | jr (a : SReg) (c : Bool)
  /-- CALLR (R88): Write the link to s31 and jump to s[a]. -/
  | callr (a : SReg) (c : Bool)
  /-- DBNZ (R88): Decrement s[a] and branch if the result is non-zero. -/
  | dbnz (a : SReg) (i : BitVec 11) (c : Bool)
  /-- GETSR (R90): Read a state register into s[d]. -/
  | getsr (d : SReg) (n : BitVec 12) (c : Bool)
  /-- SETSR (R90): Write s[a] to a state register. -/
  | setsr (a : SReg) (n : BitVec 12) (c : Bool)
  /-- NOP (R90): No operation; NOP.cue waits for outstanding operations. -/
  | nop (c : Bool)
  /-- PAUSE (R90): Forfeit the strand's next n turns. -/
  | pause (n : BitVec 12) (c : Bool)
  /-- FADD (R106): Scalar floating-point add. -/
  | fadd (d : SReg) (a : SReg) (b : SReg) (f : BitVec 2) (r : BitVec 3) (c : Bool)
  /-- FSUB (R106): Scalar floating-point subtract. -/
  | fsub (d : SReg) (a : SReg) (b : SReg) (f : BitVec 2) (r : BitVec 3) (c : Bool)
  /-- FMUL (R106): Scalar floating-point multiply. -/
  | fmul (d : SReg) (a : SReg) (b : SReg) (f : BitVec 2) (r : BitVec 3) (c : Bool)
  /-- FMIN (R107): IEEE minimumNumber. -/
  | fmin (d : SReg) (a : SReg) (b : SReg) (f : BitVec 2) (c : Bool)
  /-- FMAX (R107): IEEE maximumNumber. -/
  | fmax (d : SReg) (a : SReg) (b : SReg) (f : BitVec 2) (c : Bool)
  /-- FABS (R106): Clear the sign bit. -/
  | fabs (d : SReg) (a : SReg) (f : BitVec 2) (c : Bool)
  /-- FNEG (R106): Invert the sign bit. -/
  | fneg (d : SReg) (a : SReg) (f : BitVec 2) (c : Bool)
  /-- FSGNJ (R106): Take the sign of s[b]. -/
  | fsgnj (d : SReg) (a : SReg) (b : SReg) (f : BitVec 2) (c : Bool)
  /-- FEQ (R108): Floating-point equality compare. -/
  | feq (d : SReg) (a : SReg) (b : SReg) (f : BitVec 2) (c : Bool)
  /-- FLT (R108): Floating-point less-than compare. -/
  | flt (d : SReg) (a : SReg) (b : SReg) (f : BitVec 2) (c : Bool)
  /-- FLE (R108): Floating-point less-or-equal compare. -/
  | fle (d : SReg) (a : SReg) (b : SReg) (f : BitVec 2) (c : Bool)
  /-- FCLASS (R109): Write the one-hot class mask. -/
  | fclass (d : SReg) (a : SReg) (f : BitVec 2) (c : Bool)
  /-- FRCPE (R110): 7-bit reciprocal estimate. -/
  | frcpe (d : SReg) (a : SReg) (f : BitVec 2) (c : Bool)
  /-- FRSQE (R111): 7-bit reciprocal square-root estimate. -/
  | frsqe (d : SReg) (a : SReg) (f : BitVec 2) (c : Bool)
  /-- FMADD (R112): Fused x*y+z with one rounding. -/
  | fmadd (d : SReg) (a : SReg) (b : SReg) (f : BitVec 2) (r : BitVec 3) (c : Bool)
  /-- FMSUB (R112): Fused x*y-z. -/
  | fmsub (d : SReg) (a : SReg) (b : SReg) (f : BitVec 2) (r : BitVec 3) (c : Bool)
  /-- FNMADD (R112): Fused -(x*y)-z. -/
  | fnmadd (d : SReg) (a : SReg) (b : SReg) (f : BitVec 2) (r : BitVec 3) (c : Bool)
  /-- FNMSUB (R112): Fused -(x*y)+z. -/
  | fnmsub (d : SReg) (a : SReg) (b : SReg) (f : BitVec 2) (r : BitVec 3) (c : Bool)
  /-- FCVT (R113): Scalar conversion between float formats or between float and integer. -/
  | fcvt (d : SReg) (a : SReg) (m : BitVec 7) (r : BitVec 3) (c : Bool)
  /-- LD (R153): Segment-checked scalar load. -/
  | ld (t : SReg) (a : SReg) (seg : SegIx) (ord : BitVec 2) (w : BitVec 3) (i : BitVec 7) (c : Bool)
  /-- ST (R153): Segment-checked scalar store into the store queue. -/
  | st (t : SReg) (a : SReg) (seg : SegIx) (ord : BitVec 2) (w : BitVec 3) (i : BitVec 7) (c : Bool)
  /-- AMOADD (R154): Memory-side atomic add. -/
  | amoadd (t : SReg) (a : SReg) (seg : SegIx) (ord : BitVec 2) (sz : Bool) (b : SReg) (c : Bool)
  /-- AMOSWAP (R154): Memory-side atomic swap. -/
  | amoswap (t : SReg) (a : SReg) (seg : SegIx) (ord : BitVec 2) (sz : Bool) (b : SReg) (c : Bool)
  /-- AMOCAS (R154): Memory-side compare-and-swap against s[t]. -/
  | amocas (t : SReg) (a : SReg) (seg : SegIx) (ord : BitVec 2) (sz : Bool) (b : SReg) (c : Bool)
  /-- AMOAND (R154): Memory-side atomic AND. -/
  | amoand (t : SReg) (a : SReg) (seg : SegIx) (ord : BitVec 2) (sz : Bool) (b : SReg) (c : Bool)
  /-- AMOOR (R154): Memory-side atomic OR. -/
  | amoor (t : SReg) (a : SReg) (seg : SegIx) (ord : BitVec 2) (sz : Bool) (b : SReg) (c : Bool)
  /-- AMOXOR (R154): Memory-side atomic XOR. -/
  | amoxor (t : SReg) (a : SReg) (seg : SegIx) (ord : BitVec 2) (sz : Bool) (b : SReg) (c : Bool)
  /-- AMOMIN (R154): Memory-side atomic signed minimum. -/
  | amomin (t : SReg) (a : SReg) (seg : SegIx) (ord : BitVec 2) (sz : Bool) (b : SReg) (c : Bool)
  /-- AMOMAX (R154): Memory-side atomic signed maximum. -/
  | amomax (t : SReg) (a : SReg) (seg : SegIx) (ord : BitVec 2) (sz : Bool) (b : SReg) (c : Bool)
  /-- AMOMINN (R154): Memory-side atomic unsigned minimum. -/
  | amominn (t : SReg) (a : SReg) (seg : SegIx) (ord : BitVec 2) (sz : Bool) (b : SReg) (c : Bool)
  /-- AMOMAXN (R154): Memory-side atomic unsigned maximum. -/
  | amomaxn (t : SReg) (a : SReg) (seg : SegIx) (ord : BitVec 2) (sz : Bool) (b : SReg) (c : Bool)
  /-- AMOFADD (R154): Memory-side FP32 atomic add. -/
  | amofadd (t : SReg) (a : SReg) (seg : SegIx) (ord : BitVec 2) (b : SReg) (c : Bool)
  /-- FENCE (R171): Memory fence of the given kind and scope. -/
  | fence (p : BitVec 3) (k : BitVec 2) (c : Bool)
  /-- PREF (R157): Prefetch a line into the named level, without trapping. -/
  | pref (l : BitVec 5) (a : SReg) (seg : SegIx) (i : BitVec 7) (c : Bool)
  /-- FLUSHL (R158): Write a dirty line back to the LLC and keep a clean copy. -/
  | flushl (a : SReg) (seg : SegIx) (i : BitVec 7) (c : Bool)
  /-- INVL (R158): Write back and then drop the line. -/
  | invl (a : SReg) (seg : SegIx) (i : BitVec 7) (c : Bool)
  /-- SEND (R184): Send a word on an outbound channel port. -/
  | send (a : SReg) (n : BitVec 3) (c : Bool)
  /-- SENDV (R184): Send a vector on an outbound channel port. -/
  | sendv (va : VReg) (n : BitVec 3) (c : Bool)
  /-- RECV (R184): Receive a word, waiting for an entry. -/
  | recv (d : SReg) (n : BitVec 3) (c : Bool)
  /-- RECVV (R184): Receive a vector, waiting for an entry. -/
  | recvv (vd : VReg) (n : BitVec 3) (c : Bool)
  /-- TRYRECV (R184): Receive without waiting and write a status. -/
  | tryrecv (d : SReg) (a : SReg) (n : BitVec 3) (c : Bool)
  /-- CHSTAT_IN (R186): Read the state of an inbound port. -/
  | chstatIn (d : SReg) (n : BitVec 3) (c : Bool)
  /-- CHSTAT_OUT (R186): Read the state of an outbound port. -/
  | chstatOut (d : SReg) (n : BitVec 3) (c : Bool)
  /-- BAR_ARRIVE (R189): Release-arrive at a barrier and return the target generation. -/
  | barArrive (d : SReg) (n : BitVec 3) (s : BitVec 3) (c : Bool)
  /-- BAR_WAIT (R189): Wait until the target generation has passed. -/
  | barWait (d : SReg) (a : SReg) (n : BitVec 3) (s : BitVec 3) (c : Bool)
  /-- BAR_SYNC (R189): Arrive and wait for the phase to complete. -/
  | barSync (d : SReg) (n : BitVec 3) (s : BitVec 3) (c : Bool)
  /-- BAR_STAT (R189): Read M, ARRIVED and GEN at the barrier home. -/
  | barStat (d : SReg) (n : BitVec 3) (c : Bool)
  /-- INBOX_WAIT (R192): Wait for and take the oldest inbox message. -/
  | inboxWait (d : SReg) (c : Bool)
  /-- INBOX_POLL (R192): Take the oldest inbox message, or return 0. -/
  | inboxPoll (d : SReg) (c : Bool)
  /-- CPY (R277): Push a linear copy to a copy engine. -/
  | cpy (d : SReg) (a : SReg) (b : SReg) (tag : BitVec 16) (expl : Bool) (eng : BitVec 5) (sseg : SegIx) (dseg : SegIx) (c : Bool)
  /-- CPY2D (R277): Push a two-dimensional strided copy. -/
  | cpy2d (d : SReg) (a : SReg) (b : SReg) (tag : BitVec 16) (expl : Bool) (eng : BitVec 5) (sseg : SegIx) (dseg : SegIx) (c : Bool)
  /-- CPYG (R277): Push an indexed gather copy. -/
  | cpyg (d : SReg) (a : SReg) (b : SReg) (tag : BitVec 16) (expl : Bool) (eng : BitVec 5) (e : BitVec 4) (sseg : SegIx) (dseg : SegIx) (c : Bool)
  /-- CPYS (R277): Push an indexed scatter copy. -/
  | cpys (d : SReg) (a : SReg) (b : SReg) (tag : BitVec 16) (expl : Bool) (eng : BitVec 5) (e : BitVec 4) (sseg : SegIx) (dseg : SegIx) (c : Bool)
  /-- CPYRED (R281): Push a copy that reduces into the destination. -/
  | cpyred (d : SReg) (a : SReg) (b : SReg) (tag : BitVec 16) (expl : Bool) (eng : BitVec 5) (ty : BitVec 2) (sseg : SegIx) (dseg : SegIx) (c : Bool)
  /-- CPYRING (R282): Push a fill of the next slot of an operand ring. -/
  | cpyring (d : SReg) (a : SReg) (b : SReg) (tag : BitVec 16) (expl : Bool) (eng : BitVec 5) (sseg : SegIx) (dseg : SegIx) (c : Bool)
  /-- CPYFILL (R277): Push a fill of memory with a repeated pattern. -/
  | cpyfill (d : SReg) (a : SReg) (b : SReg) (tag : BitVec 16) (expl : Bool) (eng : BitVec 5) (lg : BitVec 2) (dseg : SegIx) (c : Bool)
  /-- CPYREM (R284): Push a put or get through a remote window. -/
  | cpyrem (d : SReg) (a : SReg) (b : SReg) (tag : BitVec 16) (expl : Bool) (eng : BitVec 5) (get : Bool) (sseg : SegIx) (dseg : SegIx) (c : Bool)
  /-- TSPAWN (R310): Spawn a child task with a timestamp. -/
  | tspawn (d : SReg) (a : SReg) (b : SReg) (n : BitVec 3) (entry : BitVec 32) (c : Bool)
  /-- TDONE (R310): Finish the current task, or record the worker frame and go idle. -/
  | tdone (c : Bool)
  /-- TTS_POLL (R312): Test whether every task at or below a timestamp has committed. -/
  | ttsPoll (d : SReg) (a : SReg) (c : Bool)
  /-- TTS_WAIT (R312): Wait until every task at or below a timestamp has committed. -/
  | ttsWait (a : SReg) (c : Bool)
  /-- TKEY (R311): Read a part of the current task's key or arguments. -/
  | tkey (d : SReg) (which : BitVec 3) (c : Bool)
  /-- TIRREV (R313): Wait to be non-speculative and make the task irrevocable. -/
  | tirrev (c : Bool)
  /-- VADD (R125): Vector integer add. -/
  | vadd (vd : VReg) (va : VReg) (b : SReg) (bs : Bool) (k : KReg) (w : BitVec 2) (z : Bool) (c : Bool)
  /-- VSUB (R125): Vector integer subtract. -/
  | vsub (vd : VReg) (va : VReg) (b : SReg) (bs : Bool) (k : KReg) (w : BitVec 2) (z : Bool) (c : Bool)
  /-- VMUL (R125): Vector integer multiply, low bits. -/
  | vmul (vd : VReg) (va : VReg) (b : SReg) (bs : Bool) (k : KReg) (w : BitVec 2) (z : Bool) (c : Bool)
  /-- VADDS_I (R125): Vector signed saturating add. -/
  | vaddsI (vd : VReg) (va : VReg) (b : SReg) (bs : Bool) (k : KReg) (w : BitVec 2) (z : Bool) (c : Bool)
  /-- VADDS_N (R125): Vector unsigned saturating add. -/
  | vaddsN (vd : VReg) (va : VReg) (b : SReg) (bs : Bool) (k : KReg) (w : BitVec 2) (z : Bool) (c : Bool)
  /-- VSUBS_I (R125): Vector signed saturating subtract. -/
  | vsubsI (vd : VReg) (va : VReg) (b : SReg) (bs : Bool) (k : KReg) (w : BitVec 2) (z : Bool) (c : Bool)
  /-- VSUBS_N (R125): Vector unsigned saturating subtract. -/
  | vsubsN (vd : VReg) (va : VReg) (b : SReg) (bs : Bool) (k : KReg) (w : BitVec 2) (z : Bool) (c : Bool)
  /-- VMIN_I (R125): Vector signed minimum. -/
  | vminI (vd : VReg) (va : VReg) (b : SReg) (bs : Bool) (k : KReg) (w : BitVec 2) (z : Bool) (c : Bool)
  /-- VMIN_N (R125): Vector unsigned minimum. -/
  | vminN (vd : VReg) (va : VReg) (b : SReg) (bs : Bool) (k : KReg) (w : BitVec 2) (z : Bool) (c : Bool)
  /-- VMAX_I (R125): Vector signed maximum. -/
  | vmaxI (vd : VReg) (va : VReg) (b : SReg) (bs : Bool) (k : KReg) (w : BitVec 2) (z : Bool) (c : Bool)
  /-- VMAX_N (R125): Vector unsigned maximum. -/
  | vmaxN (vd : VReg) (va : VReg) (b : SReg) (bs : Bool) (k : KReg) (w : BitVec 2) (z : Bool) (c : Bool)
  /-- VAND (R125): Vector bitwise AND. -/
  | vand (vd : VReg) (va : VReg) (b : SReg) (bs : Bool) (k : KReg) (w : BitVec 2) (z : Bool) (c : Bool)
  /-- VOR (R125): Vector bitwise OR. -/
  | vor (vd : VReg) (va : VReg) (b : SReg) (bs : Bool) (k : KReg) (w : BitVec 2) (z : Bool) (c : Bool)
  /-- VXOR (R125): Vector bitwise XOR. -/
  | vxor (vd : VReg) (va : VReg) (b : SReg) (bs : Bool) (k : KReg) (w : BitVec 2) (z : Bool) (c : Bool)
  /-- VANDN (R125): Vector AND NOT. -/
  | vandn (vd : VReg) (va : VReg) (b : SReg) (bs : Bool) (k : KReg) (w : BitVec 2) (z : Bool) (c : Bool)
  /-- VSLL (R125): Vector logical left shift. -/
  | vsll (vd : VReg) (va : VReg) (b : SReg) (bs : Bool) (k : KReg) (w : BitVec 2) (z : Bool) (c : Bool)
  /-- VSRL (R125): Vector logical right shift. -/
  | vsrl (vd : VReg) (va : VReg) (b : SReg) (bs : Bool) (k : KReg) (w : BitVec 2) (z : Bool) (c : Bool)
  /-- VSRA (R125): Vector arithmetic right shift. -/
  | vsra (vd : VReg) (va : VReg) (b : SReg) (bs : Bool) (k : KReg) (w : BitVec 2) (z : Bool) (c : Bool)
  /-- VCMPEQ_B32 (R125): Vector integer equality compare into a predicate. -/
  | vcmpeqB32 (kd : KReg) (va : VReg) (b : SReg) (bs : Bool) (k : KReg) (z : Bool) (c : Bool)
  /-- VCMPLT_I32 (R125): Vector signed less-than compare into a predicate. -/
  | vcmpltI32 (kd : KReg) (va : VReg) (b : SReg) (bs : Bool) (k : KReg) (z : Bool) (c : Bool)
  /-- VCMPLT_N32 (R125): Vector unsigned less-than compare into a predicate. -/
  | vcmpltN32 (kd : KReg) (va : VReg) (b : SReg) (bs : Bool) (k : KReg) (z : Bool) (c : Bool)
  /-- VABSS (R125): Vector saturating absolute value. -/
  | vabss (vd : VReg) (va : VReg) (k : KReg) (w : BitVec 2) (z : Bool) (c : Bool)
  /-- VADD_FP (R126): Vector floating-point add. -/
  | vaddFp (vd : VReg) (va : VReg) (b : SReg) (bs : Bool) (k : KReg) (f : BitVec 2) (z : Bool) (c : Bool)
  /-- VSUB_FP (R126): Vector floating-point subtract. -/
  | vsubFp (vd : VReg) (va : VReg) (b : SReg) (bs : Bool) (k : KReg) (f : BitVec 2) (z : Bool) (c : Bool)
  /-- VMUL_FP (R126): Vector floating-point multiply. -/
  | vmulFp (vd : VReg) (va : VReg) (b : SReg) (bs : Bool) (k : KReg) (f : BitVec 2) (z : Bool) (c : Bool)
  /-- VMIN_FP (R126): Vector floating-point minimumNumber. -/
  | vminFp (vd : VReg) (va : VReg) (b : SReg) (bs : Bool) (k : KReg) (f : BitVec 2) (z : Bool) (c : Bool)
  /-- VMAX_FP (R126): Vector floating-point maximumNumber. -/
  | vmaxFp (vd : VReg) (va : VReg) (b : SReg) (bs : Bool) (k : KReg) (f : BitVec 2) (z : Bool) (c : Bool)
  /-- VABS (R126): Vector clear of sign bits. -/
  | vabs (vd : VReg) (va : VReg) (k : KReg) (f : BitVec 2) (z : Bool) (c : Bool)
  /-- VNEG (R126): Vector inversion of sign bits. -/
  | vneg (vd : VReg) (va : VReg) (k : KReg) (f : BitVec 2) (z : Bool) (c : Bool)
  /-- VSGNJ (R126): Vector sign injection. -/
  | vsgnj (vd : VReg) (va : VReg) (b : SReg) (bs : Bool) (k : KReg) (f : BitVec 2) (z : Bool) (c : Bool)
  /-- VCMPEQ_S (R126): Vector FP32 equality compare into a predicate. -/
  | vcmpeqS (kd : KReg) (va : VReg) (b : SReg) (bs : Bool) (k : KReg) (z : Bool) (c : Bool)
  /-- VCMPLT_S (R126): Vector FP32 less-than compare into a predicate. -/
  | vcmpltS (kd : KReg) (va : VReg) (b : SReg) (bs : Bool) (k : KReg) (z : Bool) (c : Bool)
  /-- VCMPLE_S (R126): Vector FP32 less-or-equal compare into a predicate. -/
  | vcmpleS (kd : KReg) (va : VReg) (b : SReg) (bs : Bool) (k : KReg) (z : Bool) (c : Bool)
  /-- VMADD (R126): Vector fused x*y+z. -/
  | vmadd (vd : VReg) (va : VReg) (b : SReg) (bs : Bool) (k : KReg) (f : BitVec 2) (z : Bool) (c : Bool)
  /-- VMSUB (R126): Vector fused x*y-z. -/
  | vmsub (vd : VReg) (va : VReg) (b : SReg) (bs : Bool) (k : KReg) (f : BitVec 2) (z : Bool) (c : Bool)
  /-- VNMADD (R126): Vector fused -(x*y)-z. -/
  | vnmadd (vd : VReg) (va : VReg) (b : SReg) (bs : Bool) (k : KReg) (f : BitVec 2) (z : Bool) (c : Bool)
  /-- VNMSUB (R126): Vector fused -(x*y)+z. -/
  | vnmsub (vd : VReg) (va : VReg) (b : SReg) (bs : Bool) (k : KReg) (f : BitVec 2) (z : Bool) (c : Bool)
  /-- VCVT (R127): Vector conversion of one part of the elements. -/
  | vcvt (vd : VReg) (va : VReg) (p : BitVec 2) (k : KReg) (m : BitVec 7) (z : Bool) (c : Bool)
  /-- VMOV (R129): Vector register copy. -/
  | vmov (vd : VReg) (va : VReg) (k : KReg) (z : Bool) (c : Bool)
  /-- VBCAST (R129): Broadcast a scalar to every lane. -/
  | vbcast (vd : VReg) (b : SReg) (k : KReg) (z : Bool) (c : Bool)
  /-- VSHUF (R129): Lane shuffle by index. -/
  | vshuf (vd : VReg) (va : VReg) (b : SReg) (bs : Bool) (k : KReg) (z : Bool) (c : Bool)
  /-- VSLIDE (R129): Slide lanes by a scalar count. -/
  | vslide (vd : VReg) (va : VReg) (b : SReg) (k : KReg) (z : Bool) (c : Bool)
  /-- VCOMPRESS (R129): Pack the active lanes from lane 0. -/
  | vcompress (vd : VReg) (va : VReg) (k : KReg) (z : Bool) (c : Bool)
  /-- VEXPAND (R129): Spread consecutive lanes to the active lanes. -/
  | vexpand (vd : VReg) (va : VReg) (k : KReg) (z : Bool) (c : Bool)
  /-- VEXTR (R129): Extract a lane to a scalar register. -/
  | vextr (l : BitVec 4) (va : VReg) (d : SReg) (c : Bool)
  /-- VINS (R129): Insert a scalar into a lane. -/
  | vins (vd : VReg) (l : BitVec 4) (b : SReg) (c : Bool)
  /-- VREDADD_I32 (R130): Signed sum of the active lanes into a scalar. -/
  | vredaddI32 (va : VReg) (d : SReg) (k : KReg) (c : Bool)
  /-- VREDADD_N32 (R130): Unsigned sum of the active lanes. -/
  | vredaddN32 (va : VReg) (d : SReg) (k : KReg) (c : Bool)
  /-- VREDMAX_I32 (R130): Signed maximum of the active lanes. -/
  | vredmaxI32 (va : VReg) (d : SReg) (k : KReg) (c : Bool)
  /-- VREDMAX_N32 (R130): Unsigned maximum of the active lanes. -/
  | vredmaxN32 (va : VReg) (d : SReg) (k : KReg) (c : Bool)
  /-- VREDMIN_I32 (R130): Signed minimum of the active lanes. -/
  | vredminI32 (va : VReg) (d : SReg) (k : KReg) (c : Bool)
  /-- VREDMIN_N32 (R130): Unsigned minimum of the active lanes. -/
  | vredminN32 (va : VReg) (d : SReg) (k : KReg) (c : Bool)
  /-- VREDFADD (R131): FP32 pairwise-tree sum of the active lanes. -/
  | vredfadd (va : VReg) (d : SReg) (k : KReg) (c : Bool)
  /-- VREDMAX_S (R131): FP32 pairwise-tree maximum. -/
  | vredmaxS (va : VReg) (d : SReg) (k : KReg) (c : Bool)
  /-- VREDMIN_S (R131): FP32 pairwise-tree minimum. -/
  | vredminS (va : VReg) (d : SReg) (k : KReg) (c : Bool)
  /-- VDOT4_I8 (R133): Signed 4-way byte dot product accumulated per lane. -/
  | vdot4I8 (vd : VReg) (va : VReg) (b : SReg) (bs : Bool) (k : KReg) (z : Bool) (c : Bool)
  /-- VDOT4_N8 (R133): Unsigned 4-way byte dot product accumulated per lane. -/
  | vdot4N8 (vd : VReg) (va : VReg) (b : SReg) (bs : Bool) (k : KReg) (z : Bool) (c : Bool)
  /-- VDOT2H_H (R133): FP16 pair dot product accumulated into FP32. -/
  | vdot2hH (vd : VReg) (va : VReg) (b : SReg) (bs : Bool) (k : KReg) (z : Bool) (c : Bool)
  /-- VDOT2H_BF (R133): BF16 pair dot product accumulated into FP32. -/
  | vdot2hBf (vd : VReg) (va : VReg) (b : SReg) (bs : Bool) (k : KReg) (z : Bool) (c : Bool)
  /-- VUNPK3 (R135): Decode 12 packed-ternary bytes into 60 INT8 weights. -/
  | vunpk3 (vd : VReg) (va : VReg) (k : KReg) (z : Bool) (c : Bool)
  /-- VDOTT (R136): Ternary dot product into lanes 0-11. -/
  | vdott (vd : VReg) (va : VReg) (b : SReg) (k : KReg) (z : Bool) (c : Bool)
  /-- VDECQ (R137): Decode sixteen 4-bit block codes to FP32. -/
  | vdecq (vd : VReg) (va : VReg) (b : SReg) (k : KReg) (z : Bool) (c : Bool)
  /-- VDOTQ (R138): Scaled 4-bit block dot product into lane 0. -/
  | vdotq (vd : VReg) (a : BitVec 3) (b : BitVec 3) (c : Bool)
  /-- KAND (R139): Predicate AND. -/
  | kand (kd : KReg) (ka : KReg) (kb : KReg) (c : Bool)
  /-- KOR (R139): Predicate OR. -/
  | kor (kd : KReg) (ka : KReg) (kb : KReg) (c : Bool)
  /-- KXOR (R139): Predicate XOR. -/
  | kxor (kd : KReg) (ka : KReg) (kb : KReg) (c : Bool)
  /-- KANDN (R139): Predicate AND NOT. -/
  | kandn (kd : KReg) (ka : KReg) (kb : KReg) (c : Bool)
  /-- KNOT (R139): Predicate NOT. -/
  | knot (kd : KReg) (ka : KReg) (c : Bool)
  /-- KPOPC (R139): Count of set predicate bits into a scalar. -/
  | kpopc (ka : KReg) (d : SReg) (c : Bool)
  /-- KFIRST (R139): Index of the lowest set predicate bit. -/
  | kfirst (ka : KReg) (d : SReg) (c : Bool)
  /-- KSET (R139): Set a predicate from a scalar. -/
  | kset (kd : KReg) (b : SReg) (c : Bool)
  /-- KGET (R139): Copy a predicate to a scalar. -/
  | kget (ka : KReg) (d : SReg) (c : Bool)
  /-- VLD (R159): Contiguous vector load. -/
  | vld (vt : VReg) (a : SReg) (x : BitVec 5) (seg : SegIx) (k : KReg) (ord : BitVec 2) (c : Bool)
  /-- VST (R159): Contiguous vector store. -/
  | vst (vt : VReg) (a : SReg) (x : BitVec 5) (seg : SegIx) (k : KReg) (ord : BitVec 2) (c : Bool)
  /-- VLDS (R159): Strided vector load. -/
  | vlds (vt : VReg) (a : SReg) (x : BitVec 5) (seg : SegIx) (k : KReg) (ord : BitVec 2) (c : Bool)
  /-- VSTS (R159): Strided vector store. -/
  | vsts (vt : VReg) (a : SReg) (x : BitVec 5) (seg : SegIx) (k : KReg) (ord : BitVec 2) (c : Bool)
  /-- VGATHER (R159): Indexed vector load. -/
  | vgather (vt : VReg) (a : SReg) (x : VReg) (seg : SegIx) (k : KReg) (ord : BitVec 2) (c : Bool)
  /-- VSCATTER (R159): Indexed vector store. -/
  | vscatter (vt : VReg) (a : SReg) (x : VReg) (seg : SegIx) (k : KReg) (ord : BitVec 2) (c : Bool)
  /-- DADD (R237): Shipped FP64 add. -/
  | dadd (d : SReg) (a : SReg) (b : SReg) (r : BitVec 3) (c : Bool)
  /-- DSUB (R237): Shipped FP64 subtract. -/
  | dsub (d : SReg) (a : SReg) (b : SReg) (r : BitVec 3) (c : Bool)
  /-- DMUL (R237): Shipped FP64 multiply. -/
  | dmul (d : SReg) (a : SReg) (b : SReg) (r : BitVec 3) (c : Bool)
  /-- DDIV (R238): Shipped FP64 divide. -/
  | ddiv (d : SReg) (a : SReg) (b : SReg) (r : BitVec 3) (c : Bool)
  /-- DSQRT (R238): Shipped FP64 square root. -/
  | dsqrt (d : SReg) (a : SReg) (r : BitVec 3) (c : Bool)
  /-- DFMA (R239): Shipped FP64 fused multiply-add. -/
  | dfma (d : SReg) (a : SReg) (b : SReg) (r : BitVec 3) (c : Bool)
  /-- DMIN (R240): Shipped FP64 minimumNumber. -/
  | dmin (d : SReg) (a : SReg) (b : SReg) (c : Bool)
  /-- DMAX (R240): Shipped FP64 maximumNumber. -/
  | dmax (d : SReg) (a : SReg) (b : SReg) (c : Bool)
  /-- DCMP_EQ (R240): Shipped FP64 equality compare. -/
  | dcmpEq (d : SReg) (a : SReg) (b : SReg) (c : Bool)
  /-- DCMP_LT (R240): Shipped FP64 less-than compare. -/
  | dcmpLt (d : SReg) (a : SReg) (b : SReg) (c : Bool)
  /-- DCMP_LE (R240): Shipped FP64 less-or-equal compare. -/
  | dcmpLe (d : SReg) (a : SReg) (b : SReg) (c : Bool)
  /-- DCLASS (R240): Shipped FP64 classification. -/
  | dclass (d : SReg) (a : SReg) (c : Bool)
  /-- FDIV (R238): Shipped FP32 divide. -/
  | fdiv (d : SReg) (a : SReg) (b : SReg) (r : BitVec 3) (c : Bool)
  /-- FSQRT (R238): Shipped FP32 square root. -/
  | fsqrt (d : SReg) (a : SReg) (r : BitVec 3) (c : Bool)
  /-- DCVT (R242): Shipped conversion to or from FP64. -/
  | dcvt (d : SReg) (a : SReg) (m : BitVec 4) (r : BitVec 3) (c : Bool)
  /-- FEXP2 (R243): Shipped correctly rounded 2^x. -/
  | fexp2 (d : SReg) (a : SReg) (c : Bool)
  /-- FLOG2 (R243): Shipped correctly rounded log2 x. -/
  | flog2 (d : SReg) (a : SReg) (c : Bool)
  /-- FSIN (R243): Shipped correctly rounded sine. -/
  | fsin (d : SReg) (a : SReg) (c : Bool)
  /-- FCOS (R243): Shipped correctly rounded cosine. -/
  | fcos (d : SReg) (a : SReg) (c : Bool)
  /-- FTANH (R243): Shipped correctly rounded tanh. -/
  | ftanh (d : SReg) (a : SReg) (c : Bool)
  /-- FSIGM (R243): Shipped correctly rounded logistic sigmoid. -/
  | fsigm (d : SReg) (a : SReg) (c : Bool)
  /-- FRCP (R243): Shipped correctly rounded reciprocal. -/
  | frcp (d : SReg) (a : SReg) (c : Bool)
  /-- FRSQRT (R243): Shipped correctly rounded reciprocal square root. -/
  | frsqrt (d : SReg) (a : SReg) (c : Bool)
  /-- VDADD (R245): Shipped 8-lane FP64 add. -/
  | vdadd (vd : VReg) (va : VReg) (b : SReg) (bs : Bool) (k : KReg) (z : Bool) (c : Bool)
  /-- VDSUB (R245): Shipped 8-lane FP64 subtract. -/
  | vdsub (vd : VReg) (va : VReg) (b : SReg) (bs : Bool) (k : KReg) (z : Bool) (c : Bool)
  /-- VDMUL (R245): Shipped 8-lane FP64 multiply. -/
  | vdmul (vd : VReg) (va : VReg) (b : SReg) (bs : Bool) (k : KReg) (z : Bool) (c : Bool)
  /-- VDDIV (R245): Shipped 8-lane FP64 divide. -/
  | vddiv (vd : VReg) (va : VReg) (b : SReg) (bs : Bool) (k : KReg) (z : Bool) (c : Bool)
  /-- VDSQRT (R245): Shipped 8-lane FP64 square root. -/
  | vdsqrt (vd : VReg) (va : VReg) (k : KReg) (z : Bool) (c : Bool)
  /-- VDFMA (R245): Shipped 8-lane FP64 fused multiply-add with a scalar. -/
  | vdfma (vd : VReg) (va : VReg) (b : SReg) (k : KReg) (z : Bool) (c : Bool)
  /-- VDMIN (R245): Shipped 8-lane FP64 minimum. -/
  | vdmin (vd : VReg) (va : VReg) (b : SReg) (bs : Bool) (k : KReg) (z : Bool) (c : Bool)
  /-- VDMAX (R245): Shipped 8-lane FP64 maximum. -/
  | vdmax (vd : VReg) (va : VReg) (b : SReg) (bs : Bool) (k : KReg) (z : Bool) (c : Bool)
  /-- VDCVT_D_S (R246): Shipped widening of one half of the FP32 lanes to FP64. -/
  | vdcvtDS (vd : VReg) (va : VReg) (p : Bool) (k : KReg) (z : Bool) (c : Bool)
  /-- VDCVT_S_D (R246): Shipped narrowing of FP64 lanes into one half of the FP32 lanes. -/
  | vdcvtSD (vd : VReg) (va : VReg) (p : Bool) (k : KReg) (z : Bool) (c : Bool)
  /-- VFDIV (R245): Shipped 16-lane FP32 divide. -/
  | vfdiv (vd : VReg) (va : VReg) (b : SReg) (bs : Bool) (k : KReg) (z : Bool) (c : Bool)
  /-- VFSQRT (R245): Shipped 16-lane FP32 square root. -/
  | vfsqrt (vd : VReg) (va : VReg) (k : KReg) (z : Bool) (c : Bool)
  /-- VFEXP2 (R245): Shipped 16-lane 2^x. -/
  | vfexp2 (vd : VReg) (va : VReg) (k : KReg) (z : Bool) (c : Bool)
  /-- VFLOG2 (R245): Shipped 16-lane log2. -/
  | vflog2 (vd : VReg) (va : VReg) (k : KReg) (z : Bool) (c : Bool)
  /-- VFSIN (R245): Shipped 16-lane sine. -/
  | vfsin (vd : VReg) (va : VReg) (k : KReg) (z : Bool) (c : Bool)
  /-- VFCOS (R245): Shipped 16-lane cosine. -/
  | vfcos (vd : VReg) (va : VReg) (k : KReg) (z : Bool) (c : Bool)
  /-- VFTANH (R245): Shipped 16-lane tanh. -/
  | vftanh (vd : VReg) (va : VReg) (k : KReg) (z : Bool) (c : Bool)
  /-- VFSIGM (R245): Shipped 16-lane sigmoid. -/
  | vfsigm (vd : VReg) (va : VReg) (k : KReg) (z : Bool) (c : Bool)
  /-- VFRCP (R245): Shipped 16-lane reciprocal. -/
  | vfrcp (vd : VReg) (va : VReg) (k : KReg) (z : Bool) (c : Bool)
  /-- VFRSQRT (R245): Shipped 16-lane reciprocal square root. -/
  | vfrsqrt (vd : VReg) (va : VReg) (k : KReg) (z : Bool) (c : Bool)
  /-- WCAS128 (R247): Shipped 128-bit compare-and-swap. -/
  | wcas128 (t : SReg) (a : SReg) (seg : SegIx) (ord : BitVec 2) (b : SReg) (c : Bool)
  /-- WSWAP128 (R247): Shipped 128-bit swap. -/
  | wswap128 (t : SReg) (a : SReg) (seg : SegIx) (ord : BitVec 2) (b : SReg) (c : Bool)
  /-- WAMOFADD (R247): Shipped FP64 atomic add. -/
  | wamofadd (t : SReg) (a : SReg) (seg : SegIx) (ord : BitVec 2) (b : SReg) (c : Bool)
  /-- WAMOMIN (R247): Shipped FP64 atomic minimum. -/
  | wamomin (t : SReg) (a : SReg) (seg : SegIx) (ord : BitVec 2) (b : SReg) (c : Bool)
  /-- WAMOMAX (R247): Shipped FP64 atomic maximum. -/
  | wamomax (t : SReg) (a : SReg) (seg : SegIx) (ord : BitVec 2) (b : SReg) (c : Bool)
  /-- MMA (R259): Queue a 256x256 tile multiply-accumulate from two rings. -/
  | mma (d : AccIx) (a : RingIx) (b : RingIx) (fmt : BitVec 4) (zero : Bool) (keepa : Bool) (keepb : Bool) (c : Bool)
  /-- MMAG (R265): Queue a grouped multiply driven by a group descriptor. -/
  | mmag (d : AccIx) (a : RingIx) (b : RingIx) (fmt : BitVec 4) (n : SegIx) (r : SReg) (zero : Bool) (keepa : Bool) (c : Bool)
  /-- MZERO (R267): Queue the zeroing of an accumulator. -/
  | mzero (d : AccIx) (c : Bool)
  /-- MACCST (R268): Queue a store of accumulator rows to memory with a completion message. -/
  | maccst (d : AccIx) (a : SReg) (b : SReg) (n : SegIx) (tag : BitVec 16) (fmt : BitVec 3) (c : Bool)
  /-- MACCLD (R269): Queue a load of accumulator rows from memory. -/
  | maccld (d : AccIx) (a : SReg) (b : SReg) (n : SegIx) (fmt : BitVec 3) (c : Bool)
  /-- MRINGCFG_SET (R253): Configure a ring and reset its counters once the matrix queue is empty. -/
  | mringcfgSet (a : RingIx) (b : SReg) (c : Bool)
  /-- MRINGCFG_PUB (R255): Advance a ring's TAIL by n published slots. -/
  | mringcfgPub (a : RingIx) (b : SReg) (c : Bool)
  /-- MRINGCFG_GET (R255): Read a ring's TAIL and HEAD. -/
  | mringcfgGet (d : SReg) (a : RingIx) (c : Bool)
  /-- MSTAT (R271): Read MSTAT and clear the selected sticky bits. -/
  | mstat (d : SReg) (a : SReg) (c : Bool)
  /-- MWAIT (R272): Wait until the strand's matrix queue depth is n or less. -/
  | mwait (n : BitVec 4) (c : Bool)
  /-- SETSEG (R212): Check and write a segment register. -/
  | setseg (a : SReg) (b : SReg) (n : SegIx) (c : Bool)
  /-- GETSEG (R212): Read one word of a segment register. -/
  | getseg (d : SReg) (w : Bool) (n : SegIx) (c : Bool)
  /-- TLBINV_PAGE (R212): Invalidate the translation entry of one page in every port. -/
  | tlbinvPage (a : SReg) (b : SReg) (c : Bool)
  /-- TLBINV_SPACE (R212): Invalidate every entry of one address space. -/
  | tlbinvSpace (b : SReg) (c : Bool)
  /-- TLBINV_ALL (R212): Invalidate every translation entry. -/
  | tlbinvAll (c : Bool)
  /-- PARK (R213): Park until a wake or a deadline unless the wake token is set. -/
  | park (d : SReg) (a : SReg) (c : Bool)
  /-- WAKE (R213): Wake a vcore of the own troupe by vcid. -/
  | wake (a : SReg) (c : Bool)
  /-- WAKE_STRAND (R213): Wake the strand at a strand address. -/
  | wakeStrand (a : SReg) (c : Bool)
  /-- CTXSAVE (R214): Copy a saved context to memory. -/
  | ctxsave (d : SReg) (a : SReg) (b : SReg) (n : SegIx) (c : Bool)
  /-- CTXLOAD (R214): Copy a context image into the thread-context cache. -/
  | ctxload (d : SReg) (a : SReg) (b : SReg) (n : SegIx) (c : Bool)
  /-- SLOTSWAP (R216): Request the exchange or vacating of a slot's occupant. -/
  | slotswap (d : SReg) (a : SReg) (b : SReg) (c : Bool)
  /-- SLOTCTL (R218): Enable or disable a slot. -/
  | slotctl (d : SReg) (a : SReg) (b : SReg) (c : Bool)
  /-- HALT (R220): End the vcore after its outstanding work, releasing its slot. -/
  | halt (c : Bool)
  /-- TRAP (R208): Raise SYSCALL with a code. -/
  | trap (n : BitVec 12) (c : Bool)
  /-- BRK (R208): Raise BREAKPOINT, or stop if claimed by a debugger. -/
  | brk (n : BitVec 12) (c : Bool)
  /-- TRET (R209): Return from the handler to TRAPPC. -/
  | tret (c : Bool)
  /-- CODESYNC (R327): Write back and invalidate translations of a changed code range. -/
  | codesync (a : SReg) (b : SReg) (n : SegIx) (c : Bool)
  /-- XLATINV_RANGE (R328): Invalidate translations overlapping a physical range. -/
  | xlatinvRange (a : SReg) (b : SReg) (c : Bool)
  /-- XLATINV_ALL (R328): Invalidate every translation in the module. -/
  | xlatinvAll (c : Bool)
  /-- XLATPRE (R329): Request translation of a block into L1I without trapping. -/
  | xlatpre (a : SReg) (c : Bool)
  /-- QWAIT (R341): Deliver the mapped queue's next non-WAIT packet. -/
  | qwait (d : SReg) (c : Bool)
  /-- QPOP (R340): Consume one packet of the mapped queue. -/
  | qpop (d : SReg) (c : Bool)
  /-- QPUSH (R340): Insert a READY queue on the call board. -/
  | qpush (d : SReg) (a : SReg) (c : Bool)
  /-- QSIGNAL (R342): Release-store a word, optionally notifying the host. -/
  | qsignal (d : SReg) (a : SReg) (b : SReg) (notify : Bool) (c : Bool)
  /-- QSIGNAL_ADD (R342): Release-AMOADD a word, optionally notifying the host. -/
  | qsignalAdd (d : SReg) (a : SReg) (b : SReg) (notify : Bool) (c : Bool)
  /-- LAUNCH (R345): Launch a troupe, waiting until it can be placed. -/
  | launch (d : SReg) (a : SReg) (c : Bool)
  /-- LAUNCH_TRY (R345): Launch a troupe or return status 1 if it does not fit. -/
  | launchTry (d : SReg) (a : SReg) (c : Bool)
  /-- WQMAP (R340): Wait for and map the call board's lowest-rank queue. -/
  | wqmap (d : SReg) (c : Bool)
  /-- WQMAP_Q (R340): Map a named IDLE or READY queue. -/
  | wqmapQ (d : SReg) (a : SReg) (c : Bool)
  /-- WQUNMAP (R340): Unmap the mapped queue, reinserting it if it holds packets. -/
  | wqunmap (d : SReg) (c : Bool)
  /-- RANKSET (R340): Check and install a rank program. -/
  | rankset (d : SReg) (a : SReg) (c : Bool)
  /-- WPSET (R377): Arm a watch on a segment address. -/
  | wpset (d : SReg) (a : SReg) (b : SReg) (n : SegIx) (c : Bool)
  /-- WPSET_PHYS (R377): Arm a watch on a physical address. -/
  | wpsetPhys (d : SReg) (a : SReg) (b : SReg) (c : Bool)
  /-- WPCLR (R377): Free an owned watch. -/
  | wpclr (d : SReg) (a : SReg) (c : Bool)
  /-- TRACEMARK (R379): Append a record to the die's trace ring. -/
  | tracemark (a : SReg) (t : SReg) (c : Bool)
deriving DecidableEq, Repr

end Sys2Proof
end

