-- ==== Sys2Proof/WellFormed.lean ====
section
/-! DEFINITION. Which instruction terms stand for an assigned encoding with every required-zero field zero
and every sub-field assigned: the first four causes of R40, sub-field by sub-field as the owning chapters fix them. -/

namespace Sys2Proof

/-- The state registers of R73. -/
inductive Sr where
  | cycle | vcid | troupe | core | cluster | die | slot | width | fctl | fflags | vstat | srseed | tvec | trappc | trapcause | trapaddr | trapinfo | cfront | cfrontid | tkey | tkeyid | gshare | mstat | xrev | inboxn | cnissued | cnmem | cnship | cnmsg | cnxlate | cnvacant
deriving DecidableEq, Repr

/-- The state register of a 12-bit number (the map of R73); `none` for an unassigned number. -/
def Sr.ofNum (n : Nat) : Option Sr :=
  match n with
  | 0 => some .cycle
  | 1 => some .vcid
  | 2 => some .troupe
  | 3 => some .core
  | 4 => some .cluster
  | 5 => some .die
  | 6 => some .slot
  | 7 => some .width
  | 16 => some .fctl
  | 17 => some .fflags
  | 18 => some .vstat
  | 19 => some .srseed
  | 32 => some .tvec
  | 33 => some .trappc
  | 34 => some .trapcause
  | 35 => some .trapaddr
  | 36 => some .trapinfo
  | 48 => some .cfront
  | 49 => some .cfrontid
  | 50 => some .tkey
  | 51 => some .tkeyid
  | 64 => some .gshare
  | 65 => some .mstat
  | 80 => some .xrev
  | 81 => some .inboxn
  | 96 => some .cnissued
  | 97 => some .cnmem
  | 98 => some .cnship
  | 99 => some .cnmsg
  | 100 => some .cnxlate
  | 101 => some .cnvacant
  | _ => none

/-- How SETSR may write a state register: not at all, always, or from system code only (R73). -/
inductive SrAccess where
  | readOnly | readWrite | writeSystem
deriving DecidableEq, Repr

/-- The access column of R73. -/
def Sr.access : Sr → SrAccess
  | .cycle => .readOnly
  | .vcid => .readOnly
  | .troupe => .readOnly
  | .core => .readOnly
  | .cluster => .readOnly
  | .die => .readOnly
  | .slot => .readOnly
  | .width => .readOnly
  | .fctl => .readWrite
  | .fflags => .readWrite
  | .vstat => .readWrite
  | .srseed => .readWrite
  | .tvec => .writeSystem
  | .trappc => .writeSystem
  | .trapcause => .writeSystem
  | .trapaddr => .writeSystem
  | .trapinfo => .writeSystem
  | .cfront => .readOnly
  | .cfrontid => .readOnly
  | .tkey => .readOnly
  | .tkeyid => .readOnly
  | .gshare => .writeSystem
  | .mstat => .readOnly
  | .xrev => .readOnly
  | .inboxn => .readOnly
  | .cnissued => .writeSystem
  | .cnmem => .writeSystem
  | .cnship => .writeSystem
  | .cnmsg => .writeSystem
  | .cnxlate => .writeSystem
  | .cnvacant => .writeSystem

/-- GSHARE and MSTAT exist on heavy strands only (R73). -/
def Sr.heavyOnly : Sr → Bool
  | .gshare => true | .mstat => true | _ => false

namespace Wf

/-- With k = 0, z must be zero (R35). -/
def maskOk (k : KReg) (z : Bool) : Bool := k != 0 || !z
/-- With bsel = 0, b[4] must be zero (R35). -/
def bOk (b : SReg) (bs : Bool) : Bool := bs || b.toNat < 16
/-- A GETSR names an assigned number (R73). -/
def readable (n : BitVec 12) : Bool := (Sr.ofNum n.toNat).isSome
/-- A SETSR names an assigned number that is not read-only (R73). -/
def writable (n : BitVec 12) : Bool :=
  match Sr.ofNum n.toNat with
  | some r => r.access != .readOnly
  | none => false
/-- The minor codes of R113: floating to floating, or with integers. -/
def fcvtMinor (m : BitVec 7) : Bool :=
  let n := m.toNat
  if n % 2 == 0 then
    let dst := n / 16
    let src := n / 2 % 8
    dst ≤ 4 && src ≤ 4 && dst != src
  else n / 2 % 8 ≤ 2
/-- The widening conversions of R113, which do not round. -/
def fcvtWidens (m : BitVec 7) : Bool :=
  let n := m.toNat
  n % 2 == 0 && ((n / 16 == 0 && 1 ≤ n / 2 % 8 && n / 2 % 8 ≤ 4) ||
    ((n / 16 == 1 || n / 16 == 2) && (n / 2 % 8 == 3 || n / 2 % 8 == 4)))
/-- FCVT: an assigned minor; aux = 0 in the widening forms, never 0b110 (R105, R113). -/
def fcvtOk (m : BitVec 7) (r : BitVec 3) : Bool :=
  fcvtMinor m && (if fcvtWidens m then r == 0 else r != 6)
/-- Width in bits of a float code of R113. -/
def fcvtWidth (code : Nat) : Nat := if code = 0 then 32 else if code ≤ 2 then 16 else 8
/-- V-CVT accepts every float code and four integer codes; p is below the number of parts (R127). -/
def vcvtOk (m : BitVec 7) (p : BitVec 2) : Bool :=
  let n := m.toNat
  if n % 2 == 0 then
    let d := fcvtWidth (n / 16)
    let s := fcvtWidth (n / 2 % 8)
    fcvtMinor m && p.toNat < max d s / min d s
  else (n == 0x01 || n == 0x21 || n == 0x41 || n == 0x61) && p == 0
/-- DCVT minors 0x20 to 0x2F (R241): 0x23 and 0x27 are reserved; the forms that do not round need aux = 0. -/
def dcvtOk (m : BitVec 4) (r : BitVec 3) : Bool :=
  let n := m.toNat
  n != 3 && n != 7 && (if n ≤ 2 || n == 8 || n == 10 then r == 0 else r != 6)

end Wf

open Wf in
/-- The term stands for an assigned encoding (R40, causes 2 to 4). Events have no encoding and no check. -/
def Instr.wf : Instr → Bool
  | .translationConfirm _ _ => true
  | .walkEnd _ _ => true
  | .faultServiceRetry _ _ => true
  | .faultServiceDecline _ _ => true
  | .reissue _ => true
  | .loadDataReturn _ _ => true
  | .storeQueueDrain _ => true
  | .storePerformed _ _ => true
  | .atomicAtController _ _ => true
  | .releaseMarkerLeave _ _ => true
  | .scReleaseTime _ _ => true
  | .scHeldAccessPerform _ _ => true
  | .trapDelivery _ => true
  | .asyncTrapDelivery _ => true
  | .fatalReport _ => true
  | .coreDump _ => true
  | .coreDumpEnd _ => true
  | .guestQueueEntry _ => true
  | .guestIssue _ => true
  | .shipResultReturn _ _ => true
  | .squashNotice _ _ _ => true
  | .shipMapChange _ _ => true
  | .wideAtomicTranslate _ _ _ => true
  | .wideAtomicPerform _ _ _ => true
  | .channelEntryArrival _ _ _ _ _ => true
  | .creditReturn _ _ _ => true
  | .inboxMessageArrival _ _ _ => true
  | .spillReadback _ _ => true
  | .barrierArrival _ _ _ => true
  | .genUpdateArrival _ _ _ _ => true
  | .barArriveResult _ _ => true
  | .quiescenceCountExpiry _ => true
  | .troupeQuiescent _ => true
  | .quiescenceReoffer _ => true
  | .wakeArrival _ _ => true
  | .parkDeadline _ => true
  | .slotswapArrival _ _ => true
  | .contextSave _ => true
  | .contextRestore _ => true
  | .scratchpadCopy _ _ _ => true
  | .scratchpadClearEnd _ => true
  | .matrixQueueEntry _ _ => true
  | .sequencerStart _ => true
  | .matrixRetire _ => true
  | .maccstWalkEnd _ => true
  | .ringSlotWriteResume _ _ => true
  | .commandStart _ _ => true
  | .copyWalkEnd _ _ => true
  | .ringReservation _ _ => true
  | .cpyringTailAdvance _ _ => true
  | .copyCompletion _ _ => true
  | .remoteFlitArrival _ _ _ _ => true
  | .remoteFlitAck _ _ _ _ _ => true
  | .linkDown _ => true
  | .linkTrain _ => true
  | .spawnAtOrigin _ => true
  | .tspawnIdReturn _ _ => true
  | .taskAccept _ _ => true
  | .taskRefill _ _ => true
  | .taskDispatch _ _ => true
  | .frontierSample _ => true
  | .frontierPublish _ => true
  | .taskCommit _ => true
  | .commitPassEnd _ => true
  | .nonspecNotice _ _ => true
  | .abortNotice _ _ _ => true
  | .irrevocableCommit _ _ => true
  | .irrevocableStoreCheck _ _ _ _ _ => true
  | .workersResume _ => true
  | .translationEnd _ _ => true
  | .templateReload _ => true
  | .tlbinvPortArrival _ _ _ _ => true
  | .arrivalWrite _ _ => true
  | .boardInsertion _ => true
  | .waitPacketPoll _ => true
  | .placementRetry => true
  | .troupeRelease _ => true
  | .thermalSample _ _ _ => true
  | .powerSample _ => true
  | .heavyThermalSample _ _ => true
  | .dieThermalTrip _ => true
  | .powerGood => true
  | .stageB => true
  | .stageC => true
  | .updateUtimeExpiry => true
  | .correctedError _ => true
  | .uncorrectableError _ _ => true
  | .patrolScrub => true
  | .hostPortAccess _ _ _ => true
  | .watchpointReport _ => true
  | .stop _ _ _ => true
  | .stopComplete _ => true
  | .resume _ _ _ _ => true
  | .step _ _ _ _ => true
  | .steptrap _ _ _ => true
  | .blackout _ => true
  | .claim _ _ _ => true
  | .unclaim _ _ _ => true
  | .clrhist _ _ => true
  | .coldReset => true
  | .firmwareUpdate => true
  | .installUpload => true
  | .queueEnable => true
  | .queueDisable => true
  | .mqdataWrite _ => true
  | .systemObjectPlace => true
  | .attestationRequest => true
  | .registerWrite _ _ => true
  | .turn => true
  | .tlbinvCompletion _ _ => true
  | .barStatResult _ _ => true
  | .codesyncCompletion _ _ => true
  | .xlatinvCompletion _ _ => true
  | .contextTransferResult _ _ => true
  | .slotswapStatus _ _ => true
  | .watchArmResult _ _ => true
  | .instructionMemoryRefetch _ => true
  | .ill _ => true
  | .add _ _ _ _ => true
  | .sub _ _ _ _ => true
  | .mul _ _ _ _ => true
  | .mulh _ _ _ _ => true
  | .mulhn _ _ _ _ => true
  | .div _ _ _ _ => true
  | .divn _ _ _ _ => true
  | .rem _ _ _ _ => true
  | .remn _ _ _ _ => true
  | .and _ _ _ _ => true
  | .or _ _ _ _ => true
  | .xor _ _ _ _ => true
  | .andn _ _ _ _ => true
  | .orn _ _ _ _ => true
  | .sll _ _ _ _ => true
  | .srl _ _ _ _ => true
  | .sra _ _ _ _ => true
  | .rol _ _ _ _ => true
  | .ror _ _ _ _ => true
  | .min _ _ _ _ => true
  | .max _ _ _ _ => true
  | .minn _ _ _ _ => true
  | .maxn _ _ _ _ => true
  | .slt _ _ _ _ => true
  | .sltn _ _ _ _ => true
  | .seq _ _ _ _ => true
  | .sne _ _ _ _ => true
  | .clz _ _ _ => true
  | .ctz _ _ _ => true
  | .popc _ _ _ => true
  | .brev _ _ _ => true
  | .bswap _ _ _ => true
  | .ext _ _ _ _ => true
  | .extn _ _ _ _ => true
  | .dep _ _ _ _ => true
  | .sel _ _ _ _ => true
  | .addi _ _ _ _ => true
  | .andi _ _ _ _ => true
  | .ori _ _ _ _ => true
  | .xori _ _ _ _ => true
  | .slli _ _ _ _ => true
  | .srli _ _ _ _ => true
  | .srai _ _ _ _ => true
  | .slti _ _ _ _ => true
  | .sltni _ _ _ _ => true
  | .muli _ _ _ _ => true
  | .lui _ _ _ _ => true
  | .li _ _ _ => true
  | .lea _ _ _ _ _ => true
  | .addx _ _ _ _ _ => true
  | .beq _ _ _ _ => true
  | .bne _ _ _ _ => true
  | .blt _ _ _ _ => true
  | .bge _ _ _ _ => true
  | .bltn _ _ _ _ => true
  | .bgen _ _ _ _ => true
  | .jmp _ _ => true
  | .call _ _ => true
  | .jr _ _ => true
  | .callr _ _ => true
  | .dbnz _ _ _ => true
  | .getsr _ n _ => readable n
  | .setsr _ n _ => writable n
  | .nop _ => true
  | .pause _ _ => true
  | .fadd _ _ _ f r _ => (f != 3) && (r != 6)
  | .fsub _ _ _ f r _ => (f != 3) && (r != 6)
  | .fmul _ _ _ f r _ => (f != 3) && (r != 6)
  | .fmin _ _ _ f _ => f != 3
  | .fmax _ _ _ f _ => f != 3
  | .fabs _ _ f _ => f != 3
  | .fneg _ _ f _ => f != 3
  | .fsgnj _ _ _ f _ => f != 3
  | .feq _ _ _ f _ => f != 3
  | .flt _ _ _ f _ => f != 3
  | .fle _ _ _ f _ => f != 3
  | .fclass _ _ f _ => f != 3
  | .frcpe _ _ f _ => f != 3
  | .frsqe _ _ f _ => f != 3
  | .fmadd _ _ _ f r _ => (f != 3) && (r != 6)
  | .fmsub _ _ _ f r _ => (f != 3) && (r != 6)
  | .fnmadd _ _ _ f r _ => (f != 3) && (r != 6)
  | .fnmsub _ _ _ f r _ => (f != 3) && (r != 6)
  | .fcvt _ _ m r _ => fcvtOk m r
  | .ld _ _ _ ord w _ _ => w != 7 && ord != 2
  | .st _ _ _ ord w _ _ => w.toNat < 4 && ord != 1
  | .amoadd _ _ _ _ _ _ _ => true
  | .amoswap _ _ _ _ _ _ _ => true
  | .amocas _ _ _ _ _ _ _ => true
  | .amoand _ _ _ _ _ _ _ => true
  | .amoor _ _ _ _ _ _ _ => true
  | .amoxor _ _ _ _ _ _ _ => true
  | .amomin _ _ _ _ _ _ _ => true
  | .amomax _ _ _ _ _ _ _ => true
  | .amominn _ _ _ _ _ _ _ => true
  | .amomaxn _ _ _ _ _ _ _ => true
  | .amofadd _ _ _ _ _ _ => true
  | .fence p _ _ => p.toNat ≤ 4
  | .pref l _ _ _ _ => l.toNat ≤ 2
  | .flushl _ _ _ _ => true
  | .invl _ _ _ _ => true
  | .send _ _ _ => true
  | .sendv _ _ _ => true
  | .recv _ _ _ => true
  | .recvv _ _ _ => true
  | .tryrecv d a _ _ => !(a == d && d != 0)
  | .chstatIn _ _ _ => true
  | .chstatOut _ _ _ => true
  | .barArrive _ _ s _ => s.toNat ≤ 4
  | .barWait _ _ _ s _ => s.toNat ≤ 4
  | .barSync _ _ s _ => s.toNat ≤ 4
  | .barStat _ _ _ => true
  | .inboxWait _ _ => true
  | .inboxPoll _ _ => true
  | .cpy _ _ _ _ expl eng _ _ _ => expl || eng == 0
  | .cpy2d _ _ b _ expl eng _ _ _ => (expl || eng == 0) && (b.toNat % 2 == 0 && b != 0)
  | .cpyg _ _ b _ expl eng e _ _ _ => (expl || eng == 0) && (b.toNat % 2 == 0 && b != 0) && (2 ≤ e.toNat && e.toNat ≤ 8)
  | .cpys _ _ b _ expl eng e _ _ _ => (expl || eng == 0) && (b.toNat % 2 == 0 && b != 0) && (2 ≤ e.toNat && e.toNat ≤ 8)
  | .cpyred _ _ _ _ expl eng ty _ _ _ => (expl || eng == 0) && (ty != 3)
  | .cpyring _ _ _ _ expl eng _ _ _ => expl || eng == 0
  | .cpyfill _ _ _ _ expl eng _ _ _ => expl || eng == 0
  | .cpyrem _ _ _ _ expl eng _ _ _ _ => expl || eng == 0
  | .tspawn _ _ b n entry _ => n.toNat ≤ 3 && (n != 0 || b == 0) && b.toNat + n.toNat ≤ 32 && entry.toNat % 4 == 0
  | .tdone _ => true
  | .ttsPoll _ _ _ => true
  | .ttsWait _ _ => true
  | .tkey _ which _ => which != 7
  | .tirrev _ => true
  | .vadd _ _ b bs k w z _ => (maskOk k z) && (bOk b bs) && (w != 3)
  | .vsub _ _ b bs k w z _ => (maskOk k z) && (bOk b bs) && (w != 3)
  | .vmul _ _ b bs k w z _ => (maskOk k z) && (bOk b bs) && (w != 3)
  | .vaddsI _ _ b bs k w z _ => (maskOk k z) && (bOk b bs) && (w != 3)
  | .vaddsN _ _ b bs k w z _ => (maskOk k z) && (bOk b bs) && (w != 3)
  | .vsubsI _ _ b bs k w z _ => (maskOk k z) && (bOk b bs) && (w != 3)
  | .vsubsN _ _ b bs k w z _ => (maskOk k z) && (bOk b bs) && (w != 3)
  | .vminI _ _ b bs k w z _ => (maskOk k z) && (bOk b bs) && (w != 3)
  | .vminN _ _ b bs k w z _ => (maskOk k z) && (bOk b bs) && (w != 3)
  | .vmaxI _ _ b bs k w z _ => (maskOk k z) && (bOk b bs) && (w != 3)
  | .vmaxN _ _ b bs k w z _ => (maskOk k z) && (bOk b bs) && (w != 3)
  | .vand _ _ b bs k w z _ => (maskOk k z) && (bOk b bs) && (w != 3)
  | .vor _ _ b bs k w z _ => (maskOk k z) && (bOk b bs) && (w != 3)
  | .vxor _ _ b bs k w z _ => (maskOk k z) && (bOk b bs) && (w != 3)
  | .vandn _ _ b bs k w z _ => (maskOk k z) && (bOk b bs) && (w != 3)
  | .vsll _ _ b bs k w z _ => (maskOk k z) && (bOk b bs) && (w != 3)
  | .vsrl _ _ b bs k w z _ => (maskOk k z) && (bOk b bs) && (w != 3)
  | .vsra _ _ b bs k w z _ => (maskOk k z) && (bOk b bs) && (w != 3)
  | .vcmpeqB32 _ _ b bs k z _ => (maskOk k z) && (bOk b bs)
  | .vcmpltI32 _ _ b bs k z _ => (maskOk k z) && (bOk b bs)
  | .vcmpltN32 _ _ b bs k z _ => (maskOk k z) && (bOk b bs)
  | .vabss _ _ k w z _ => (maskOk k z) && (w != 3)
  | .vaddFp _ _ b bs k f z _ => (maskOk k z) && (bOk b bs) && (f != 3)
  | .vsubFp _ _ b bs k f z _ => (maskOk k z) && (bOk b bs) && (f != 3)
  | .vmulFp _ _ b bs k f z _ => (maskOk k z) && (bOk b bs) && (f != 3)
  | .vminFp _ _ b bs k f z _ => (maskOk k z) && (bOk b bs) && (f != 3)
  | .vmaxFp _ _ b bs k f z _ => (maskOk k z) && (bOk b bs) && (f != 3)
  | .vabs _ _ k f z _ => (maskOk k z) && (f != 3)
  | .vneg _ _ k f z _ => (maskOk k z) && (f != 3)
  | .vsgnj _ _ b bs k f z _ => (maskOk k z) && (bOk b bs) && (f != 3)
  | .vcmpeqS _ _ b bs k z _ => (maskOk k z) && (bOk b bs)
  | .vcmpltS _ _ b bs k z _ => (maskOk k z) && (bOk b bs)
  | .vcmpleS _ _ b bs k z _ => (maskOk k z) && (bOk b bs)
  | .vmadd _ _ b bs k f z _ => (maskOk k z) && (bOk b bs) && (f != 3)
  | .vmsub _ _ b bs k f z _ => (maskOk k z) && (bOk b bs) && (f != 3)
  | .vnmadd _ _ b bs k f z _ => (maskOk k z) && (bOk b bs) && (f != 3)
  | .vnmsub _ _ b bs k f z _ => (maskOk k z) && (bOk b bs) && (f != 3)
  | .vcvt _ _ p k m z _ => (maskOk k z) && (vcvtOk m p)
  | .vmov _ _ k z _ => maskOk k z
  | .vbcast _ _ k z _ => maskOk k z
  | .vshuf _ _ b bs k z _ => (maskOk k z) && (bOk b bs)
  | .vslide _ _ _ k z _ => maskOk k z
  | .vcompress _ _ k z _ => maskOk k z
  | .vexpand _ _ k z _ => maskOk k z
  | .vextr _ _ _ _ => true
  | .vins _ _ _ _ => true
  | .vredaddI32 _ _ _ _ => true
  | .vredaddN32 _ _ _ _ => true
  | .vredmaxI32 _ _ _ _ => true
  | .vredmaxN32 _ _ _ _ => true
  | .vredminI32 _ _ _ _ => true
  | .vredminN32 _ _ _ _ => true
  | .vredfadd _ _ _ _ => true
  | .vredmaxS _ _ _ _ => true
  | .vredminS _ _ _ _ => true
  | .vdot4I8 _ _ b bs k z _ => (maskOk k z) && (bOk b bs)
  | .vdot4N8 _ _ b bs k z _ => (maskOk k z) && (bOk b bs)
  | .vdot2hH _ _ b bs k z _ => (maskOk k z) && (bOk b bs)
  | .vdot2hBf _ _ b bs k z _ => (maskOk k z) && (bOk b bs)
  | .vunpk3 _ _ k z _ => maskOk k z
  | .vdott _ _ b k z _ => (maskOk k z) && (b.toNat < 16)
  | .vdecq _ _ _ k z _ => maskOk k z
  | .vdotq _ _ _ _ => true
  | .kand _ _ _ _ => true
  | .kor _ _ _ _ => true
  | .kxor _ _ _ _ => true
  | .kandn _ _ _ _ => true
  | .knot _ _ _ => true
  | .kpopc _ _ _ => true
  | .kfirst _ _ _ => true
  | .kset _ _ _ => true
  | .kget _ _ _ => true
  | .vld _ _ _ _ _ ord _ => ord != 2
  | .vst _ _ _ _ _ ord _ => ord != 1
  | .vlds _ _ _ _ _ ord _ => ord != 2
  | .vsts _ _ _ _ _ ord _ => ord != 1
  | .vgather _ _ _ _ _ ord _ => ord != 2
  | .vscatter _ _ _ _ _ ord _ => ord != 1
  | .dadd _ _ _ r _ => r != 6
  | .dsub _ _ _ r _ => r != 6
  | .dmul _ _ _ r _ => r != 6
  | .ddiv _ _ _ r _ => r != 6
  | .dsqrt _ _ r _ => r != 6
  | .dfma _ _ _ r _ => r != 6
  | .dmin _ _ _ _ => true
  | .dmax _ _ _ _ => true
  | .dcmpEq _ _ _ _ => true
  | .dcmpLt _ _ _ _ => true
  | .dcmpLe _ _ _ _ => true
  | .dclass _ _ _ => true
  | .fdiv _ _ _ r _ => r != 6
  | .fsqrt _ _ r _ => r != 6
  | .dcvt _ _ m r _ => dcvtOk m r
  | .fexp2 _ _ _ => true
  | .flog2 _ _ _ => true
  | .fsin _ _ _ => true
  | .fcos _ _ _ => true
  | .ftanh _ _ _ => true
  | .fsigm _ _ _ => true
  | .frcp _ _ _ => true
  | .frsqrt _ _ _ => true
  | .vdadd _ _ b bs k z _ => (maskOk k z) && (bOk b bs)
  | .vdsub _ _ b bs k z _ => (maskOk k z) && (bOk b bs)
  | .vdmul _ _ b bs k z _ => (maskOk k z) && (bOk b bs)
  | .vddiv _ _ b bs k z _ => (maskOk k z) && (bOk b bs)
  | .vdsqrt _ _ k z _ => maskOk k z
  | .vdfma _ _ _ k z _ => maskOk k z
  | .vdmin _ _ b bs k z _ => (maskOk k z) && (bOk b bs)
  | .vdmax _ _ b bs k z _ => (maskOk k z) && (bOk b bs)
  | .vdcvtDS _ _ _ k z _ => maskOk k z
  | .vdcvtSD _ _ _ k z _ => maskOk k z
  | .vfdiv _ _ b bs k z _ => (maskOk k z) && (bOk b bs)
  | .vfsqrt _ _ k z _ => maskOk k z
  | .vfexp2 _ _ k z _ => maskOk k z
  | .vflog2 _ _ k z _ => maskOk k z
  | .vfsin _ _ k z _ => maskOk k z
  | .vfcos _ _ k z _ => maskOk k z
  | .vftanh _ _ k z _ => maskOk k z
  | .vfsigm _ _ k z _ => maskOk k z
  | .vfrcp _ _ k z _ => maskOk k z
  | .vfrsqrt _ _ k z _ => maskOk k z
  | .wcas128 t _ _ _ b _ => t.toNat % 2 == 0 && t != 0 && b.toNat % 2 == 0
  | .wswap128 t _ _ _ b _ => t.toNat % 2 == 0 && t != 0 && b.toNat % 2 == 0
  | .wamofadd _ _ _ _ _ _ => true
  | .wamomin _ _ _ _ _ _ => true
  | .wamomax _ _ _ _ _ _ => true
  | .mma d a b fmt _ keepa keepb _ => fmt.toNat ≤ 10 && (fmt != 10 || d.toNat % 2 == 0) && (a != b || keepa == keepb)
  | .mmag d _ _ fmt _ _ _ _ _ => fmt.toNat ≤ 10 && (fmt != 10 || d.toNat % 2 == 0)
  | .mzero _ _ => true
  | .maccst d _ _ _ _ fmt _ => fmt.toNat ≤ 5 && (fmt != 5 || d.toNat % 2 == 0)
  | .maccld d _ _ _ fmt _ => fmt.toNat ≤ 5 && (fmt != 5 || d.toNat % 2 == 0)
  | .mringcfgSet _ _ _ => true
  | .mringcfgPub _ _ _ => true
  | .mringcfgGet _ _ _ => true
  | .mstat _ _ _ => true
  | .mwait n _ => n.toNat ≤ 8
  | .setseg _ _ _ _ => true
  | .getseg _ _ _ _ => true
  | .tlbinvPage _ _ _ => true
  | .tlbinvSpace _ _ => true
  | .tlbinvAll _ => true
  | .park _ _ _ => true
  | .wake _ _ => true
  | .wakeStrand _ _ => true
  | .ctxsave _ _ _ _ _ => true
  | .ctxload _ _ _ _ _ => true
  | .slotswap _ _ _ _ => true
  | .slotctl _ _ _ _ => true
  | .halt _ => true
  | .trap _ _ => true
  | .brk _ _ => true
  | .tret _ => true
  | .codesync _ _ _ _ => true
  | .xlatinvRange _ _ _ => true
  | .xlatinvAll _ => true
  | .xlatpre _ _ => true
  | .qwait _ _ => true
  | .qpop _ _ => true
  | .qpush _ _ _ => true
  | .qsignal _ _ _ _ _ => true
  | .qsignalAdd _ _ _ _ _ => true
  | .launch _ _ _ => true
  | .launchTry _ _ _ => true
  | .wqmap _ _ => true
  | .wqmapQ _ _ _ => true
  | .wqunmap _ _ => true
  | .rankset _ _ _ => true
  | .wpset _ _ _ _ _ => true
  | .wpsetPhys _ _ _ _ => true
  | .wpclr _ _ _ => true
  | .tracemark _ _ _ => true

end Sys2Proof
end

