-- ==== Sys2Proof/Decode.lean ====
section
/-! DEFINITION. The decoder, total on any words and bytes (R29 to R40), and the encoder, both from the
encoding tables of the owning chapters. A word that is no instruction is rejected by name. -/

namespace Sys2Proof

open Machine

/-- Major 0x00: its assigned words, required-zero fields checked. -/
def decMajor00 (w : Nat) : Option Instr :=
  if fld w 1 25 = 0 then some (.ill (fld w 0 1 == 1))
  else none

/-- Major 0x01: its assigned words, required-zero fields checked. -/
def decMajor01 (w : Nat) : Option Instr :=
  match fld w 4 7 with
  | 0 =>
    if fld w 1 3 = 0 then some (.add (.ofNat 5 (fld w 21 5)) (.ofNat 5 (fld w 16 5)) (.ofNat 5 (fld w 11 5)) (fld w 0 1 == 1))
    else none
  | 1 =>
    if fld w 1 3 = 0 then some (.sub (.ofNat 5 (fld w 21 5)) (.ofNat 5 (fld w 16 5)) (.ofNat 5 (fld w 11 5)) (fld w 0 1 == 1))
    else none
  | 2 =>
    if fld w 1 3 = 0 then some (.mul (.ofNat 5 (fld w 21 5)) (.ofNat 5 (fld w 16 5)) (.ofNat 5 (fld w 11 5)) (fld w 0 1 == 1))
    else none
  | 3 =>
    if fld w 1 3 = 0 then some (.mulh (.ofNat 5 (fld w 21 5)) (.ofNat 5 (fld w 16 5)) (.ofNat 5 (fld w 11 5)) (fld w 0 1 == 1))
    else none
  | 4 =>
    if fld w 1 3 = 0 then some (.mulhn (.ofNat 5 (fld w 21 5)) (.ofNat 5 (fld w 16 5)) (.ofNat 5 (fld w 11 5)) (fld w 0 1 == 1))
    else none
  | 5 =>
    if fld w 1 3 = 0 then some (.div (.ofNat 5 (fld w 21 5)) (.ofNat 5 (fld w 16 5)) (.ofNat 5 (fld w 11 5)) (fld w 0 1 == 1))
    else none
  | 6 =>
    if fld w 1 3 = 0 then some (.divn (.ofNat 5 (fld w 21 5)) (.ofNat 5 (fld w 16 5)) (.ofNat 5 (fld w 11 5)) (fld w 0 1 == 1))
    else none
  | 7 =>
    if fld w 1 3 = 0 then some (.rem (.ofNat 5 (fld w 21 5)) (.ofNat 5 (fld w 16 5)) (.ofNat 5 (fld w 11 5)) (fld w 0 1 == 1))
    else none
  | 8 =>
    if fld w 1 3 = 0 then some (.remn (.ofNat 5 (fld w 21 5)) (.ofNat 5 (fld w 16 5)) (.ofNat 5 (fld w 11 5)) (fld w 0 1 == 1))
    else none
  | 16 =>
    if fld w 1 3 = 0 then some (.and (.ofNat 5 (fld w 21 5)) (.ofNat 5 (fld w 16 5)) (.ofNat 5 (fld w 11 5)) (fld w 0 1 == 1))
    else none
  | 17 =>
    if fld w 1 3 = 0 then some (.or (.ofNat 5 (fld w 21 5)) (.ofNat 5 (fld w 16 5)) (.ofNat 5 (fld w 11 5)) (fld w 0 1 == 1))
    else none
  | 18 =>
    if fld w 1 3 = 0 then some (.xor (.ofNat 5 (fld w 21 5)) (.ofNat 5 (fld w 16 5)) (.ofNat 5 (fld w 11 5)) (fld w 0 1 == 1))
    else none
  | 19 =>
    if fld w 1 3 = 0 then some (.andn (.ofNat 5 (fld w 21 5)) (.ofNat 5 (fld w 16 5)) (.ofNat 5 (fld w 11 5)) (fld w 0 1 == 1))
    else none
  | 20 =>
    if fld w 1 3 = 0 then some (.orn (.ofNat 5 (fld w 21 5)) (.ofNat 5 (fld w 16 5)) (.ofNat 5 (fld w 11 5)) (fld w 0 1 == 1))
    else none
  | 24 =>
    if fld w 1 3 = 0 then some (.sll (.ofNat 5 (fld w 21 5)) (.ofNat 5 (fld w 16 5)) (.ofNat 5 (fld w 11 5)) (fld w 0 1 == 1))
    else none
  | 25 =>
    if fld w 1 3 = 0 then some (.srl (.ofNat 5 (fld w 21 5)) (.ofNat 5 (fld w 16 5)) (.ofNat 5 (fld w 11 5)) (fld w 0 1 == 1))
    else none
  | 26 =>
    if fld w 1 3 = 0 then some (.sra (.ofNat 5 (fld w 21 5)) (.ofNat 5 (fld w 16 5)) (.ofNat 5 (fld w 11 5)) (fld w 0 1 == 1))
    else none
  | 27 =>
    if fld w 1 3 = 0 then some (.rol (.ofNat 5 (fld w 21 5)) (.ofNat 5 (fld w 16 5)) (.ofNat 5 (fld w 11 5)) (fld w 0 1 == 1))
    else none
  | 28 =>
    if fld w 1 3 = 0 then some (.ror (.ofNat 5 (fld w 21 5)) (.ofNat 5 (fld w 16 5)) (.ofNat 5 (fld w 11 5)) (fld w 0 1 == 1))
    else none
  | 32 =>
    if fld w 1 3 = 0 then some (.min (.ofNat 5 (fld w 21 5)) (.ofNat 5 (fld w 16 5)) (.ofNat 5 (fld w 11 5)) (fld w 0 1 == 1))
    else none
  | 33 =>
    if fld w 1 3 = 0 then some (.max (.ofNat 5 (fld w 21 5)) (.ofNat 5 (fld w 16 5)) (.ofNat 5 (fld w 11 5)) (fld w 0 1 == 1))
    else none
  | 34 =>
    if fld w 1 3 = 0 then some (.minn (.ofNat 5 (fld w 21 5)) (.ofNat 5 (fld w 16 5)) (.ofNat 5 (fld w 11 5)) (fld w 0 1 == 1))
    else none
  | 35 =>
    if fld w 1 3 = 0 then some (.maxn (.ofNat 5 (fld w 21 5)) (.ofNat 5 (fld w 16 5)) (.ofNat 5 (fld w 11 5)) (fld w 0 1 == 1))
    else none
  | 40 =>
    if fld w 1 3 = 0 then some (.slt (.ofNat 5 (fld w 21 5)) (.ofNat 5 (fld w 16 5)) (.ofNat 5 (fld w 11 5)) (fld w 0 1 == 1))
    else none
  | 41 =>
    if fld w 1 3 = 0 then some (.sltn (.ofNat 5 (fld w 21 5)) (.ofNat 5 (fld w 16 5)) (.ofNat 5 (fld w 11 5)) (fld w 0 1 == 1))
    else none
  | 42 =>
    if fld w 1 3 = 0 then some (.seq (.ofNat 5 (fld w 21 5)) (.ofNat 5 (fld w 16 5)) (.ofNat 5 (fld w 11 5)) (fld w 0 1 == 1))
    else none
  | 43 =>
    if fld w 1 3 = 0 then some (.sne (.ofNat 5 (fld w 21 5)) (.ofNat 5 (fld w 16 5)) (.ofNat 5 (fld w 11 5)) (fld w 0 1 == 1))
    else none
  | 48 =>
    if fld w 1 3 = 0 ∧ fld w 11 5 = 0 then some (.clz (.ofNat 5 (fld w 21 5)) (.ofNat 5 (fld w 16 5)) (fld w 0 1 == 1))
    else none
  | 49 =>
    if fld w 1 3 = 0 ∧ fld w 11 5 = 0 then some (.ctz (.ofNat 5 (fld w 21 5)) (.ofNat 5 (fld w 16 5)) (fld w 0 1 == 1))
    else none
  | 50 =>
    if fld w 1 3 = 0 ∧ fld w 11 5 = 0 then some (.popc (.ofNat 5 (fld w 21 5)) (.ofNat 5 (fld w 16 5)) (fld w 0 1 == 1))
    else none
  | 51 =>
    if fld w 1 3 = 0 ∧ fld w 11 5 = 0 then some (.brev (.ofNat 5 (fld w 21 5)) (.ofNat 5 (fld w 16 5)) (fld w 0 1 == 1))
    else none
  | 52 =>
    if fld w 1 3 = 0 ∧ fld w 11 5 = 0 then some (.bswap (.ofNat 5 (fld w 21 5)) (.ofNat 5 (fld w 16 5)) (fld w 0 1 == 1))
    else none
  | 56 =>
    if fld w 1 3 = 0 then some (.ext (.ofNat 5 (fld w 21 5)) (.ofNat 5 (fld w 16 5)) (.ofNat 5 (fld w 11 5)) (fld w 0 1 == 1))
    else none
  | 57 =>
    if fld w 1 3 = 0 then some (.extn (.ofNat 5 (fld w 21 5)) (.ofNat 5 (fld w 16 5)) (.ofNat 5 (fld w 11 5)) (fld w 0 1 == 1))
    else none
  | 58 =>
    if fld w 1 3 = 0 then some (.dep (.ofNat 5 (fld w 21 5)) (.ofNat 5 (fld w 16 5)) (.ofNat 5 (fld w 11 5)) (fld w 0 1 == 1))
    else none
  | 59 =>
    if fld w 1 3 = 0 then some (.sel (.ofNat 5 (fld w 21 5)) (.ofNat 5 (fld w 16 5)) (.ofNat 5 (fld w 11 5)) (fld w 0 1 == 1))
    else none
  | _ => none

/-- Major 0x02: its assigned words, required-zero fields checked. -/
def decMajor02 (w : Nat) : Option Instr :=
  some (.addi (.ofNat 5 (fld w 21 5)) (.ofNat 5 (fld w 16 5)) (.ofNat 15 (fld w 1 15)) (fld w 0 1 == 1))

/-- Major 0x03: its assigned words, required-zero fields checked. -/
def decMajor03 (w : Nat) : Option Instr :=
  some (.andi (.ofNat 5 (fld w 21 5)) (.ofNat 5 (fld w 16 5)) (.ofNat 15 (fld w 1 15)) (fld w 0 1 == 1))

/-- Major 0x04: its assigned words, required-zero fields checked. -/
def decMajor04 (w : Nat) : Option Instr :=
  some (.ori (.ofNat 5 (fld w 21 5)) (.ofNat 5 (fld w 16 5)) (.ofNat 15 (fld w 1 15)) (fld w 0 1 == 1))

/-- Major 0x05: its assigned words, required-zero fields checked. -/
def decMajor05 (w : Nat) : Option Instr :=
  some (.xori (.ofNat 5 (fld w 21 5)) (.ofNat 5 (fld w 16 5)) (.ofNat 15 (fld w 1 15)) (fld w 0 1 == 1))

/-- Major 0x06: its assigned words, required-zero fields checked. -/
def decMajor06 (w : Nat) : Option Instr :=
  match fld w 7 2 with
  | 0 =>
    if fld w 9 7 = 0 then some (.slli (.ofNat 5 (fld w 21 5)) (.ofNat 5 (fld w 16 5)) (.ofNat 6 (fld w 1 6)) (fld w 0 1 == 1))
    else none
  | 1 =>
    if fld w 9 7 = 0 then some (.srli (.ofNat 5 (fld w 21 5)) (.ofNat 5 (fld w 16 5)) (.ofNat 6 (fld w 1 6)) (fld w 0 1 == 1))
    else none
  | 2 =>
    if fld w 9 7 = 0 then some (.srai (.ofNat 5 (fld w 21 5)) (.ofNat 5 (fld w 16 5)) (.ofNat 6 (fld w 1 6)) (fld w 0 1 == 1))
    else none
  | _ => none

/-- Major 0x07: its assigned words, required-zero fields checked. -/
def decMajor07 (w : Nat) : Option Instr :=
  match fld w 15 1 with
  | 0 =>
    some (.slti (.ofNat 5 (fld w 21 5)) (.ofNat 5 (fld w 16 5)) (.ofNat 14 (fld w 1 14)) (fld w 0 1 == 1))
  | 1 =>
    some (.sltni (.ofNat 5 (fld w 21 5)) (.ofNat 5 (fld w 16 5)) (.ofNat 14 (fld w 1 14)) (fld w 0 1 == 1))
  | _ => none

/-- Major 0x08: its assigned words, required-zero fields checked. -/
def decMajor08 (w : Nat) : Option Instr :=
  some (.muli (.ofNat 5 (fld w 21 5)) (.ofNat 5 (fld w 16 5)) (.ofNat 15 (fld w 1 15)) (fld w 0 1 == 1))

/-- Major 0x09: its assigned words, required-zero fields checked. -/
def decMajor09 (w : Nat) : Option Instr :=
  some (.lui (.ofNat 5 (fld w 21 5)) (.ofNat 5 (fld w 16 5)) (.ofNat 15 (fld w 1 15)) (fld w 0 1 == 1))

/-- Major 0x0A: its assigned words, required-zero fields checked. -/
def decMajor0A (w : Nat) : Option Instr :=
  match fld w 4 7 with
  | 0 =>
    some (.lea (.ofNat 5 (fld w 21 5)) (.ofNat 5 (fld w 16 5)) (.ofNat 5 (fld w 11 5)) (.ofNat 3 (fld w 1 3)) (fld w 0 1 == 1))
  | 1 =>
    some (.addx (.ofNat 5 (fld w 21 5)) (.ofNat 5 (fld w 16 5)) (.ofNat 5 (fld w 11 5)) (.ofNat 3 (fld w 1 3)) (fld w 0 1 == 1))
  | _ => none

/-- Major 0x0B: its assigned words, required-zero fields checked. -/
def decMajor0B (w : Nat) : Option Instr :=
  match fld w 22 4 with
  | 0 =>
    some (.beq (.ofNat 5 (fld w 17 5)) (.ofNat 5 (fld w 12 5)) (.ofNat 11 (fld w 1 11)) (fld w 0 1 == 1))
  | 1 =>
    some (.bne (.ofNat 5 (fld w 17 5)) (.ofNat 5 (fld w 12 5)) (.ofNat 11 (fld w 1 11)) (fld w 0 1 == 1))
  | 2 =>
    some (.blt (.ofNat 5 (fld w 17 5)) (.ofNat 5 (fld w 12 5)) (.ofNat 11 (fld w 1 11)) (fld w 0 1 == 1))
  | 3 =>
    some (.bge (.ofNat 5 (fld w 17 5)) (.ofNat 5 (fld w 12 5)) (.ofNat 11 (fld w 1 11)) (fld w 0 1 == 1))
  | 4 =>
    some (.bltn (.ofNat 5 (fld w 17 5)) (.ofNat 5 (fld w 12 5)) (.ofNat 11 (fld w 1 11)) (fld w 0 1 == 1))
  | 5 =>
    some (.bgen (.ofNat 5 (fld w 17 5)) (.ofNat 5 (fld w 12 5)) (.ofNat 11 (fld w 1 11)) (fld w 0 1 == 1))
  | _ => none

/-- Major 0x0C: its assigned words, required-zero fields checked. -/
def decMajor0C (w : Nat) : Option Instr :=
  some (.jmp (.ofNat 25 (fld w 1 25)) (fld w 0 1 == 1))

/-- Major 0x0D: its assigned words, required-zero fields checked. -/
def decMajor0D (w : Nat) : Option Instr :=
  some (.call (.ofNat 25 (fld w 1 25)) (fld w 0 1 == 1))

/-- Major 0x0E: its assigned words, required-zero fields checked. -/
def decMajor0E (w : Nat) : Option Instr :=
  match fld w 22 4 with
  | 0 =>
    if fld w 1 16 = 0 then some (.jr (.ofNat 5 (fld w 17 5)) (fld w 0 1 == 1))
    else none
  | 1 =>
    if fld w 1 16 = 0 then some (.callr (.ofNat 5 (fld w 17 5)) (fld w 0 1 == 1))
    else none
  | 2 =>
    if fld w 12 5 = 0 then some (.dbnz (.ofNat 5 (fld w 17 5)) (.ofNat 11 (fld w 1 11)) (fld w 0 1 == 1))
    else none
  | _ => none

/-- Major 0x0F: its assigned words, required-zero fields checked. -/
def decMajor0F (w : Nat) : Option Instr :=
  match fld w 13 3 with
  | 0 =>
    if fld w 16 5 = 0 then some (.getsr (.ofNat 5 (fld w 21 5)) (.ofNat 12 (fld w 1 12)) (fld w 0 1 == 1))
    else none
  | 1 =>
    if fld w 21 5 = 0 then some (.setsr (.ofNat 5 (fld w 16 5)) (.ofNat 12 (fld w 1 12)) (fld w 0 1 == 1))
    else none
  | 2 =>
    if fld w 1 12 = 0 ∧ fld w 16 10 = 0 then some (.nop (fld w 0 1 == 1))
    else none
  | 3 =>
    if fld w 16 10 = 0 then some (.pause (.ofNat 12 (fld w 1 12)) (fld w 0 1 == 1))
    else none
  | _ => none

/-- Major 0x10: its assigned words, required-zero fields checked. -/
noncomputable def decMajor10 (w : Nat) : Option Instr :=
  match fld w 6 5 with
  | 0 =>
    some (.fadd (.ofNat 5 (fld w 21 5)) (.ofNat 5 (fld w 16 5)) (.ofNat 5 (fld w 11 5)) (.ofNat 2 (fld w 4 2)) (.ofNat 3 (fld w 1 3)) (fld w 0 1 == 1))
  | 1 =>
    some (.fsub (.ofNat 5 (fld w 21 5)) (.ofNat 5 (fld w 16 5)) (.ofNat 5 (fld w 11 5)) (.ofNat 2 (fld w 4 2)) (.ofNat 3 (fld w 1 3)) (fld w 0 1 == 1))
  | 2 =>
    some (.fmul (.ofNat 5 (fld w 21 5)) (.ofNat 5 (fld w 16 5)) (.ofNat 5 (fld w 11 5)) (.ofNat 2 (fld w 4 2)) (.ofNat 3 (fld w 1 3)) (fld w 0 1 == 1))
  | 3 =>
    if fld w 1 3 = 0 then some (.fmin (.ofNat 5 (fld w 21 5)) (.ofNat 5 (fld w 16 5)) (.ofNat 5 (fld w 11 5)) (.ofNat 2 (fld w 4 2)) (fld w 0 1 == 1))
    else none
  | 4 =>
    if fld w 1 3 = 0 then some (.fmax (.ofNat 5 (fld w 21 5)) (.ofNat 5 (fld w 16 5)) (.ofNat 5 (fld w 11 5)) (.ofNat 2 (fld w 4 2)) (fld w 0 1 == 1))
    else none
  | 5 =>
    if fld w 1 3 = 0 ∧ fld w 11 5 = 0 then some (.fabs (.ofNat 5 (fld w 21 5)) (.ofNat 5 (fld w 16 5)) (.ofNat 2 (fld w 4 2)) (fld w 0 1 == 1))
    else none
  | 6 =>
    if fld w 1 3 = 0 ∧ fld w 11 5 = 0 then some (.fneg (.ofNat 5 (fld w 21 5)) (.ofNat 5 (fld w 16 5)) (.ofNat 2 (fld w 4 2)) (fld w 0 1 == 1))
    else none
  | 7 =>
    if fld w 1 3 = 0 then some (.fsgnj (.ofNat 5 (fld w 21 5)) (.ofNat 5 (fld w 16 5)) (.ofNat 5 (fld w 11 5)) (.ofNat 2 (fld w 4 2)) (fld w 0 1 == 1))
    else none
  | 8 =>
    if fld w 1 3 = 0 then some (.feq (.ofNat 5 (fld w 21 5)) (.ofNat 5 (fld w 16 5)) (.ofNat 5 (fld w 11 5)) (.ofNat 2 (fld w 4 2)) (fld w 0 1 == 1))
    else none
  | 9 =>
    if fld w 1 3 = 0 then some (.flt (.ofNat 5 (fld w 21 5)) (.ofNat 5 (fld w 16 5)) (.ofNat 5 (fld w 11 5)) (.ofNat 2 (fld w 4 2)) (fld w 0 1 == 1))
    else none
  | 10 =>
    if fld w 1 3 = 0 then some (.fle (.ofNat 5 (fld w 21 5)) (.ofNat 5 (fld w 16 5)) (.ofNat 5 (fld w 11 5)) (.ofNat 2 (fld w 4 2)) (fld w 0 1 == 1))
    else none
  | 11 =>
    if fld w 1 3 = 0 ∧ fld w 11 5 = 0 then some (.fclass (.ofNat 5 (fld w 21 5)) (.ofNat 5 (fld w 16 5)) (.ofNat 2 (fld w 4 2)) (fld w 0 1 == 1))
    else none
  | 12 =>
    if fld w 1 3 = 0 ∧ fld w 11 5 = 0 then some (.frcpe (.ofNat 5 (fld w 21 5)) (.ofNat 5 (fld w 16 5)) (.ofNat 2 (fld w 4 2)) (fld w 0 1 == 1))
    else none
  | 13 =>
    if fld w 1 3 = 0 ∧ fld w 11 5 = 0 then some (.frsqe (.ofNat 5 (fld w 21 5)) (.ofNat 5 (fld w 16 5)) (.ofNat 2 (fld w 4 2)) (fld w 0 1 == 1))
    else none
  | _ => none

/-- Major 0x11: its assigned words, required-zero fields checked. -/
noncomputable def decMajor11 (w : Nat) : Option Instr :=
  match fld w 6 5 with
  | 0 =>
    some (.fmadd (.ofNat 5 (fld w 21 5)) (.ofNat 5 (fld w 16 5)) (.ofNat 5 (fld w 11 5)) (.ofNat 2 (fld w 4 2)) (.ofNat 3 (fld w 1 3)) (fld w 0 1 == 1))
  | 1 =>
    some (.fmsub (.ofNat 5 (fld w 21 5)) (.ofNat 5 (fld w 16 5)) (.ofNat 5 (fld w 11 5)) (.ofNat 2 (fld w 4 2)) (.ofNat 3 (fld w 1 3)) (fld w 0 1 == 1))
  | 2 =>
    some (.fnmadd (.ofNat 5 (fld w 21 5)) (.ofNat 5 (fld w 16 5)) (.ofNat 5 (fld w 11 5)) (.ofNat 2 (fld w 4 2)) (.ofNat 3 (fld w 1 3)) (fld w 0 1 == 1))
  | 3 =>
    some (.fnmsub (.ofNat 5 (fld w 21 5)) (.ofNat 5 (fld w 16 5)) (.ofNat 5 (fld w 11 5)) (.ofNat 2 (fld w 4 2)) (.ofNat 3 (fld w 1 3)) (fld w 0 1 == 1))
  | _ => none

/-- Major 0x12: its assigned words, required-zero fields checked. -/
noncomputable def decMajor12 (w : Nat) : Option Instr :=
  if fld w 11 5 = 0 then some (.fcvt (.ofNat 5 (fld w 21 5)) (.ofNat 5 (fld w 16 5)) (.ofNat 7 (fld w 4 7)) (.ofNat 3 (fld w 1 3)) (fld w 0 1 == 1))
  else none

/-- Major 0x13: its assigned words, required-zero fields checked. -/
noncomputable def decMajor13 (w : Nat) : Option Instr :=
  some (.ld (.ofNat 5 (fld w 21 5)) (.ofNat 5 (fld w 16 5)) (.ofNat 3 (fld w 13 3)) (.ofNat 2 (fld w 11 2)) (.ofNat 3 (fld w 8 3)) (.ofNat 7 (fld w 1 7)) (fld w 0 1 == 1))

/-- Major 0x14: its assigned words, required-zero fields checked. -/
noncomputable def decMajor14 (w : Nat) : Option Instr :=
  some (.st (.ofNat 5 (fld w 21 5)) (.ofNat 5 (fld w 16 5)) (.ofNat 3 (fld w 13 3)) (.ofNat 2 (fld w 11 2)) (.ofNat 3 (fld w 8 3)) (.ofNat 7 (fld w 1 7)) (fld w 0 1 == 1))

/-- Major 0x15: its assigned words, required-zero fields checked. -/
noncomputable def decMajor15 (w : Nat) : Option Instr :=
  match fld w 9 2 with
  | 0 =>
    match fld w 6 2 with
    | 0 =>
      some (.amoadd (.ofNat 5 (fld w 21 5)) (.ofNat 5 (fld w 16 5)) (.ofNat 3 (fld w 13 3)) (.ofNat 2 (fld w 11 2)) (fld w 8 1 == 1) (.ofNat 5 (fld w 1 5)) (fld w 0 1 == 1))
    | 1 =>
      some (.amoswap (.ofNat 5 (fld w 21 5)) (.ofNat 5 (fld w 16 5)) (.ofNat 3 (fld w 13 3)) (.ofNat 2 (fld w 11 2)) (fld w 8 1 == 1) (.ofNat 5 (fld w 1 5)) (fld w 0 1 == 1))
    | 2 =>
      some (.amocas (.ofNat 5 (fld w 21 5)) (.ofNat 5 (fld w 16 5)) (.ofNat 3 (fld w 13 3)) (.ofNat 2 (fld w 11 2)) (fld w 8 1 == 1) (.ofNat 5 (fld w 1 5)) (fld w 0 1 == 1))
    | 3 =>
      some (.amoand (.ofNat 5 (fld w 21 5)) (.ofNat 5 (fld w 16 5)) (.ofNat 3 (fld w 13 3)) (.ofNat 2 (fld w 11 2)) (fld w 8 1 == 1) (.ofNat 5 (fld w 1 5)) (fld w 0 1 == 1))
    | _ => none
  | 1 =>
    match fld w 6 2 with
    | 0 =>
      some (.amoor (.ofNat 5 (fld w 21 5)) (.ofNat 5 (fld w 16 5)) (.ofNat 3 (fld w 13 3)) (.ofNat 2 (fld w 11 2)) (fld w 8 1 == 1) (.ofNat 5 (fld w 1 5)) (fld w 0 1 == 1))
    | 1 =>
      some (.amoxor (.ofNat 5 (fld w 21 5)) (.ofNat 5 (fld w 16 5)) (.ofNat 3 (fld w 13 3)) (.ofNat 2 (fld w 11 2)) (fld w 8 1 == 1) (.ofNat 5 (fld w 1 5)) (fld w 0 1 == 1))
    | 2 =>
      some (.amomin (.ofNat 5 (fld w 21 5)) (.ofNat 5 (fld w 16 5)) (.ofNat 3 (fld w 13 3)) (.ofNat 2 (fld w 11 2)) (fld w 8 1 == 1) (.ofNat 5 (fld w 1 5)) (fld w 0 1 == 1))
    | 3 =>
      some (.amomax (.ofNat 5 (fld w 21 5)) (.ofNat 5 (fld w 16 5)) (.ofNat 3 (fld w 13 3)) (.ofNat 2 (fld w 11 2)) (fld w 8 1 == 1) (.ofNat 5 (fld w 1 5)) (fld w 0 1 == 1))
    | _ => none
  | 2 =>
    match fld w 6 2 with
    | 0 =>
      some (.amominn (.ofNat 5 (fld w 21 5)) (.ofNat 5 (fld w 16 5)) (.ofNat 3 (fld w 13 3)) (.ofNat 2 (fld w 11 2)) (fld w 8 1 == 1) (.ofNat 5 (fld w 1 5)) (fld w 0 1 == 1))
    | 1 =>
      some (.amomaxn (.ofNat 5 (fld w 21 5)) (.ofNat 5 (fld w 16 5)) (.ofNat 3 (fld w 13 3)) (.ofNat 2 (fld w 11 2)) (fld w 8 1 == 1) (.ofNat 5 (fld w 1 5)) (fld w 0 1 == 1))
    | 2 =>
      if fld w 8 1 = 0 then some (.amofadd (.ofNat 5 (fld w 21 5)) (.ofNat 5 (fld w 16 5)) (.ofNat 3 (fld w 13 3)) (.ofNat 2 (fld w 11 2)) (.ofNat 5 (fld w 1 5)) (fld w 0 1 == 1))
      else none
    | _ => none
  | _ => none

/-- Major 0x16: its assigned words, required-zero fields checked. -/
noncomputable def decMajor16 (w : Nat) : Option Instr :=
  match fld w 8 3 with
  | 0 =>
    if fld w 6 2 = 0 ∧ fld w 11 15 = 0 then some (.fence (.ofNat 3 (fld w 3 3)) (.ofNat 2 (fld w 1 2)) (fld w 0 1 == 1))
    else none
  | 1 =>
    if fld w 11 2 = 0 then some (.pref (.ofNat 5 (fld w 21 5)) (.ofNat 5 (fld w 16 5)) (.ofNat 3 (fld w 13 3)) (.ofNat 7 (fld w 1 7)) (fld w 0 1 == 1))
    else none
  | 2 =>
    if fld w 11 2 = 0 ∧ fld w 21 5 = 0 then some (.flushl (.ofNat 5 (fld w 16 5)) (.ofNat 3 (fld w 13 3)) (.ofNat 7 (fld w 1 7)) (fld w 0 1 == 1))
    else none
  | 3 =>
    if fld w 11 2 = 0 ∧ fld w 21 5 = 0 then some (.invl (.ofNat 5 (fld w 16 5)) (.ofNat 3 (fld w 13 3)) (.ofNat 7 (fld w 1 7)) (fld w 0 1 == 1))
    else none
  | _ => none

/-- Major 0x17: its assigned words, required-zero fields checked. -/
noncomputable def decMajor17 (w : Nat) : Option Instr :=
  match fld w 4 7 with
  | 0 =>
    if fld w 1 3 = 0 ∧ fld w 14 2 = 0 ∧ fld w 21 5 = 0 then some (.send (.ofNat 5 (fld w 16 5)) (.ofNat 3 (fld w 11 3)) (fld w 0 1 == 1))
    else none
  | 1 =>
    if fld w 1 3 = 0 ∧ fld w 14 2 = 0 ∧ fld w 20 6 = 0 then some (.sendv (.ofNat 4 (fld w 16 4)) (.ofNat 3 (fld w 11 3)) (fld w 0 1 == 1))
    else none
  | 2 =>
    if fld w 1 3 = 0 ∧ fld w 14 7 = 0 then some (.recv (.ofNat 5 (fld w 21 5)) (.ofNat 3 (fld w 11 3)) (fld w 0 1 == 1))
    else none
  | 3 =>
    if fld w 1 3 = 0 ∧ fld w 14 7 = 0 ∧ fld w 25 1 = 0 then some (.recvv (.ofNat 4 (fld w 21 4)) (.ofNat 3 (fld w 11 3)) (fld w 0 1 == 1))
    else none
  | 4 =>
    if fld w 1 3 = 0 ∧ fld w 14 2 = 0 then some (.tryrecv (.ofNat 5 (fld w 21 5)) (.ofNat 5 (fld w 16 5)) (.ofNat 3 (fld w 11 3)) (fld w 0 1 == 1))
    else none
  | 5 =>
    if fld w 1 3 = 0 ∧ fld w 14 7 = 0 then some (.chstatIn (.ofNat 5 (fld w 21 5)) (.ofNat 3 (fld w 11 3)) (fld w 0 1 == 1))
    else     if fld w 1 3 = 1 ∧ fld w 14 7 = 0 then some (.chstatOut (.ofNat 5 (fld w 21 5)) (.ofNat 3 (fld w 11 3)) (fld w 0 1 == 1))
    else none
  | _ => none

/-- Major 0x18: its assigned words, required-zero fields checked. -/
noncomputable def decMajor18 (w : Nat) : Option Instr :=
  match fld w 4 7 with
  | 0 =>
    if fld w 14 7 = 0 then some (.barArrive (.ofNat 5 (fld w 21 5)) (.ofNat 3 (fld w 11 3)) (.ofNat 3 (fld w 1 3)) (fld w 0 1 == 1))
    else none
  | 1 =>
    if fld w 14 2 = 0 then some (.barWait (.ofNat 5 (fld w 21 5)) (.ofNat 5 (fld w 16 5)) (.ofNat 3 (fld w 11 3)) (.ofNat 3 (fld w 1 3)) (fld w 0 1 == 1))
    else none
  | 2 =>
    if fld w 14 7 = 0 then some (.barSync (.ofNat 5 (fld w 21 5)) (.ofNat 3 (fld w 11 3)) (.ofNat 3 (fld w 1 3)) (fld w 0 1 == 1))
    else none
  | 3 =>
    if fld w 1 3 = 0 ∧ fld w 14 7 = 0 then some (.barStat (.ofNat 5 (fld w 21 5)) (.ofNat 3 (fld w 11 3)) (fld w 0 1 == 1))
    else none
  | _ => none

/-- Major 0x19: its assigned words, required-zero fields checked. -/
noncomputable def decMajor19 (w : Nat) : Option Instr :=
  match fld w 4 7 with
  | 0 =>
    if fld w 1 3 = 0 ∧ fld w 11 10 = 0 then some (.inboxWait (.ofNat 5 (fld w 21 5)) (fld w 0 1 == 1))
    else none
  | 1 =>
    if fld w 1 3 = 0 ∧ fld w 11 10 = 0 then some (.inboxPoll (.ofNat 5 (fld w 21 5)) (fld w 0 1 == 1))
    else none
  | _ => none

/-- Major 0x1A: its assigned words, required-zero fields checked. -/
noncomputable def decMajor1A (w w1 : Nat) : Option Instr :=
  match fld w 4 7 with
  | 0 =>
    if fld w 1 3 = 0 ∧ fld w1 6 4 = 0 then some (.cpy (.ofNat 5 (fld w 21 5)) (.ofNat 5 (fld w 16 5)) (.ofNat 5 (fld w 11 5)) (.ofNat 16 (fld w1 16 16)) (fld w1 15 1 == 1) (.ofNat 5 (fld w1 10 5)) (.ofNat 3 (fld w1 3 3)) (.ofNat 3 (fld w1 0 3)) (fld w 0 1 == 1))
    else none
  | 1 =>
    if fld w 1 3 = 0 ∧ fld w1 6 4 = 0 then some (.cpy2d (.ofNat 5 (fld w 21 5)) (.ofNat 5 (fld w 16 5)) (.ofNat 5 (fld w 11 5)) (.ofNat 16 (fld w1 16 16)) (fld w1 15 1 == 1) (.ofNat 5 (fld w1 10 5)) (.ofNat 3 (fld w1 3 3)) (.ofNat 3 (fld w1 0 3)) (fld w 0 1 == 1))
    else none
  | 2 =>
    if fld w 1 3 = 0 then some (.cpyg (.ofNat 5 (fld w 21 5)) (.ofNat 5 (fld w 16 5)) (.ofNat 5 (fld w 11 5)) (.ofNat 16 (fld w1 16 16)) (fld w1 15 1 == 1) (.ofNat 5 (fld w1 10 5)) (.ofNat 4 (fld w1 6 4)) (.ofNat 3 (fld w1 3 3)) (.ofNat 3 (fld w1 0 3)) (fld w 0 1 == 1))
    else none
  | 3 =>
    if fld w 1 3 = 0 then some (.cpys (.ofNat 5 (fld w 21 5)) (.ofNat 5 (fld w 16 5)) (.ofNat 5 (fld w 11 5)) (.ofNat 16 (fld w1 16 16)) (fld w1 15 1 == 1) (.ofNat 5 (fld w1 10 5)) (.ofNat 4 (fld w1 6 4)) (.ofNat 3 (fld w1 3 3)) (.ofNat 3 (fld w1 0 3)) (fld w 0 1 == 1))
    else none
  | 4 =>
    if fld w 1 3 = 0 ∧ fld w1 8 2 = 0 then some (.cpyred (.ofNat 5 (fld w 21 5)) (.ofNat 5 (fld w 16 5)) (.ofNat 5 (fld w 11 5)) (.ofNat 16 (fld w1 16 16)) (fld w1 15 1 == 1) (.ofNat 5 (fld w1 10 5)) (.ofNat 2 (fld w1 6 2)) (.ofNat 3 (fld w1 3 3)) (.ofNat 3 (fld w1 0 3)) (fld w 0 1 == 1))
    else none
  | 5 =>
    if fld w 1 3 = 0 ∧ fld w1 6 4 = 0 then some (.cpyring (.ofNat 5 (fld w 21 5)) (.ofNat 5 (fld w 16 5)) (.ofNat 5 (fld w 11 5)) (.ofNat 16 (fld w1 16 16)) (fld w1 15 1 == 1) (.ofNat 5 (fld w1 10 5)) (.ofNat 3 (fld w1 3 3)) (.ofNat 3 (fld w1 0 3)) (fld w 0 1 == 1))
    else none
  | 6 =>
    if fld w 1 3 = 0 ∧ fld w1 3 3 = 0 ∧ fld w1 8 2 = 0 then some (.cpyfill (.ofNat 5 (fld w 21 5)) (.ofNat 5 (fld w 16 5)) (.ofNat 5 (fld w 11 5)) (.ofNat 16 (fld w1 16 16)) (fld w1 15 1 == 1) (.ofNat 5 (fld w1 10 5)) (.ofNat 2 (fld w1 6 2)) (.ofNat 3 (fld w1 0 3)) (fld w 0 1 == 1))
    else none
  | 7 =>
    if fld w 1 3 = 0 ∧ fld w1 7 3 = 0 then some (.cpyrem (.ofNat 5 (fld w 21 5)) (.ofNat 5 (fld w 16 5)) (.ofNat 5 (fld w 11 5)) (.ofNat 16 (fld w1 16 16)) (fld w1 15 1 == 1) (.ofNat 5 (fld w1 10 5)) (fld w1 6 1 == 1) (.ofNat 3 (fld w1 3 3)) (.ofNat 3 (fld w1 0 3)) (fld w 0 1 == 1))
    else none
  | _ => none

/-- Major 0x1B: its assigned words, required-zero fields checked. -/
noncomputable def decMajor1B (w w1 : Nat) : Option Instr :=
  match fld w 4 7 with
  | 0 =>
    some (.tspawn (.ofNat 5 (fld w 21 5)) (.ofNat 5 (fld w 16 5)) (.ofNat 5 (fld w 11 5)) (.ofNat 3 (fld w 1 3)) (.ofNat 32 (fld w1 0 32)) (fld w 0 1 == 1))
  | 1 =>
    if fld w 1 3 = 0 ∧ fld w 11 15 = 0 ∧ fld w1 0 32 = 0 then some (.tdone (fld w 0 1 == 1))
    else none
  | 2 =>
    if fld w 1 3 = 0 ∧ fld w 11 5 = 0 ∧ fld w1 0 32 = 0 then some (.ttsPoll (.ofNat 5 (fld w 21 5)) (.ofNat 5 (fld w 16 5)) (fld w 0 1 == 1))
    else     if fld w 1 3 = 1 ∧ fld w 11 5 = 0 ∧ fld w 21 5 = 0 ∧ fld w1 0 32 = 0 then some (.ttsWait (.ofNat 5 (fld w 16 5)) (fld w 0 1 == 1))
    else none
  | 3 =>
    if fld w 1 3 = 0 ∧ fld w 11 10 = 0 ∧ fld w1 3 29 = 0 then some (.tkey (.ofNat 5 (fld w 21 5)) (.ofNat 3 (fld w1 0 3)) (fld w 0 1 == 1))
    else none
  | 4 =>
    if fld w 1 3 = 0 ∧ fld w 11 15 = 0 ∧ fld w1 0 32 = 0 then some (.tirrev (fld w 0 1 == 1))
    else none
  | _ => none

/-- Major 0x20: its assigned words, required-zero fields checked. -/
noncomputable def decMajor20 (w : Nat) : Option Instr :=
  match fld w 4 5 with
  | 0 =>
    some (.vadd (.ofNat 4 (fld w 22 4)) (.ofNat 4 (fld w 18 4)) (.ofNat 5 (fld w 13 5)) (fld w 12 1 == 1) (.ofNat 3 (fld w 9 3)) (.ofNat 2 (fld w 2 2)) (fld w 1 1 == 1) (fld w 0 1 == 1))
  | 1 =>
    some (.vsub (.ofNat 4 (fld w 22 4)) (.ofNat 4 (fld w 18 4)) (.ofNat 5 (fld w 13 5)) (fld w 12 1 == 1) (.ofNat 3 (fld w 9 3)) (.ofNat 2 (fld w 2 2)) (fld w 1 1 == 1) (fld w 0 1 == 1))
  | 2 =>
    some (.vmul (.ofNat 4 (fld w 22 4)) (.ofNat 4 (fld w 18 4)) (.ofNat 5 (fld w 13 5)) (fld w 12 1 == 1) (.ofNat 3 (fld w 9 3)) (.ofNat 2 (fld w 2 2)) (fld w 1 1 == 1) (fld w 0 1 == 1))
  | 3 =>
    some (.vaddsI (.ofNat 4 (fld w 22 4)) (.ofNat 4 (fld w 18 4)) (.ofNat 5 (fld w 13 5)) (fld w 12 1 == 1) (.ofNat 3 (fld w 9 3)) (.ofNat 2 (fld w 2 2)) (fld w 1 1 == 1) (fld w 0 1 == 1))
  | 4 =>
    some (.vaddsN (.ofNat 4 (fld w 22 4)) (.ofNat 4 (fld w 18 4)) (.ofNat 5 (fld w 13 5)) (fld w 12 1 == 1) (.ofNat 3 (fld w 9 3)) (.ofNat 2 (fld w 2 2)) (fld w 1 1 == 1) (fld w 0 1 == 1))
  | 5 =>
    some (.vsubsI (.ofNat 4 (fld w 22 4)) (.ofNat 4 (fld w 18 4)) (.ofNat 5 (fld w 13 5)) (fld w 12 1 == 1) (.ofNat 3 (fld w 9 3)) (.ofNat 2 (fld w 2 2)) (fld w 1 1 == 1) (fld w 0 1 == 1))
  | 6 =>
    some (.vsubsN (.ofNat 4 (fld w 22 4)) (.ofNat 4 (fld w 18 4)) (.ofNat 5 (fld w 13 5)) (fld w 12 1 == 1) (.ofNat 3 (fld w 9 3)) (.ofNat 2 (fld w 2 2)) (fld w 1 1 == 1) (fld w 0 1 == 1))
  | 7 =>
    some (.vminI (.ofNat 4 (fld w 22 4)) (.ofNat 4 (fld w 18 4)) (.ofNat 5 (fld w 13 5)) (fld w 12 1 == 1) (.ofNat 3 (fld w 9 3)) (.ofNat 2 (fld w 2 2)) (fld w 1 1 == 1) (fld w 0 1 == 1))
  | 8 =>
    some (.vminN (.ofNat 4 (fld w 22 4)) (.ofNat 4 (fld w 18 4)) (.ofNat 5 (fld w 13 5)) (fld w 12 1 == 1) (.ofNat 3 (fld w 9 3)) (.ofNat 2 (fld w 2 2)) (fld w 1 1 == 1) (fld w 0 1 == 1))
  | 9 =>
    some (.vmaxI (.ofNat 4 (fld w 22 4)) (.ofNat 4 (fld w 18 4)) (.ofNat 5 (fld w 13 5)) (fld w 12 1 == 1) (.ofNat 3 (fld w 9 3)) (.ofNat 2 (fld w 2 2)) (fld w 1 1 == 1) (fld w 0 1 == 1))
  | 10 =>
    some (.vmaxN (.ofNat 4 (fld w 22 4)) (.ofNat 4 (fld w 18 4)) (.ofNat 5 (fld w 13 5)) (fld w 12 1 == 1) (.ofNat 3 (fld w 9 3)) (.ofNat 2 (fld w 2 2)) (fld w 1 1 == 1) (fld w 0 1 == 1))
  | 11 =>
    some (.vand (.ofNat 4 (fld w 22 4)) (.ofNat 4 (fld w 18 4)) (.ofNat 5 (fld w 13 5)) (fld w 12 1 == 1) (.ofNat 3 (fld w 9 3)) (.ofNat 2 (fld w 2 2)) (fld w 1 1 == 1) (fld w 0 1 == 1))
  | 12 =>
    some (.vor (.ofNat 4 (fld w 22 4)) (.ofNat 4 (fld w 18 4)) (.ofNat 5 (fld w 13 5)) (fld w 12 1 == 1) (.ofNat 3 (fld w 9 3)) (.ofNat 2 (fld w 2 2)) (fld w 1 1 == 1) (fld w 0 1 == 1))
  | 13 =>
    some (.vxor (.ofNat 4 (fld w 22 4)) (.ofNat 4 (fld w 18 4)) (.ofNat 5 (fld w 13 5)) (fld w 12 1 == 1) (.ofNat 3 (fld w 9 3)) (.ofNat 2 (fld w 2 2)) (fld w 1 1 == 1) (fld w 0 1 == 1))
  | 14 =>
    some (.vandn (.ofNat 4 (fld w 22 4)) (.ofNat 4 (fld w 18 4)) (.ofNat 5 (fld w 13 5)) (fld w 12 1 == 1) (.ofNat 3 (fld w 9 3)) (.ofNat 2 (fld w 2 2)) (fld w 1 1 == 1) (fld w 0 1 == 1))
  | 15 =>
    some (.vsll (.ofNat 4 (fld w 22 4)) (.ofNat 4 (fld w 18 4)) (.ofNat 5 (fld w 13 5)) (fld w 12 1 == 1) (.ofNat 3 (fld w 9 3)) (.ofNat 2 (fld w 2 2)) (fld w 1 1 == 1) (fld w 0 1 == 1))
  | 16 =>
    some (.vsrl (.ofNat 4 (fld w 22 4)) (.ofNat 4 (fld w 18 4)) (.ofNat 5 (fld w 13 5)) (fld w 12 1 == 1) (.ofNat 3 (fld w 9 3)) (.ofNat 2 (fld w 2 2)) (fld w 1 1 == 1) (fld w 0 1 == 1))
  | 17 =>
    some (.vsra (.ofNat 4 (fld w 22 4)) (.ofNat 4 (fld w 18 4)) (.ofNat 5 (fld w 13 5)) (fld w 12 1 == 1) (.ofNat 3 (fld w 9 3)) (.ofNat 2 (fld w 2 2)) (fld w 1 1 == 1) (fld w 0 1 == 1))
  | 18 =>
    if fld w 2 2 = 2 ∧ fld w 25 1 = 0 then some (.vcmpeqB32 (.ofNat 3 (fld w 22 3)) (.ofNat 4 (fld w 18 4)) (.ofNat 5 (fld w 13 5)) (fld w 12 1 == 1) (.ofNat 3 (fld w 9 3)) (fld w 1 1 == 1) (fld w 0 1 == 1))
    else none
  | 19 =>
    if fld w 2 2 = 2 ∧ fld w 25 1 = 0 then some (.vcmpltI32 (.ofNat 3 (fld w 22 3)) (.ofNat 4 (fld w 18 4)) (.ofNat 5 (fld w 13 5)) (fld w 12 1 == 1) (.ofNat 3 (fld w 9 3)) (fld w 1 1 == 1) (fld w 0 1 == 1))
    else none
  | 20 =>
    if fld w 2 2 = 2 ∧ fld w 25 1 = 0 then some (.vcmpltN32 (.ofNat 3 (fld w 22 3)) (.ofNat 4 (fld w 18 4)) (.ofNat 5 (fld w 13 5)) (fld w 12 1 == 1) (.ofNat 3 (fld w 9 3)) (fld w 1 1 == 1) (fld w 0 1 == 1))
    else none
  | 21 =>
    if fld w 12 6 = 0 then some (.vabss (.ofNat 4 (fld w 22 4)) (.ofNat 4 (fld w 18 4)) (.ofNat 3 (fld w 9 3)) (.ofNat 2 (fld w 2 2)) (fld w 1 1 == 1) (fld w 0 1 == 1))
    else none
  | _ => none

/-- Major 0x21: its assigned words, required-zero fields checked. -/
noncomputable def decMajor21 (w : Nat) : Option Instr :=
  match fld w 4 5 with
  | 0 =>
    some (.vaddFp (.ofNat 4 (fld w 22 4)) (.ofNat 4 (fld w 18 4)) (.ofNat 5 (fld w 13 5)) (fld w 12 1 == 1) (.ofNat 3 (fld w 9 3)) (.ofNat 2 (fld w 2 2)) (fld w 1 1 == 1) (fld w 0 1 == 1))
  | 1 =>
    some (.vsubFp (.ofNat 4 (fld w 22 4)) (.ofNat 4 (fld w 18 4)) (.ofNat 5 (fld w 13 5)) (fld w 12 1 == 1) (.ofNat 3 (fld w 9 3)) (.ofNat 2 (fld w 2 2)) (fld w 1 1 == 1) (fld w 0 1 == 1))
  | 2 =>
    some (.vmulFp (.ofNat 4 (fld w 22 4)) (.ofNat 4 (fld w 18 4)) (.ofNat 5 (fld w 13 5)) (fld w 12 1 == 1) (.ofNat 3 (fld w 9 3)) (.ofNat 2 (fld w 2 2)) (fld w 1 1 == 1) (fld w 0 1 == 1))
  | 3 =>
    some (.vminFp (.ofNat 4 (fld w 22 4)) (.ofNat 4 (fld w 18 4)) (.ofNat 5 (fld w 13 5)) (fld w 12 1 == 1) (.ofNat 3 (fld w 9 3)) (.ofNat 2 (fld w 2 2)) (fld w 1 1 == 1) (fld w 0 1 == 1))
  | 4 =>
    some (.vmaxFp (.ofNat 4 (fld w 22 4)) (.ofNat 4 (fld w 18 4)) (.ofNat 5 (fld w 13 5)) (fld w 12 1 == 1) (.ofNat 3 (fld w 9 3)) (.ofNat 2 (fld w 2 2)) (fld w 1 1 == 1) (fld w 0 1 == 1))
  | 5 =>
    if fld w 12 6 = 0 then some (.vabs (.ofNat 4 (fld w 22 4)) (.ofNat 4 (fld w 18 4)) (.ofNat 3 (fld w 9 3)) (.ofNat 2 (fld w 2 2)) (fld w 1 1 == 1) (fld w 0 1 == 1))
    else none
  | 6 =>
    if fld w 12 6 = 0 then some (.vneg (.ofNat 4 (fld w 22 4)) (.ofNat 4 (fld w 18 4)) (.ofNat 3 (fld w 9 3)) (.ofNat 2 (fld w 2 2)) (fld w 1 1 == 1) (fld w 0 1 == 1))
    else none
  | 7 =>
    some (.vsgnj (.ofNat 4 (fld w 22 4)) (.ofNat 4 (fld w 18 4)) (.ofNat 5 (fld w 13 5)) (fld w 12 1 == 1) (.ofNat 3 (fld w 9 3)) (.ofNat 2 (fld w 2 2)) (fld w 1 1 == 1) (fld w 0 1 == 1))
  | 8 =>
    if fld w 2 2 = 0 ∧ fld w 25 1 = 0 then some (.vcmpeqS (.ofNat 3 (fld w 22 3)) (.ofNat 4 (fld w 18 4)) (.ofNat 5 (fld w 13 5)) (fld w 12 1 == 1) (.ofNat 3 (fld w 9 3)) (fld w 1 1 == 1) (fld w 0 1 == 1))
    else none
  | 9 =>
    if fld w 2 2 = 0 ∧ fld w 25 1 = 0 then some (.vcmpltS (.ofNat 3 (fld w 22 3)) (.ofNat 4 (fld w 18 4)) (.ofNat 5 (fld w 13 5)) (fld w 12 1 == 1) (.ofNat 3 (fld w 9 3)) (fld w 1 1 == 1) (fld w 0 1 == 1))
    else none
  | 10 =>
    if fld w 2 2 = 0 ∧ fld w 25 1 = 0 then some (.vcmpleS (.ofNat 3 (fld w 22 3)) (.ofNat 4 (fld w 18 4)) (.ofNat 5 (fld w 13 5)) (fld w 12 1 == 1) (.ofNat 3 (fld w 9 3)) (fld w 1 1 == 1) (fld w 0 1 == 1))
    else none
  | _ => none

/-- Major 0x22: its assigned words, required-zero fields checked. -/
noncomputable def decMajor22 (w : Nat) : Option Instr :=
  match fld w 4 5 with
  | 0 =>
    some (.vmadd (.ofNat 4 (fld w 22 4)) (.ofNat 4 (fld w 18 4)) (.ofNat 5 (fld w 13 5)) (fld w 12 1 == 1) (.ofNat 3 (fld w 9 3)) (.ofNat 2 (fld w 2 2)) (fld w 1 1 == 1) (fld w 0 1 == 1))
  | 1 =>
    some (.vmsub (.ofNat 4 (fld w 22 4)) (.ofNat 4 (fld w 18 4)) (.ofNat 5 (fld w 13 5)) (fld w 12 1 == 1) (.ofNat 3 (fld w 9 3)) (.ofNat 2 (fld w 2 2)) (fld w 1 1 == 1) (fld w 0 1 == 1))
  | 2 =>
    some (.vnmadd (.ofNat 4 (fld w 22 4)) (.ofNat 4 (fld w 18 4)) (.ofNat 5 (fld w 13 5)) (fld w 12 1 == 1) (.ofNat 3 (fld w 9 3)) (.ofNat 2 (fld w 2 2)) (fld w 1 1 == 1) (fld w 0 1 == 1))
  | 3 =>
    some (.vnmsub (.ofNat 4 (fld w 22 4)) (.ofNat 4 (fld w 18 4)) (.ofNat 5 (fld w 13 5)) (fld w 12 1 == 1) (.ofNat 3 (fld w 9 3)) (.ofNat 2 (fld w 2 2)) (fld w 1 1 == 1) (fld w 0 1 == 1))
  | _ => none

/-- Major 0x23: its assigned words, required-zero fields checked. -/
noncomputable def decMajor23 (w : Nat) : Option Instr :=
  if fld w 12 1 = 0 ∧ fld w 15 3 = 0 then some (.vcvt (.ofNat 4 (fld w 22 4)) (.ofNat 4 (fld w 18 4)) (.ofNat 2 (fld w 13 2)) (.ofNat 3 (fld w 9 3)) (.ofNat 7 (fld w 2 7)) (fld w 1 1 == 1) (fld w 0 1 == 1))
  else none

/-- Major 0x24: its assigned words, required-zero fields checked. -/
noncomputable def decMajor24 (w : Nat) : Option Instr :=
  match fld w 2 7 with
  | 0 =>
    if fld w 12 6 = 0 then some (.vmov (.ofNat 4 (fld w 22 4)) (.ofNat 4 (fld w 18 4)) (.ofNat 3 (fld w 9 3)) (fld w 1 1 == 1) (fld w 0 1 == 1))
    else none
  | 1 =>
    if fld w 12 1 = 1 ∧ fld w 18 4 = 0 then some (.vbcast (.ofNat 4 (fld w 22 4)) (.ofNat 5 (fld w 13 5)) (.ofNat 3 (fld w 9 3)) (fld w 1 1 == 1) (fld w 0 1 == 1))
    else none
  | 2 =>
    some (.vshuf (.ofNat 4 (fld w 22 4)) (.ofNat 4 (fld w 18 4)) (.ofNat 5 (fld w 13 5)) (fld w 12 1 == 1) (.ofNat 3 (fld w 9 3)) (fld w 1 1 == 1) (fld w 0 1 == 1))
  | 3 =>
    if fld w 12 1 = 1 then some (.vslide (.ofNat 4 (fld w 22 4)) (.ofNat 4 (fld w 18 4)) (.ofNat 5 (fld w 13 5)) (.ofNat 3 (fld w 9 3)) (fld w 1 1 == 1) (fld w 0 1 == 1))
    else none
  | 4 =>
    if fld w 12 6 = 0 then some (.vcompress (.ofNat 4 (fld w 22 4)) (.ofNat 4 (fld w 18 4)) (.ofNat 3 (fld w 9 3)) (fld w 1 1 == 1) (fld w 0 1 == 1))
    else none
  | 5 =>
    if fld w 12 6 = 0 then some (.vexpand (.ofNat 4 (fld w 22 4)) (.ofNat 4 (fld w 18 4)) (.ofNat 3 (fld w 9 3)) (fld w 1 1 == 1) (fld w 0 1 == 1))
    else none
  | 6 =>
    if fld w 1 1 = 0 ∧ fld w 9 4 = 8 then some (.vextr (.ofNat 4 (fld w 22 4)) (.ofNat 4 (fld w 18 4)) (.ofNat 5 (fld w 13 5)) (fld w 0 1 == 1))
    else none
  | 7 =>
    if fld w 1 1 = 0 ∧ fld w 9 4 = 8 then some (.vins (.ofNat 4 (fld w 22 4)) (.ofNat 4 (fld w 18 4)) (.ofNat 5 (fld w 13 5)) (fld w 0 1 == 1))
    else none
  | _ => none

/-- Major 0x25: its assigned words, required-zero fields checked. -/
noncomputable def decMajor25 (w : Nat) : Option Instr :=
  match fld w 2 7 with
  | 0 =>
    if fld w 1 1 = 0 ∧ fld w 12 1 = 1 ∧ fld w 22 4 = 0 then some (.vredaddI32 (.ofNat 4 (fld w 18 4)) (.ofNat 5 (fld w 13 5)) (.ofNat 3 (fld w 9 3)) (fld w 0 1 == 1))
    else none
  | 1 =>
    if fld w 1 1 = 0 ∧ fld w 12 1 = 1 ∧ fld w 22 4 = 0 then some (.vredaddN32 (.ofNat 4 (fld w 18 4)) (.ofNat 5 (fld w 13 5)) (.ofNat 3 (fld w 9 3)) (fld w 0 1 == 1))
    else none
  | 2 =>
    if fld w 1 1 = 0 ∧ fld w 12 1 = 1 ∧ fld w 22 4 = 0 then some (.vredmaxI32 (.ofNat 4 (fld w 18 4)) (.ofNat 5 (fld w 13 5)) (.ofNat 3 (fld w 9 3)) (fld w 0 1 == 1))
    else none
  | 3 =>
    if fld w 1 1 = 0 ∧ fld w 12 1 = 1 ∧ fld w 22 4 = 0 then some (.vredmaxN32 (.ofNat 4 (fld w 18 4)) (.ofNat 5 (fld w 13 5)) (.ofNat 3 (fld w 9 3)) (fld w 0 1 == 1))
    else none
  | 4 =>
    if fld w 1 1 = 0 ∧ fld w 12 1 = 1 ∧ fld w 22 4 = 0 then some (.vredminI32 (.ofNat 4 (fld w 18 4)) (.ofNat 5 (fld w 13 5)) (.ofNat 3 (fld w 9 3)) (fld w 0 1 == 1))
    else none
  | 5 =>
    if fld w 1 1 = 0 ∧ fld w 12 1 = 1 ∧ fld w 22 4 = 0 then some (.vredminN32 (.ofNat 4 (fld w 18 4)) (.ofNat 5 (fld w 13 5)) (.ofNat 3 (fld w 9 3)) (fld w 0 1 == 1))
    else none
  | 6 =>
    if fld w 1 1 = 0 ∧ fld w 12 1 = 1 ∧ fld w 22 4 = 0 then some (.vredfadd (.ofNat 4 (fld w 18 4)) (.ofNat 5 (fld w 13 5)) (.ofNat 3 (fld w 9 3)) (fld w 0 1 == 1))
    else none
  | 7 =>
    if fld w 1 1 = 0 ∧ fld w 12 1 = 1 ∧ fld w 22 4 = 0 then some (.vredmaxS (.ofNat 4 (fld w 18 4)) (.ofNat 5 (fld w 13 5)) (.ofNat 3 (fld w 9 3)) (fld w 0 1 == 1))
    else none
  | 8 =>
    if fld w 1 1 = 0 ∧ fld w 12 1 = 1 ∧ fld w 22 4 = 0 then some (.vredminS (.ofNat 4 (fld w 18 4)) (.ofNat 5 (fld w 13 5)) (.ofNat 3 (fld w 9 3)) (fld w 0 1 == 1))
    else none
  | _ => none

/-- Major 0x26: its assigned words, required-zero fields checked. -/
noncomputable def decMajor26 (w : Nat) : Option Instr :=
  match fld w 2 7 with
  | 0 =>
    some (.vdot4I8 (.ofNat 4 (fld w 22 4)) (.ofNat 4 (fld w 18 4)) (.ofNat 5 (fld w 13 5)) (fld w 12 1 == 1) (.ofNat 3 (fld w 9 3)) (fld w 1 1 == 1) (fld w 0 1 == 1))
  | 1 =>
    some (.vdot4N8 (.ofNat 4 (fld w 22 4)) (.ofNat 4 (fld w 18 4)) (.ofNat 5 (fld w 13 5)) (fld w 12 1 == 1) (.ofNat 3 (fld w 9 3)) (fld w 1 1 == 1) (fld w 0 1 == 1))
  | 2 =>
    some (.vdot2hH (.ofNat 4 (fld w 22 4)) (.ofNat 4 (fld w 18 4)) (.ofNat 5 (fld w 13 5)) (fld w 12 1 == 1) (.ofNat 3 (fld w 9 3)) (fld w 1 1 == 1) (fld w 0 1 == 1))
  | 3 =>
    some (.vdot2hBf (.ofNat 4 (fld w 22 4)) (.ofNat 4 (fld w 18 4)) (.ofNat 5 (fld w 13 5)) (fld w 12 1 == 1) (.ofNat 3 (fld w 9 3)) (fld w 1 1 == 1) (fld w 0 1 == 1))
  | 4 =>
    if fld w 12 6 = 0 then some (.vunpk3 (.ofNat 4 (fld w 22 4)) (.ofNat 4 (fld w 18 4)) (.ofNat 3 (fld w 9 3)) (fld w 1 1 == 1) (fld w 0 1 == 1))
    else none
  | 5 =>
    if fld w 12 1 = 0 then some (.vdott (.ofNat 4 (fld w 22 4)) (.ofNat 4 (fld w 18 4)) (.ofNat 5 (fld w 13 5)) (.ofNat 3 (fld w 9 3)) (fld w 1 1 == 1) (fld w 0 1 == 1))
    else none
  | 6 =>
    if fld w 12 1 = 1 then some (.vdecq (.ofNat 4 (fld w 22 4)) (.ofNat 4 (fld w 18 4)) (.ofNat 5 (fld w 13 5)) (.ofNat 3 (fld w 9 3)) (fld w 1 1 == 1) (fld w 0 1 == 1))
    else none
  | 7 =>
    if fld w 1 1 = 0 ∧ fld w 9 5 = 0 ∧ fld w 17 2 = 0 then some (.vdotq (.ofNat 4 (fld w 22 4)) (.ofNat 3 (fld w 19 3)) (.ofNat 3 (fld w 14 3)) (fld w 0 1 == 1))
    else none
  | _ => none

/-- Major 0x27: its assigned words, required-zero fields checked. -/
noncomputable def decMajor27 (w : Nat) : Option Instr :=
  match fld w 2 7 with
  | 0 =>
    if fld w 1 1 = 0 ∧ fld w 9 4 = 0 ∧ fld w 16 2 = 0 ∧ fld w 21 1 = 0 ∧ fld w 25 1 = 0 then some (.kand (.ofNat 3 (fld w 22 3)) (.ofNat 3 (fld w 18 3)) (.ofNat 3 (fld w 13 3)) (fld w 0 1 == 1))
    else none
  | 1 =>
    if fld w 1 1 = 0 ∧ fld w 9 4 = 0 ∧ fld w 16 2 = 0 ∧ fld w 21 1 = 0 ∧ fld w 25 1 = 0 then some (.kor (.ofNat 3 (fld w 22 3)) (.ofNat 3 (fld w 18 3)) (.ofNat 3 (fld w 13 3)) (fld w 0 1 == 1))
    else none
  | 2 =>
    if fld w 1 1 = 0 ∧ fld w 9 4 = 0 ∧ fld w 16 2 = 0 ∧ fld w 21 1 = 0 ∧ fld w 25 1 = 0 then some (.kxor (.ofNat 3 (fld w 22 3)) (.ofNat 3 (fld w 18 3)) (.ofNat 3 (fld w 13 3)) (fld w 0 1 == 1))
    else none
  | 3 =>
    if fld w 1 1 = 0 ∧ fld w 9 4 = 0 ∧ fld w 16 2 = 0 ∧ fld w 21 1 = 0 ∧ fld w 25 1 = 0 then some (.kandn (.ofNat 3 (fld w 22 3)) (.ofNat 3 (fld w 18 3)) (.ofNat 3 (fld w 13 3)) (fld w 0 1 == 1))
    else none
  | 4 =>
    if fld w 1 1 = 0 ∧ fld w 9 9 = 0 ∧ fld w 21 1 = 0 ∧ fld w 25 1 = 0 then some (.knot (.ofNat 3 (fld w 22 3)) (.ofNat 3 (fld w 18 3)) (fld w 0 1 == 1))
    else none
  | 5 =>
    if fld w 1 1 = 0 ∧ fld w 9 4 = 8 ∧ fld w 21 5 = 0 then some (.kpopc (.ofNat 3 (fld w 18 3)) (.ofNat 5 (fld w 13 5)) (fld w 0 1 == 1))
    else none
  | 6 =>
    if fld w 1 1 = 0 ∧ fld w 9 4 = 8 ∧ fld w 21 5 = 0 then some (.kfirst (.ofNat 3 (fld w 18 3)) (.ofNat 5 (fld w 13 5)) (fld w 0 1 == 1))
    else none
  | 7 =>
    if fld w 1 1 = 0 ∧ fld w 9 4 = 8 ∧ fld w 18 4 = 0 ∧ fld w 25 1 = 0 then some (.kset (.ofNat 3 (fld w 22 3)) (.ofNat 5 (fld w 13 5)) (fld w 0 1 == 1))
    else none
  | 8 =>
    if fld w 1 1 = 0 ∧ fld w 9 4 = 8 ∧ fld w 21 5 = 0 then some (.kget (.ofNat 3 (fld w 18 3)) (.ofNat 5 (fld w 13 5)) (fld w 0 1 == 1))
    else none
  | _ => none

/-- Major 0x28: its assigned words, required-zero fields checked. -/
noncomputable def decMajor28 (w : Nat) : Option Instr :=
  match fld w 1 3 with
  | 0 =>
    some (.vld (.ofNat 4 (fld w 22 4)) (.ofNat 5 (fld w 17 5)) (.ofNat 5 (fld w 12 5)) (.ofNat 3 (fld w 9 3)) (.ofNat 3 (fld w 6 3)) (.ofNat 2 (fld w 4 2)) (fld w 0 1 == 1))
  | 1 =>
    some (.vst (.ofNat 4 (fld w 22 4)) (.ofNat 5 (fld w 17 5)) (.ofNat 5 (fld w 12 5)) (.ofNat 3 (fld w 9 3)) (.ofNat 3 (fld w 6 3)) (.ofNat 2 (fld w 4 2)) (fld w 0 1 == 1))
  | 2 =>
    some (.vlds (.ofNat 4 (fld w 22 4)) (.ofNat 5 (fld w 17 5)) (.ofNat 5 (fld w 12 5)) (.ofNat 3 (fld w 9 3)) (.ofNat 3 (fld w 6 3)) (.ofNat 2 (fld w 4 2)) (fld w 0 1 == 1))
  | 3 =>
    some (.vsts (.ofNat 4 (fld w 22 4)) (.ofNat 5 (fld w 17 5)) (.ofNat 5 (fld w 12 5)) (.ofNat 3 (fld w 9 3)) (.ofNat 3 (fld w 6 3)) (.ofNat 2 (fld w 4 2)) (fld w 0 1 == 1))
  | 4 =>
    if fld w 16 1 = 0 then some (.vgather (.ofNat 4 (fld w 22 4)) (.ofNat 5 (fld w 17 5)) (.ofNat 4 (fld w 12 4)) (.ofNat 3 (fld w 9 3)) (.ofNat 3 (fld w 6 3)) (.ofNat 2 (fld w 4 2)) (fld w 0 1 == 1))
    else none
  | 5 =>
    if fld w 16 1 = 0 then some (.vscatter (.ofNat 4 (fld w 22 4)) (.ofNat 5 (fld w 17 5)) (.ofNat 4 (fld w 12 4)) (.ofNat 3 (fld w 9 3)) (.ofNat 3 (fld w 6 3)) (.ofNat 2 (fld w 4 2)) (fld w 0 1 == 1))
    else none
  | _ => none

/-- Major 0x30: its assigned words, required-zero fields checked. -/
noncomputable def decMajor30 (w : Nat) : Option Instr :=
  match fld w 8 3 with
  | 0 =>
    match fld w 4 4 with
    | 0 =>
      some (.dadd (.ofNat 5 (fld w 21 5)) (.ofNat 5 (fld w 16 5)) (.ofNat 5 (fld w 11 5)) (.ofNat 3 (fld w 1 3)) (fld w 0 1 == 1))
    | 1 =>
      some (.dsub (.ofNat 5 (fld w 21 5)) (.ofNat 5 (fld w 16 5)) (.ofNat 5 (fld w 11 5)) (.ofNat 3 (fld w 1 3)) (fld w 0 1 == 1))
    | 2 =>
      some (.dmul (.ofNat 5 (fld w 21 5)) (.ofNat 5 (fld w 16 5)) (.ofNat 5 (fld w 11 5)) (.ofNat 3 (fld w 1 3)) (fld w 0 1 == 1))
    | 3 =>
      some (.ddiv (.ofNat 5 (fld w 21 5)) (.ofNat 5 (fld w 16 5)) (.ofNat 5 (fld w 11 5)) (.ofNat 3 (fld w 1 3)) (fld w 0 1 == 1))
    | 4 =>
      if fld w 11 5 = 0 then some (.dsqrt (.ofNat 5 (fld w 21 5)) (.ofNat 5 (fld w 16 5)) (.ofNat 3 (fld w 1 3)) (fld w 0 1 == 1))
      else none
    | 5 =>
      some (.dfma (.ofNat 5 (fld w 21 5)) (.ofNat 5 (fld w 16 5)) (.ofNat 5 (fld w 11 5)) (.ofNat 3 (fld w 1 3)) (fld w 0 1 == 1))
    | 6 =>
      if fld w 1 3 = 0 then some (.dmin (.ofNat 5 (fld w 21 5)) (.ofNat 5 (fld w 16 5)) (.ofNat 5 (fld w 11 5)) (fld w 0 1 == 1))
      else none
    | 7 =>
      if fld w 1 3 = 0 then some (.dmax (.ofNat 5 (fld w 21 5)) (.ofNat 5 (fld w 16 5)) (.ofNat 5 (fld w 11 5)) (fld w 0 1 == 1))
      else none
    | 8 =>
      if fld w 1 3 = 0 then some (.dcmpEq (.ofNat 5 (fld w 21 5)) (.ofNat 5 (fld w 16 5)) (.ofNat 5 (fld w 11 5)) (fld w 0 1 == 1))
      else none
    | 9 =>
      if fld w 1 3 = 0 then some (.dcmpLt (.ofNat 5 (fld w 21 5)) (.ofNat 5 (fld w 16 5)) (.ofNat 5 (fld w 11 5)) (fld w 0 1 == 1))
      else none
    | 10 =>
      if fld w 1 3 = 0 then some (.dcmpLe (.ofNat 5 (fld w 21 5)) (.ofNat 5 (fld w 16 5)) (.ofNat 5 (fld w 11 5)) (fld w 0 1 == 1))
      else none
    | 11 =>
      if fld w 1 3 = 0 ∧ fld w 11 5 = 0 then some (.dclass (.ofNat 5 (fld w 21 5)) (.ofNat 5 (fld w 16 5)) (fld w 0 1 == 1))
      else none
    | _ => none
  | 1 =>
    match fld w 4 4 with
    | 0 =>
      some (.fdiv (.ofNat 5 (fld w 21 5)) (.ofNat 5 (fld w 16 5)) (.ofNat 5 (fld w 11 5)) (.ofNat 3 (fld w 1 3)) (fld w 0 1 == 1))
    | 1 =>
      if fld w 11 5 = 0 then some (.fsqrt (.ofNat 5 (fld w 21 5)) (.ofNat 5 (fld w 16 5)) (.ofNat 3 (fld w 1 3)) (fld w 0 1 == 1))
      else none
    | _ => none
  | 2 =>
    if fld w 11 5 = 0 then some (.dcvt (.ofNat 5 (fld w 21 5)) (.ofNat 5 (fld w 16 5)) (.ofNat 4 (fld w 4 4)) (.ofNat 3 (fld w 1 3)) (fld w 0 1 == 1))
    else none
  | _ => none

/-- Major 0x31: its assigned words, required-zero fields checked. -/
noncomputable def decMajor31 (w : Nat) : Option Instr :=
  match fld w 4 7 with
  | 0 =>
    if fld w 1 3 = 0 ∧ fld w 11 5 = 0 then some (.fexp2 (.ofNat 5 (fld w 21 5)) (.ofNat 5 (fld w 16 5)) (fld w 0 1 == 1))
    else none
  | 1 =>
    if fld w 1 3 = 0 ∧ fld w 11 5 = 0 then some (.flog2 (.ofNat 5 (fld w 21 5)) (.ofNat 5 (fld w 16 5)) (fld w 0 1 == 1))
    else none
  | 2 =>
    if fld w 1 3 = 0 ∧ fld w 11 5 = 0 then some (.fsin (.ofNat 5 (fld w 21 5)) (.ofNat 5 (fld w 16 5)) (fld w 0 1 == 1))
    else none
  | 3 =>
    if fld w 1 3 = 0 ∧ fld w 11 5 = 0 then some (.fcos (.ofNat 5 (fld w 21 5)) (.ofNat 5 (fld w 16 5)) (fld w 0 1 == 1))
    else none
  | 4 =>
    if fld w 1 3 = 0 ∧ fld w 11 5 = 0 then some (.ftanh (.ofNat 5 (fld w 21 5)) (.ofNat 5 (fld w 16 5)) (fld w 0 1 == 1))
    else none
  | 5 =>
    if fld w 1 3 = 0 ∧ fld w 11 5 = 0 then some (.fsigm (.ofNat 5 (fld w 21 5)) (.ofNat 5 (fld w 16 5)) (fld w 0 1 == 1))
    else none
  | 6 =>
    if fld w 1 3 = 0 ∧ fld w 11 5 = 0 then some (.frcp (.ofNat 5 (fld w 21 5)) (.ofNat 5 (fld w 16 5)) (fld w 0 1 == 1))
    else none
  | 7 =>
    if fld w 1 3 = 0 ∧ fld w 11 5 = 0 then some (.frsqrt (.ofNat 5 (fld w 21 5)) (.ofNat 5 (fld w 16 5)) (fld w 0 1 == 1))
    else none
  | _ => none

/-- Major 0x32: its assigned words, required-zero fields checked. -/
noncomputable def decMajor32 (w : Nat) : Option Instr :=
  match fld w 2 7 with
  | 0 =>
    some (.vdadd (.ofNat 4 (fld w 22 4)) (.ofNat 4 (fld w 18 4)) (.ofNat 5 (fld w 13 5)) (fld w 12 1 == 1) (.ofNat 3 (fld w 9 3)) (fld w 1 1 == 1) (fld w 0 1 == 1))
  | 1 =>
    some (.vdsub (.ofNat 4 (fld w 22 4)) (.ofNat 4 (fld w 18 4)) (.ofNat 5 (fld w 13 5)) (fld w 12 1 == 1) (.ofNat 3 (fld w 9 3)) (fld w 1 1 == 1) (fld w 0 1 == 1))
  | 2 =>
    some (.vdmul (.ofNat 4 (fld w 22 4)) (.ofNat 4 (fld w 18 4)) (.ofNat 5 (fld w 13 5)) (fld w 12 1 == 1) (.ofNat 3 (fld w 9 3)) (fld w 1 1 == 1) (fld w 0 1 == 1))
  | 3 =>
    some (.vddiv (.ofNat 4 (fld w 22 4)) (.ofNat 4 (fld w 18 4)) (.ofNat 5 (fld w 13 5)) (fld w 12 1 == 1) (.ofNat 3 (fld w 9 3)) (fld w 1 1 == 1) (fld w 0 1 == 1))
  | 4 =>
    if fld w 12 6 = 0 then some (.vdsqrt (.ofNat 4 (fld w 22 4)) (.ofNat 4 (fld w 18 4)) (.ofNat 3 (fld w 9 3)) (fld w 1 1 == 1) (fld w 0 1 == 1))
    else none
  | 5 =>
    if fld w 12 1 = 1 then some (.vdfma (.ofNat 4 (fld w 22 4)) (.ofNat 4 (fld w 18 4)) (.ofNat 5 (fld w 13 5)) (.ofNat 3 (fld w 9 3)) (fld w 1 1 == 1) (fld w 0 1 == 1))
    else none
  | 6 =>
    some (.vdmin (.ofNat 4 (fld w 22 4)) (.ofNat 4 (fld w 18 4)) (.ofNat 5 (fld w 13 5)) (fld w 12 1 == 1) (.ofNat 3 (fld w 9 3)) (fld w 1 1 == 1) (fld w 0 1 == 1))
  | 7 =>
    some (.vdmax (.ofNat 4 (fld w 22 4)) (.ofNat 4 (fld w 18 4)) (.ofNat 5 (fld w 13 5)) (fld w 12 1 == 1) (.ofNat 3 (fld w 9 3)) (fld w 1 1 == 1) (fld w 0 1 == 1))
  | 8 =>
    if fld w 12 1 = 0 ∧ fld w 14 4 = 0 then some (.vdcvtDS (.ofNat 4 (fld w 22 4)) (.ofNat 4 (fld w 18 4)) (fld w 13 1 == 1) (.ofNat 3 (fld w 9 3)) (fld w 1 1 == 1) (fld w 0 1 == 1))
    else none
  | 9 =>
    if fld w 12 1 = 0 ∧ fld w 14 4 = 0 then some (.vdcvtSD (.ofNat 4 (fld w 22 4)) (.ofNat 4 (fld w 18 4)) (fld w 13 1 == 1) (.ofNat 3 (fld w 9 3)) (fld w 1 1 == 1) (fld w 0 1 == 1))
    else none
  | 16 =>
    some (.vfdiv (.ofNat 4 (fld w 22 4)) (.ofNat 4 (fld w 18 4)) (.ofNat 5 (fld w 13 5)) (fld w 12 1 == 1) (.ofNat 3 (fld w 9 3)) (fld w 1 1 == 1) (fld w 0 1 == 1))
  | 17 =>
    if fld w 12 6 = 0 then some (.vfsqrt (.ofNat 4 (fld w 22 4)) (.ofNat 4 (fld w 18 4)) (.ofNat 3 (fld w 9 3)) (fld w 1 1 == 1) (fld w 0 1 == 1))
    else none
  | 18 =>
    if fld w 12 6 = 0 then some (.vfexp2 (.ofNat 4 (fld w 22 4)) (.ofNat 4 (fld w 18 4)) (.ofNat 3 (fld w 9 3)) (fld w 1 1 == 1) (fld w 0 1 == 1))
    else none
  | 19 =>
    if fld w 12 6 = 0 then some (.vflog2 (.ofNat 4 (fld w 22 4)) (.ofNat 4 (fld w 18 4)) (.ofNat 3 (fld w 9 3)) (fld w 1 1 == 1) (fld w 0 1 == 1))
    else none
  | 20 =>
    if fld w 12 6 = 0 then some (.vfsin (.ofNat 4 (fld w 22 4)) (.ofNat 4 (fld w 18 4)) (.ofNat 3 (fld w 9 3)) (fld w 1 1 == 1) (fld w 0 1 == 1))
    else none
  | 21 =>
    if fld w 12 6 = 0 then some (.vfcos (.ofNat 4 (fld w 22 4)) (.ofNat 4 (fld w 18 4)) (.ofNat 3 (fld w 9 3)) (fld w 1 1 == 1) (fld w 0 1 == 1))
    else none
  | 22 =>
    if fld w 12 6 = 0 then some (.vftanh (.ofNat 4 (fld w 22 4)) (.ofNat 4 (fld w 18 4)) (.ofNat 3 (fld w 9 3)) (fld w 1 1 == 1) (fld w 0 1 == 1))
    else none
  | 23 =>
    if fld w 12 6 = 0 then some (.vfsigm (.ofNat 4 (fld w 22 4)) (.ofNat 4 (fld w 18 4)) (.ofNat 3 (fld w 9 3)) (fld w 1 1 == 1) (fld w 0 1 == 1))
    else none
  | 24 =>
    if fld w 12 6 = 0 then some (.vfrcp (.ofNat 4 (fld w 22 4)) (.ofNat 4 (fld w 18 4)) (.ofNat 3 (fld w 9 3)) (fld w 1 1 == 1) (fld w 0 1 == 1))
    else none
  | 25 =>
    if fld w 12 6 = 0 then some (.vfrsqrt (.ofNat 4 (fld w 22 4)) (.ofNat 4 (fld w 18 4)) (.ofNat 3 (fld w 9 3)) (fld w 1 1 == 1) (fld w 0 1 == 1))
    else none
  | _ => none

/-- Major 0x33: its assigned words, required-zero fields checked. -/
noncomputable def decMajor33 (w : Nat) : Option Instr :=
  match fld w 8 3 with
  | 0 =>
    if fld w 6 2 = 0 then some (.wcas128 (.ofNat 5 (fld w 21 5)) (.ofNat 5 (fld w 16 5)) (.ofNat 3 (fld w 13 3)) (.ofNat 2 (fld w 11 2)) (.ofNat 5 (fld w 1 5)) (fld w 0 1 == 1))
    else none
  | 1 =>
    if fld w 6 2 = 0 then some (.wswap128 (.ofNat 5 (fld w 21 5)) (.ofNat 5 (fld w 16 5)) (.ofNat 3 (fld w 13 3)) (.ofNat 2 (fld w 11 2)) (.ofNat 5 (fld w 1 5)) (fld w 0 1 == 1))
    else none
  | 2 =>
    if fld w 6 2 = 0 then some (.wamofadd (.ofNat 5 (fld w 21 5)) (.ofNat 5 (fld w 16 5)) (.ofNat 3 (fld w 13 3)) (.ofNat 2 (fld w 11 2)) (.ofNat 5 (fld w 1 5)) (fld w 0 1 == 1))
    else none
  | 3 =>
    if fld w 6 2 = 0 then some (.wamomin (.ofNat 5 (fld w 21 5)) (.ofNat 5 (fld w 16 5)) (.ofNat 3 (fld w 13 3)) (.ofNat 2 (fld w 11 2)) (.ofNat 5 (fld w 1 5)) (fld w 0 1 == 1))
    else none
  | 4 =>
    if fld w 6 2 = 0 then some (.wamomax (.ofNat 5 (fld w 21 5)) (.ofNat 5 (fld w 16 5)) (.ofNat 3 (fld w 13 3)) (.ofNat 2 (fld w 11 2)) (.ofNat 5 (fld w 1 5)) (fld w 0 1 == 1))
    else none
  | _ => none

/-- Major 0x34: its assigned words, required-zero fields checked. -/
noncomputable def decMajor34 (w w1 : Nat) : Option Instr :=
  match fld w 8 3 with
  | 0 =>
    if fld w 1 3 = 0 ∧ fld w 15 1 = 0 ∧ fld w 20 1 = 0 ∧ fld w 24 2 = 0 ∧ fld w1 0 5 = 0 ∧ fld w1 8 24 = 0 then some (.mma (.ofNat 3 (fld w 21 3)) (.ofNat 4 (fld w 16 4)) (.ofNat 4 (fld w 11 4)) (.ofNat 4 (fld w 4 4)) (fld w1 5 1 == 1) (fld w1 6 1 == 1) (fld w1 7 1 == 1) (fld w 0 1 == 1))
    else none
  | 1 =>
    if fld w 15 1 = 0 ∧ fld w 20 1 = 0 ∧ fld w 24 2 = 0 ∧ fld w1 7 25 = 0 then some (.mmag (.ofNat 3 (fld w 21 3)) (.ofNat 4 (fld w 16 4)) (.ofNat 4 (fld w 11 4)) (.ofNat 4 (fld w 4 4)) (.ofNat 3 (fld w 1 3)) (.ofNat 5 (fld w1 0 5)) (fld w1 5 1 == 1) (fld w1 6 1 == 1) (fld w 0 1 == 1))
    else none
  | 2 =>
    match fld w 4 4 with
    | 0 =>
      if fld w 1 3 = 0 ∧ fld w 11 10 = 0 ∧ fld w 24 2 = 0 ∧ fld w1 0 32 = 0 then some (.mzero (.ofNat 3 (fld w 21 3)) (fld w 0 1 == 1))
      else none
    | 1 =>
      if fld w 24 2 = 0 ∧ fld w1 19 13 = 0 then some (.maccst (.ofNat 3 (fld w 21 3)) (.ofNat 5 (fld w 16 5)) (.ofNat 5 (fld w 11 5)) (.ofNat 3 (fld w 1 3)) (.ofNat 16 (fld w1 0 16)) (.ofNat 3 (fld w1 16 3)) (fld w 0 1 == 1))
      else none
    | 2 =>
      if fld w 24 2 = 0 ∧ fld w1 0 16 = 0 ∧ fld w1 19 13 = 0 then some (.maccld (.ofNat 3 (fld w 21 3)) (.ofNat 5 (fld w 16 5)) (.ofNat 5 (fld w 11 5)) (.ofNat 3 (fld w 1 3)) (.ofNat 3 (fld w1 16 3)) (fld w 0 1 == 1))
      else none
    | 3 =>
      if fld w 1 3 = 0 ∧ fld w 20 6 = 0 ∧ fld w1 0 32 = 0 then some (.mringcfgSet (.ofNat 4 (fld w 16 4)) (.ofNat 5 (fld w 11 5)) (fld w 0 1 == 1))
      else       if fld w 1 3 = 1 ∧ fld w 20 6 = 0 ∧ fld w1 0 32 = 0 then some (.mringcfgPub (.ofNat 4 (fld w 16 4)) (.ofNat 5 (fld w 11 5)) (fld w 0 1 == 1))
      else       if fld w 1 3 = 2 ∧ fld w 11 5 = 0 ∧ fld w 20 1 = 0 ∧ fld w1 0 32 = 0 then some (.mringcfgGet (.ofNat 5 (fld w 21 5)) (.ofNat 4 (fld w 16 4)) (fld w 0 1 == 1))
      else none
    | 4 =>
      if fld w 1 3 = 0 ∧ fld w 11 5 = 0 ∧ fld w1 0 32 = 0 then some (.mstat (.ofNat 5 (fld w 21 5)) (.ofNat 5 (fld w 16 5)) (fld w 0 1 == 1))
      else none
    | 5 =>
      if fld w 1 3 = 0 ∧ fld w 11 15 = 0 ∧ fld w1 4 28 = 0 then some (.mwait (.ofNat 4 (fld w1 0 4)) (fld w 0 1 == 1))
      else none
    | _ => none
  | _ => none

/-- Major 0x38: its assigned words, required-zero fields checked. -/
noncomputable def decMajor38 (w : Nat) : Option Instr :=
  match fld w 4 7 with
  | 0 =>
    if fld w 21 5 = 0 then some (.setseg (.ofNat 5 (fld w 16 5)) (.ofNat 5 (fld w 11 5)) (.ofNat 3 (fld w 1 3)) (fld w 0 1 == 1))
    else none
  | 1 =>
    if fld w 12 9 = 0 then some (.getseg (.ofNat 5 (fld w 21 5)) (fld w 11 1 == 1) (.ofNat 3 (fld w 1 3)) (fld w 0 1 == 1))
    else none
  | 2 =>
    if fld w 1 3 = 0 ∧ fld w 21 5 = 0 then some (.tlbinvPage (.ofNat 5 (fld w 16 5)) (.ofNat 5 (fld w 11 5)) (fld w 0 1 == 1))
    else     if fld w 1 3 = 1 ∧ fld w 16 10 = 0 then some (.tlbinvSpace (.ofNat 5 (fld w 11 5)) (fld w 0 1 == 1))
    else     if fld w 1 3 = 2 ∧ fld w 11 15 = 0 then some (.tlbinvAll (fld w 0 1 == 1))
    else none
  | 3 =>
    if fld w 1 3 = 0 ∧ fld w 11 5 = 0 then some (.park (.ofNat 5 (fld w 21 5)) (.ofNat 5 (fld w 16 5)) (fld w 0 1 == 1))
    else none
  | 4 =>
    if fld w 1 3 = 0 ∧ fld w 11 5 = 0 ∧ fld w 21 5 = 0 then some (.wake (.ofNat 5 (fld w 16 5)) (fld w 0 1 == 1))
    else     if fld w 1 3 = 1 ∧ fld w 11 5 = 0 ∧ fld w 21 5 = 0 then some (.wakeStrand (.ofNat 5 (fld w 16 5)) (fld w 0 1 == 1))
    else none
  | 5 =>
    some (.ctxsave (.ofNat 5 (fld w 21 5)) (.ofNat 5 (fld w 16 5)) (.ofNat 5 (fld w 11 5)) (.ofNat 3 (fld w 1 3)) (fld w 0 1 == 1))
  | 6 =>
    some (.ctxload (.ofNat 5 (fld w 21 5)) (.ofNat 5 (fld w 16 5)) (.ofNat 5 (fld w 11 5)) (.ofNat 3 (fld w 1 3)) (fld w 0 1 == 1))
  | 7 =>
    if fld w 1 3 = 0 then some (.slotswap (.ofNat 5 (fld w 21 5)) (.ofNat 5 (fld w 16 5)) (.ofNat 5 (fld w 11 5)) (fld w 0 1 == 1))
    else none
  | 8 =>
    if fld w 1 3 = 0 then some (.slotctl (.ofNat 5 (fld w 21 5)) (.ofNat 5 (fld w 16 5)) (.ofNat 5 (fld w 11 5)) (fld w 0 1 == 1))
    else none
  | 9 =>
    if fld w 1 3 = 0 ∧ fld w 11 15 = 0 then some (.halt (fld w 0 1 == 1))
    else none
  | _ => none

/-- Major 0x39: its assigned words, required-zero fields checked. -/
noncomputable def decMajor39 (w : Nat) : Option Instr :=
  match fld w 13 3 with
  | 0 =>
    if fld w 16 10 = 0 then some (.trap (.ofNat 12 (fld w 1 12)) (fld w 0 1 == 1))
    else none
  | 1 =>
    if fld w 16 10 = 0 then some (.brk (.ofNat 12 (fld w 1 12)) (fld w 0 1 == 1))
    else none
  | 2 =>
    if fld w 1 12 = 0 ∧ fld w 16 10 = 0 then some (.tret (fld w 0 1 == 1))
    else none
  | _ => none

/-- Major 0x3A: its assigned words, required-zero fields checked. -/
noncomputable def decMajor3A (w : Nat) : Option Instr :=
  match fld w 4 7 with
  | 0 =>
    if fld w 21 5 = 0 then some (.codesync (.ofNat 5 (fld w 16 5)) (.ofNat 5 (fld w 11 5)) (.ofNat 3 (fld w 1 3)) (fld w 0 1 == 1))
    else none
  | 1 =>
    if fld w 1 3 = 0 ∧ fld w 21 5 = 0 then some (.xlatinvRange (.ofNat 5 (fld w 16 5)) (.ofNat 5 (fld w 11 5)) (fld w 0 1 == 1))
    else     if fld w 1 3 = 1 ∧ fld w 11 15 = 0 then some (.xlatinvAll (fld w 0 1 == 1))
    else none
  | 2 =>
    if fld w 1 3 = 0 ∧ fld w 11 5 = 0 ∧ fld w 21 5 = 0 then some (.xlatpre (.ofNat 5 (fld w 16 5)) (fld w 0 1 == 1))
    else none
  | _ => none

/-- Major 0x3B: its assigned words, required-zero fields checked. -/
noncomputable def decMajor3B (w : Nat) : Option Instr :=
  match fld w 4 7 with
  | 0 =>
    if fld w 1 3 = 0 ∧ fld w 11 10 = 0 then some (.qwait (.ofNat 5 (fld w 21 5)) (fld w 0 1 == 1))
    else none
  | 1 =>
    if fld w 1 3 = 0 ∧ fld w 11 10 = 0 then some (.qpop (.ofNat 5 (fld w 21 5)) (fld w 0 1 == 1))
    else none
  | 2 =>
    if fld w 1 3 = 0 ∧ fld w 11 5 = 0 then some (.qpush (.ofNat 5 (fld w 21 5)) (.ofNat 5 (fld w 16 5)) (fld w 0 1 == 1))
    else none
  | 3 =>
    if fld w 1 1 = 0 ∧ fld w 3 1 = 0 then some (.qsignal (.ofNat 5 (fld w 21 5)) (.ofNat 5 (fld w 16 5)) (.ofNat 5 (fld w 11 5)) (fld w 2 1 == 1) (fld w 0 1 == 1))
    else     if fld w 1 1 = 1 ∧ fld w 3 1 = 0 then some (.qsignalAdd (.ofNat 5 (fld w 21 5)) (.ofNat 5 (fld w 16 5)) (.ofNat 5 (fld w 11 5)) (fld w 2 1 == 1) (fld w 0 1 == 1))
    else none
  | 4 =>
    if fld w 1 3 = 0 ∧ fld w 11 5 = 0 then some (.launch (.ofNat 5 (fld w 21 5)) (.ofNat 5 (fld w 16 5)) (fld w 0 1 == 1))
    else     if fld w 1 3 = 1 ∧ fld w 11 5 = 0 then some (.launchTry (.ofNat 5 (fld w 21 5)) (.ofNat 5 (fld w 16 5)) (fld w 0 1 == 1))
    else none
  | 5 =>
    if fld w 1 3 = 0 ∧ fld w 11 10 = 0 then some (.wqmap (.ofNat 5 (fld w 21 5)) (fld w 0 1 == 1))
    else     if fld w 1 3 = 1 ∧ fld w 11 5 = 0 then some (.wqmapQ (.ofNat 5 (fld w 21 5)) (.ofNat 5 (fld w 16 5)) (fld w 0 1 == 1))
    else none
  | 6 =>
    if fld w 1 3 = 0 ∧ fld w 11 10 = 0 then some (.wqunmap (.ofNat 5 (fld w 21 5)) (fld w 0 1 == 1))
    else none
  | 7 =>
    if fld w 1 3 = 0 ∧ fld w 11 5 = 0 then some (.rankset (.ofNat 5 (fld w 21 5)) (.ofNat 5 (fld w 16 5)) (fld w 0 1 == 1))
    else none
  | _ => none

/-- Major 0x3C: its assigned words, required-zero fields checked. -/
noncomputable def decMajor3C (w : Nat) : Option Instr :=
  match fld w 4 7 with
  | 0 =>
    some (.wpset (.ofNat 5 (fld w 21 5)) (.ofNat 5 (fld w 16 5)) (.ofNat 5 (fld w 11 5)) (.ofNat 3 (fld w 1 3)) (fld w 0 1 == 1))
  | 1 =>
    if fld w 1 3 = 0 then some (.wpsetPhys (.ofNat 5 (fld w 21 5)) (.ofNat 5 (fld w 16 5)) (.ofNat 5 (fld w 11 5)) (fld w 0 1 == 1))
    else none
  | 2 =>
    if fld w 1 3 = 0 ∧ fld w 11 5 = 0 then some (.wpclr (.ofNat 5 (fld w 21 5)) (.ofNat 5 (fld w 16 5)) (fld w 0 1 == 1))
    else none
  | 3 =>
    if fld w 1 3 = 0 ∧ fld w 21 5 = 0 then some (.tracemark (.ofNat 5 (fld w 16 5)) (.ofNat 5 (fld w 11 5)) (fld w 0 1 == 1))
    else none
  | _ => none

/-- Major 0x3E: its assigned words, required-zero fields checked. -/
noncomputable def decMajor3E (w w1 : Nat) : Option Instr :=
  if fld w 1 20 = 0 then some (.li (.ofNat 5 (fld w 21 5)) (.ofNat 32 (fld w1 0 32)) (fld w 0 1 == 1))
  else none

/-- The majors of two words; every other major, the reserved ones too, takes one (R29). -/
def twoWordMajor (major : Nat) : Bool := major == 0x1A || major == 0x1B || major == 0x34 || major == 0x3E

/-- The number of words of the instruction whose first word is `w` (R29). -/
def wordCount (w : Nat) : Nat := if twoWordMajor (fld w 26 6) then 2 else 1

/-- The row a first word `w` and a second word `w1` select by major (R38); `none` on an unassigned encoding. -/
noncomputable def decodeRaw (w w1 : Nat) : Option Instr :=
  match fld w 26 6 with
  | 0 => decMajor00 w
  | 1 => decMajor01 w
  | 2 => decMajor02 w
  | 3 => decMajor03 w
  | 4 => decMajor04 w
  | 5 => decMajor05 w
  | 6 => decMajor06 w
  | 7 => decMajor07 w
  | 8 => decMajor08 w
  | 9 => decMajor09 w
  | 10 => decMajor0A w
  | 11 => decMajor0B w
  | 12 => decMajor0C w
  | 13 => decMajor0D w
  | 14 => decMajor0E w
  | 15 => decMajor0F w
  | 16 => decMajor10 w
  | 17 => decMajor11 w
  | 18 => decMajor12 w
  | 19 => decMajor13 w
  | 20 => decMajor14 w
  | 21 => decMajor15 w
  | 22 => decMajor16 w
  | 23 => decMajor17 w
  | 24 => decMajor18 w
  | 25 => decMajor19 w
  | 26 => decMajor1A w w1
  | 27 => decMajor1B w w1
  | 32 => decMajor20 w
  | 33 => decMajor21 w
  | 34 => decMajor22 w
  | 35 => decMajor23 w
  | 36 => decMajor24 w
  | 37 => decMajor25 w
  | 38 => decMajor26 w
  | 39 => decMajor27 w
  | 40 => decMajor28 w
  | 48 => decMajor30 w
  | 49 => decMajor31 w
  | 50 => decMajor32 w
  | 51 => decMajor33 w
  | 52 => decMajor34 w w1
  | 56 => decMajor38 w
  | 57 => decMajor39 w
  | 58 => decMajor3A w
  | 59 => decMajor3B w
  | 60 => decMajor3C w
  | 62 => decMajor3E w w1
  | _ => none

/-- The instruction of the words `w`, `w1`; `none` where the first four causes of R40 hold (ILLEGAL). -/
noncomputable def decode (w w1 : Nat) : Option Instr :=
  match decodeRaw w w1 with
  | some i => if i.wf then some i else none
  | none => none

/-- The bits of a flag. -/
def bit (b : Bool) : Nat := if b then 1 else 0

/-- The words of an instruction (R29 to R37, and each owning chapter's word); an event has none. -/
def encode : Instr → List Nat
  | .translationConfirm _ _ => []
  | .walkEnd _ _ => []
  | .faultServiceRetry _ _ => []
  | .faultServiceDecline _ _ => []
  | .reissue _ => []
  | .loadDataReturn _ _ => []
  | .storeQueueDrain _ => []
  | .storePerformed _ _ => []
  | .atomicAtController _ _ => []
  | .releaseMarkerLeave _ _ => []
  | .scReleaseTime _ _ => []
  | .scHeldAccessPerform _ _ => []
  | .trapDelivery _ => []
  | .asyncTrapDelivery _ => []
  | .fatalReport _ => []
  | .coreDump _ => []
  | .coreDumpEnd _ => []
  | .guestQueueEntry _ => []
  | .guestIssue _ => []
  | .shipResultReturn _ _ => []
  | .squashNotice _ _ _ => []
  | .shipMapChange _ _ => []
  | .wideAtomicTranslate _ _ _ => []
  | .wideAtomicPerform _ _ _ => []
  | .channelEntryArrival _ _ _ _ _ => []
  | .creditReturn _ _ _ => []
  | .inboxMessageArrival _ _ _ => []
  | .spillReadback _ _ => []
  | .barrierArrival _ _ _ => []
  | .genUpdateArrival _ _ _ _ => []
  | .barArriveResult _ _ => []
  | .quiescenceCountExpiry _ => []
  | .troupeQuiescent _ => []
  | .quiescenceReoffer _ => []
  | .wakeArrival _ _ => []
  | .parkDeadline _ => []
  | .slotswapArrival _ _ => []
  | .contextSave _ => []
  | .contextRestore _ => []
  | .scratchpadCopy _ _ _ => []
  | .scratchpadClearEnd _ => []
  | .matrixQueueEntry _ _ => []
  | .sequencerStart _ => []
  | .matrixRetire _ => []
  | .maccstWalkEnd _ => []
  | .ringSlotWriteResume _ _ => []
  | .commandStart _ _ => []
  | .copyWalkEnd _ _ => []
  | .ringReservation _ _ => []
  | .cpyringTailAdvance _ _ => []
  | .copyCompletion _ _ => []
  | .remoteFlitArrival _ _ _ _ => []
  | .remoteFlitAck _ _ _ _ _ => []
  | .linkDown _ => []
  | .linkTrain _ => []
  | .spawnAtOrigin _ => []
  | .tspawnIdReturn _ _ => []
  | .taskAccept _ _ => []
  | .taskRefill _ _ => []
  | .taskDispatch _ _ => []
  | .frontierSample _ => []
  | .frontierPublish _ => []
  | .taskCommit _ => []
  | .commitPassEnd _ => []
  | .nonspecNotice _ _ => []
  | .abortNotice _ _ _ => []
  | .irrevocableCommit _ _ => []
  | .irrevocableStoreCheck _ _ _ _ _ => []
  | .workersResume _ => []
  | .translationEnd _ _ => []
  | .templateReload _ => []
  | .tlbinvPortArrival _ _ _ _ => []
  | .arrivalWrite _ _ => []
  | .boardInsertion _ => []
  | .waitPacketPoll _ => []
  | .placementRetry => []
  | .troupeRelease _ => []
  | .thermalSample _ _ _ => []
  | .powerSample _ => []
  | .heavyThermalSample _ _ => []
  | .dieThermalTrip _ => []
  | .powerGood => []
  | .stageB => []
  | .stageC => []
  | .updateUtimeExpiry => []
  | .correctedError _ => []
  | .uncorrectableError _ _ => []
  | .patrolScrub => []
  | .hostPortAccess _ _ _ => []
  | .watchpointReport _ => []
  | .stop _ _ _ => []
  | .stopComplete _ => []
  | .resume _ _ _ _ => []
  | .step _ _ _ _ => []
  | .steptrap _ _ _ => []
  | .blackout _ => []
  | .claim _ _ _ => []
  | .unclaim _ _ _ => []
  | .clrhist _ _ => []
  | .coldReset => []
  | .firmwareUpdate => []
  | .installUpload => []
  | .queueEnable => []
  | .queueDisable => []
  | .mqdataWrite _ => []
  | .systemObjectPlace => []
  | .attestationRequest => []
  | .registerWrite _ _ => []
  | .turn => []
  | .tlbinvCompletion _ _ => []
  | .barStatResult _ _ => []
  | .codesyncCompletion _ _ => []
  | .xlatinvCompletion _ _ => []
  | .contextTransferResult _ _ => []
  | .slotswapStatus _ _ => []
  | .watchArmResult _ _ => []
  | .instructionMemoryRefetch _ => []
  | .ill c => [0x00000000 + bit c]
  | .add d a b c => [0x04000000 + d.toNat * 2097152 + a.toNat * 65536 + b.toNat * 2048 + bit c]
  | .sub d a b c => [0x04000010 + d.toNat * 2097152 + a.toNat * 65536 + b.toNat * 2048 + bit c]
  | .mul d a b c => [0x04000020 + d.toNat * 2097152 + a.toNat * 65536 + b.toNat * 2048 + bit c]
  | .mulh d a b c => [0x04000030 + d.toNat * 2097152 + a.toNat * 65536 + b.toNat * 2048 + bit c]
  | .mulhn d a b c => [0x04000040 + d.toNat * 2097152 + a.toNat * 65536 + b.toNat * 2048 + bit c]
  | .div d a b c => [0x04000050 + d.toNat * 2097152 + a.toNat * 65536 + b.toNat * 2048 + bit c]
  | .divn d a b c => [0x04000060 + d.toNat * 2097152 + a.toNat * 65536 + b.toNat * 2048 + bit c]
  | .rem d a b c => [0x04000070 + d.toNat * 2097152 + a.toNat * 65536 + b.toNat * 2048 + bit c]
  | .remn d a b c => [0x04000080 + d.toNat * 2097152 + a.toNat * 65536 + b.toNat * 2048 + bit c]
  | .and d a b c => [0x04000100 + d.toNat * 2097152 + a.toNat * 65536 + b.toNat * 2048 + bit c]
  | .or d a b c => [0x04000110 + d.toNat * 2097152 + a.toNat * 65536 + b.toNat * 2048 + bit c]
  | .xor d a b c => [0x04000120 + d.toNat * 2097152 + a.toNat * 65536 + b.toNat * 2048 + bit c]
  | .andn d a b c => [0x04000130 + d.toNat * 2097152 + a.toNat * 65536 + b.toNat * 2048 + bit c]
  | .orn d a b c => [0x04000140 + d.toNat * 2097152 + a.toNat * 65536 + b.toNat * 2048 + bit c]
  | .sll d a b c => [0x04000180 + d.toNat * 2097152 + a.toNat * 65536 + b.toNat * 2048 + bit c]
  | .srl d a b c => [0x04000190 + d.toNat * 2097152 + a.toNat * 65536 + b.toNat * 2048 + bit c]
  | .sra d a b c => [0x040001A0 + d.toNat * 2097152 + a.toNat * 65536 + b.toNat * 2048 + bit c]
  | .rol d a b c => [0x040001B0 + d.toNat * 2097152 + a.toNat * 65536 + b.toNat * 2048 + bit c]
  | .ror d a b c => [0x040001C0 + d.toNat * 2097152 + a.toNat * 65536 + b.toNat * 2048 + bit c]
  | .min d a b c => [0x04000200 + d.toNat * 2097152 + a.toNat * 65536 + b.toNat * 2048 + bit c]
  | .max d a b c => [0x04000210 + d.toNat * 2097152 + a.toNat * 65536 + b.toNat * 2048 + bit c]
  | .minn d a b c => [0x04000220 + d.toNat * 2097152 + a.toNat * 65536 + b.toNat * 2048 + bit c]
  | .maxn d a b c => [0x04000230 + d.toNat * 2097152 + a.toNat * 65536 + b.toNat * 2048 + bit c]
  | .slt d a b c => [0x04000280 + d.toNat * 2097152 + a.toNat * 65536 + b.toNat * 2048 + bit c]
  | .sltn d a b c => [0x04000290 + d.toNat * 2097152 + a.toNat * 65536 + b.toNat * 2048 + bit c]
  | .seq d a b c => [0x040002A0 + d.toNat * 2097152 + a.toNat * 65536 + b.toNat * 2048 + bit c]
  | .sne d a b c => [0x040002B0 + d.toNat * 2097152 + a.toNat * 65536 + b.toNat * 2048 + bit c]
  | .clz d a c => [0x04000300 + d.toNat * 2097152 + a.toNat * 65536 + bit c]
  | .ctz d a c => [0x04000310 + d.toNat * 2097152 + a.toNat * 65536 + bit c]
  | .popc d a c => [0x04000320 + d.toNat * 2097152 + a.toNat * 65536 + bit c]
  | .brev d a c => [0x04000330 + d.toNat * 2097152 + a.toNat * 65536 + bit c]
  | .bswap d a c => [0x04000340 + d.toNat * 2097152 + a.toNat * 65536 + bit c]
  | .ext d a b c => [0x04000380 + d.toNat * 2097152 + a.toNat * 65536 + b.toNat * 2048 + bit c]
  | .extn d a b c => [0x04000390 + d.toNat * 2097152 + a.toNat * 65536 + b.toNat * 2048 + bit c]
  | .dep d a b c => [0x040003A0 + d.toNat * 2097152 + a.toNat * 65536 + b.toNat * 2048 + bit c]
  | .sel d a b c => [0x040003B0 + d.toNat * 2097152 + a.toNat * 65536 + b.toNat * 2048 + bit c]
  | .addi d a i c => [0x08000000 + d.toNat * 2097152 + a.toNat * 65536 + i.toNat * 2 + bit c]
  | .andi d a i c => [0x0C000000 + d.toNat * 2097152 + a.toNat * 65536 + i.toNat * 2 + bit c]
  | .ori d a i c => [0x10000000 + d.toNat * 2097152 + a.toNat * 65536 + i.toNat * 2 + bit c]
  | .xori d a i c => [0x14000000 + d.toNat * 2097152 + a.toNat * 65536 + i.toNat * 2 + bit c]
  | .slli d a s c => [0x18000000 + d.toNat * 2097152 + a.toNat * 65536 + s.toNat * 2 + bit c]
  | .srli d a s c => [0x18000080 + d.toNat * 2097152 + a.toNat * 65536 + s.toNat * 2 + bit c]
  | .srai d a s c => [0x18000100 + d.toNat * 2097152 + a.toNat * 65536 + s.toNat * 2 + bit c]
  | .slti d a i c => [0x1C000000 + d.toNat * 2097152 + a.toNat * 65536 + i.toNat * 2 + bit c]
  | .sltni d a i c => [0x1C008000 + d.toNat * 2097152 + a.toNat * 65536 + i.toNat * 2 + bit c]
  | .muli d a i c => [0x20000000 + d.toNat * 2097152 + a.toNat * 65536 + i.toNat * 2 + bit c]
  | .lui d a i c => [0x24000000 + d.toNat * 2097152 + a.toNat * 65536 + i.toNat * 2 + bit c]
  | .li d imm c => [0xF8000000 + d.toNat * 2097152 + bit c, imm.toNat]
  | .lea d a b s c => [0x28000000 + d.toNat * 2097152 + a.toNat * 65536 + b.toNat * 2048 + s.toNat * 2 + bit c]
  | .addx d a b s c => [0x28000010 + d.toNat * 2097152 + a.toNat * 65536 + b.toNat * 2048 + s.toNat * 2 + bit c]
  | .beq a b i c => [0x2C000000 + a.toNat * 131072 + b.toNat * 4096 + i.toNat * 2 + bit c]
  | .bne a b i c => [0x2C400000 + a.toNat * 131072 + b.toNat * 4096 + i.toNat * 2 + bit c]
  | .blt a b i c => [0x2C800000 + a.toNat * 131072 + b.toNat * 4096 + i.toNat * 2 + bit c]
  | .bge a b i c => [0x2CC00000 + a.toNat * 131072 + b.toNat * 4096 + i.toNat * 2 + bit c]
  | .bltn a b i c => [0x2D000000 + a.toNat * 131072 + b.toNat * 4096 + i.toNat * 2 + bit c]
  | .bgen a b i c => [0x2D400000 + a.toNat * 131072 + b.toNat * 4096 + i.toNat * 2 + bit c]
  | .jmp i c => [0x30000000 + i.toNat * 2 + bit c]
  | .call i c => [0x34000000 + i.toNat * 2 + bit c]
  | .jr a c => [0x38000000 + a.toNat * 131072 + bit c]
  | .callr a c => [0x38400000 + a.toNat * 131072 + bit c]
  | .dbnz a i c => [0x38800000 + a.toNat * 131072 + i.toNat * 2 + bit c]
  | .getsr d n c => [0x3C000000 + d.toNat * 2097152 + n.toNat * 2 + bit c]
  | .setsr a n c => [0x3C002000 + a.toNat * 65536 + n.toNat * 2 + bit c]
  | .nop c => [0x3C004000 + bit c]
  | .pause n c => [0x3C006000 + n.toNat * 2 + bit c]
  | .fadd d a b f r c => [0x40000000 + d.toNat * 2097152 + a.toNat * 65536 + b.toNat * 2048 + f.toNat * 16 + r.toNat * 2 + bit c]
  | .fsub d a b f r c => [0x40000040 + d.toNat * 2097152 + a.toNat * 65536 + b.toNat * 2048 + f.toNat * 16 + r.toNat * 2 + bit c]
  | .fmul d a b f r c => [0x40000080 + d.toNat * 2097152 + a.toNat * 65536 + b.toNat * 2048 + f.toNat * 16 + r.toNat * 2 + bit c]
  | .fmin d a b f c => [0x400000C0 + d.toNat * 2097152 + a.toNat * 65536 + b.toNat * 2048 + f.toNat * 16 + bit c]
  | .fmax d a b f c => [0x40000100 + d.toNat * 2097152 + a.toNat * 65536 + b.toNat * 2048 + f.toNat * 16 + bit c]
  | .fabs d a f c => [0x40000140 + d.toNat * 2097152 + a.toNat * 65536 + f.toNat * 16 + bit c]
  | .fneg d a f c => [0x40000180 + d.toNat * 2097152 + a.toNat * 65536 + f.toNat * 16 + bit c]
  | .fsgnj d a b f c => [0x400001C0 + d.toNat * 2097152 + a.toNat * 65536 + b.toNat * 2048 + f.toNat * 16 + bit c]
  | .feq d a b f c => [0x40000200 + d.toNat * 2097152 + a.toNat * 65536 + b.toNat * 2048 + f.toNat * 16 + bit c]
  | .flt d a b f c => [0x40000240 + d.toNat * 2097152 + a.toNat * 65536 + b.toNat * 2048 + f.toNat * 16 + bit c]
  | .fle d a b f c => [0x40000280 + d.toNat * 2097152 + a.toNat * 65536 + b.toNat * 2048 + f.toNat * 16 + bit c]
  | .fclass d a f c => [0x400002C0 + d.toNat * 2097152 + a.toNat * 65536 + f.toNat * 16 + bit c]
  | .frcpe d a f c => [0x40000300 + d.toNat * 2097152 + a.toNat * 65536 + f.toNat * 16 + bit c]
  | .frsqe d a f c => [0x40000340 + d.toNat * 2097152 + a.toNat * 65536 + f.toNat * 16 + bit c]
  | .fmadd d a b f r c => [0x44000000 + d.toNat * 2097152 + a.toNat * 65536 + b.toNat * 2048 + f.toNat * 16 + r.toNat * 2 + bit c]
  | .fmsub d a b f r c => [0x44000040 + d.toNat * 2097152 + a.toNat * 65536 + b.toNat * 2048 + f.toNat * 16 + r.toNat * 2 + bit c]
  | .fnmadd d a b f r c => [0x44000080 + d.toNat * 2097152 + a.toNat * 65536 + b.toNat * 2048 + f.toNat * 16 + r.toNat * 2 + bit c]
  | .fnmsub d a b f r c => [0x440000C0 + d.toNat * 2097152 + a.toNat * 65536 + b.toNat * 2048 + f.toNat * 16 + r.toNat * 2 + bit c]
  | .fcvt d a m r c => [0x48000000 + d.toNat * 2097152 + a.toNat * 65536 + m.toNat * 16 + r.toNat * 2 + bit c]
  | .ld t a seg ord w i c => [0x4C000000 + t.toNat * 2097152 + a.toNat * 65536 + seg.toNat * 8192 + ord.toNat * 2048 + w.toNat * 256 + i.toNat * 2 + bit c]
  | .st t a seg ord w i c => [0x50000000 + t.toNat * 2097152 + a.toNat * 65536 + seg.toNat * 8192 + ord.toNat * 2048 + w.toNat * 256 + i.toNat * 2 + bit c]
  | .amoadd t a seg ord sz b c => [0x54000000 + t.toNat * 2097152 + a.toNat * 65536 + seg.toNat * 8192 + ord.toNat * 2048 + bit sz * 256 + b.toNat * 2 + bit c]
  | .amoswap t a seg ord sz b c => [0x54000040 + t.toNat * 2097152 + a.toNat * 65536 + seg.toNat * 8192 + ord.toNat * 2048 + bit sz * 256 + b.toNat * 2 + bit c]
  | .amocas t a seg ord sz b c => [0x54000080 + t.toNat * 2097152 + a.toNat * 65536 + seg.toNat * 8192 + ord.toNat * 2048 + bit sz * 256 + b.toNat * 2 + bit c]
  | .amoand t a seg ord sz b c => [0x540000C0 + t.toNat * 2097152 + a.toNat * 65536 + seg.toNat * 8192 + ord.toNat * 2048 + bit sz * 256 + b.toNat * 2 + bit c]
  | .amoor t a seg ord sz b c => [0x54000200 + t.toNat * 2097152 + a.toNat * 65536 + seg.toNat * 8192 + ord.toNat * 2048 + bit sz * 256 + b.toNat * 2 + bit c]
  | .amoxor t a seg ord sz b c => [0x54000240 + t.toNat * 2097152 + a.toNat * 65536 + seg.toNat * 8192 + ord.toNat * 2048 + bit sz * 256 + b.toNat * 2 + bit c]
  | .amomin t a seg ord sz b c => [0x54000280 + t.toNat * 2097152 + a.toNat * 65536 + seg.toNat * 8192 + ord.toNat * 2048 + bit sz * 256 + b.toNat * 2 + bit c]
  | .amomax t a seg ord sz b c => [0x540002C0 + t.toNat * 2097152 + a.toNat * 65536 + seg.toNat * 8192 + ord.toNat * 2048 + bit sz * 256 + b.toNat * 2 + bit c]
  | .amominn t a seg ord sz b c => [0x54000400 + t.toNat * 2097152 + a.toNat * 65536 + seg.toNat * 8192 + ord.toNat * 2048 + bit sz * 256 + b.toNat * 2 + bit c]
  | .amomaxn t a seg ord sz b c => [0x54000440 + t.toNat * 2097152 + a.toNat * 65536 + seg.toNat * 8192 + ord.toNat * 2048 + bit sz * 256 + b.toNat * 2 + bit c]
  | .amofadd t a seg ord b c => [0x54000480 + t.toNat * 2097152 + a.toNat * 65536 + seg.toNat * 8192 + ord.toNat * 2048 + b.toNat * 2 + bit c]
  | .fence p k c => [0x58000000 + p.toNat * 8 + k.toNat * 2 + bit c]
  | .pref l a seg i c => [0x58000100 + l.toNat * 2097152 + a.toNat * 65536 + seg.toNat * 8192 + i.toNat * 2 + bit c]
  | .flushl a seg i c => [0x58000200 + a.toNat * 65536 + seg.toNat * 8192 + i.toNat * 2 + bit c]
  | .invl a seg i c => [0x58000300 + a.toNat * 65536 + seg.toNat * 8192 + i.toNat * 2 + bit c]
  | .send a n c => [0x5C000000 + a.toNat * 65536 + n.toNat * 2048 + bit c]
  | .sendv va n c => [0x5C000010 + va.toNat * 65536 + n.toNat * 2048 + bit c]
  | .recv d n c => [0x5C000020 + d.toNat * 2097152 + n.toNat * 2048 + bit c]
  | .recvv vd n c => [0x5C000030 + vd.toNat * 2097152 + n.toNat * 2048 + bit c]
  | .tryrecv d a n c => [0x5C000040 + d.toNat * 2097152 + a.toNat * 65536 + n.toNat * 2048 + bit c]
  | .chstatIn d n c => [0x5C000050 + d.toNat * 2097152 + n.toNat * 2048 + bit c]
  | .chstatOut d n c => [0x5C000052 + d.toNat * 2097152 + n.toNat * 2048 + bit c]
  | .barArrive d n s c => [0x60000000 + d.toNat * 2097152 + n.toNat * 2048 + s.toNat * 2 + bit c]
  | .barWait d a n s c => [0x60000010 + d.toNat * 2097152 + a.toNat * 65536 + n.toNat * 2048 + s.toNat * 2 + bit c]
  | .barSync d n s c => [0x60000020 + d.toNat * 2097152 + n.toNat * 2048 + s.toNat * 2 + bit c]
  | .barStat d n c => [0x60000030 + d.toNat * 2097152 + n.toNat * 2048 + bit c]
  | .inboxWait d c => [0x64000000 + d.toNat * 2097152 + bit c]
  | .inboxPoll d c => [0x64000010 + d.toNat * 2097152 + bit c]
  | .cpy d a b tag expl eng sseg dseg c => [0x68000000 + d.toNat * 2097152 + a.toNat * 65536 + b.toNat * 2048 + bit c, tag.toNat * 65536 + bit expl * 32768 + eng.toNat * 1024 + sseg.toNat * 8 + dseg.toNat]
  | .cpy2d d a b tag expl eng sseg dseg c => [0x68000010 + d.toNat * 2097152 + a.toNat * 65536 + b.toNat * 2048 + bit c, tag.toNat * 65536 + bit expl * 32768 + eng.toNat * 1024 + sseg.toNat * 8 + dseg.toNat]
  | .cpyg d a b tag expl eng e sseg dseg c => [0x68000020 + d.toNat * 2097152 + a.toNat * 65536 + b.toNat * 2048 + bit c, tag.toNat * 65536 + bit expl * 32768 + eng.toNat * 1024 + e.toNat * 64 + sseg.toNat * 8 + dseg.toNat]
  | .cpys d a b tag expl eng e sseg dseg c => [0x68000030 + d.toNat * 2097152 + a.toNat * 65536 + b.toNat * 2048 + bit c, tag.toNat * 65536 + bit expl * 32768 + eng.toNat * 1024 + e.toNat * 64 + sseg.toNat * 8 + dseg.toNat]
  | .cpyred d a b tag expl eng ty sseg dseg c => [0x68000040 + d.toNat * 2097152 + a.toNat * 65536 + b.toNat * 2048 + bit c, tag.toNat * 65536 + bit expl * 32768 + eng.toNat * 1024 + ty.toNat * 64 + sseg.toNat * 8 + dseg.toNat]
  | .cpyring d a b tag expl eng sseg dseg c => [0x68000050 + d.toNat * 2097152 + a.toNat * 65536 + b.toNat * 2048 + bit c, tag.toNat * 65536 + bit expl * 32768 + eng.toNat * 1024 + sseg.toNat * 8 + dseg.toNat]
  | .cpyfill d a b tag expl eng lg dseg c => [0x68000060 + d.toNat * 2097152 + a.toNat * 65536 + b.toNat * 2048 + bit c, tag.toNat * 65536 + bit expl * 32768 + eng.toNat * 1024 + lg.toNat * 64 + dseg.toNat]
  | .cpyrem d a b tag expl eng get sseg dseg c => [0x68000070 + d.toNat * 2097152 + a.toNat * 65536 + b.toNat * 2048 + bit c, tag.toNat * 65536 + bit expl * 32768 + eng.toNat * 1024 + bit get * 64 + sseg.toNat * 8 + dseg.toNat]
  | .tspawn d a b n entry c => [0x6C000000 + d.toNat * 2097152 + a.toNat * 65536 + b.toNat * 2048 + n.toNat * 2 + bit c, entry.toNat]
  | .tdone c => [0x6C000010 + bit c, 0]
  | .ttsPoll d a c => [0x6C000020 + d.toNat * 2097152 + a.toNat * 65536 + bit c, 0]
  | .ttsWait a c => [0x6C000022 + a.toNat * 65536 + bit c, 0]
  | .tkey d which c => [0x6C000030 + d.toNat * 2097152 + bit c, which.toNat]
  | .tirrev c => [0x6C000040 + bit c, 0]
  | .vadd vd va b bs k w z c => [0x80000000 + vd.toNat * 4194304 + va.toNat * 262144 + b.toNat * 8192 + bit bs * 4096 + k.toNat * 512 + w.toNat * 4 + bit z * 2 + bit c]
  | .vsub vd va b bs k w z c => [0x80000010 + vd.toNat * 4194304 + va.toNat * 262144 + b.toNat * 8192 + bit bs * 4096 + k.toNat * 512 + w.toNat * 4 + bit z * 2 + bit c]
  | .vmul vd va b bs k w z c => [0x80000020 + vd.toNat * 4194304 + va.toNat * 262144 + b.toNat * 8192 + bit bs * 4096 + k.toNat * 512 + w.toNat * 4 + bit z * 2 + bit c]
  | .vaddsI vd va b bs k w z c => [0x80000030 + vd.toNat * 4194304 + va.toNat * 262144 + b.toNat * 8192 + bit bs * 4096 + k.toNat * 512 + w.toNat * 4 + bit z * 2 + bit c]
  | .vaddsN vd va b bs k w z c => [0x80000040 + vd.toNat * 4194304 + va.toNat * 262144 + b.toNat * 8192 + bit bs * 4096 + k.toNat * 512 + w.toNat * 4 + bit z * 2 + bit c]
  | .vsubsI vd va b bs k w z c => [0x80000050 + vd.toNat * 4194304 + va.toNat * 262144 + b.toNat * 8192 + bit bs * 4096 + k.toNat * 512 + w.toNat * 4 + bit z * 2 + bit c]
  | .vsubsN vd va b bs k w z c => [0x80000060 + vd.toNat * 4194304 + va.toNat * 262144 + b.toNat * 8192 + bit bs * 4096 + k.toNat * 512 + w.toNat * 4 + bit z * 2 + bit c]
  | .vminI vd va b bs k w z c => [0x80000070 + vd.toNat * 4194304 + va.toNat * 262144 + b.toNat * 8192 + bit bs * 4096 + k.toNat * 512 + w.toNat * 4 + bit z * 2 + bit c]
  | .vminN vd va b bs k w z c => [0x80000080 + vd.toNat * 4194304 + va.toNat * 262144 + b.toNat * 8192 + bit bs * 4096 + k.toNat * 512 + w.toNat * 4 + bit z * 2 + bit c]
  | .vmaxI vd va b bs k w z c => [0x80000090 + vd.toNat * 4194304 + va.toNat * 262144 + b.toNat * 8192 + bit bs * 4096 + k.toNat * 512 + w.toNat * 4 + bit z * 2 + bit c]
  | .vmaxN vd va b bs k w z c => [0x800000A0 + vd.toNat * 4194304 + va.toNat * 262144 + b.toNat * 8192 + bit bs * 4096 + k.toNat * 512 + w.toNat * 4 + bit z * 2 + bit c]
  | .vand vd va b bs k w z c => [0x800000B0 + vd.toNat * 4194304 + va.toNat * 262144 + b.toNat * 8192 + bit bs * 4096 + k.toNat * 512 + w.toNat * 4 + bit z * 2 + bit c]
  | .vor vd va b bs k w z c => [0x800000C0 + vd.toNat * 4194304 + va.toNat * 262144 + b.toNat * 8192 + bit bs * 4096 + k.toNat * 512 + w.toNat * 4 + bit z * 2 + bit c]
  | .vxor vd va b bs k w z c => [0x800000D0 + vd.toNat * 4194304 + va.toNat * 262144 + b.toNat * 8192 + bit bs * 4096 + k.toNat * 512 + w.toNat * 4 + bit z * 2 + bit c]
  | .vandn vd va b bs k w z c => [0x800000E0 + vd.toNat * 4194304 + va.toNat * 262144 + b.toNat * 8192 + bit bs * 4096 + k.toNat * 512 + w.toNat * 4 + bit z * 2 + bit c]
  | .vsll vd va b bs k w z c => [0x800000F0 + vd.toNat * 4194304 + va.toNat * 262144 + b.toNat * 8192 + bit bs * 4096 + k.toNat * 512 + w.toNat * 4 + bit z * 2 + bit c]
  | .vsrl vd va b bs k w z c => [0x80000100 + vd.toNat * 4194304 + va.toNat * 262144 + b.toNat * 8192 + bit bs * 4096 + k.toNat * 512 + w.toNat * 4 + bit z * 2 + bit c]
  | .vsra vd va b bs k w z c => [0x80000110 + vd.toNat * 4194304 + va.toNat * 262144 + b.toNat * 8192 + bit bs * 4096 + k.toNat * 512 + w.toNat * 4 + bit z * 2 + bit c]
  | .vcmpeqB32 kd va b bs k z c => [0x80000128 + kd.toNat * 4194304 + va.toNat * 262144 + b.toNat * 8192 + bit bs * 4096 + k.toNat * 512 + bit z * 2 + bit c]
  | .vcmpltI32 kd va b bs k z c => [0x80000138 + kd.toNat * 4194304 + va.toNat * 262144 + b.toNat * 8192 + bit bs * 4096 + k.toNat * 512 + bit z * 2 + bit c]
  | .vcmpltN32 kd va b bs k z c => [0x80000148 + kd.toNat * 4194304 + va.toNat * 262144 + b.toNat * 8192 + bit bs * 4096 + k.toNat * 512 + bit z * 2 + bit c]
  | .vabss vd va k w z c => [0x80000150 + vd.toNat * 4194304 + va.toNat * 262144 + k.toNat * 512 + w.toNat * 4 + bit z * 2 + bit c]
  | .vaddFp vd va b bs k f z c => [0x84000000 + vd.toNat * 4194304 + va.toNat * 262144 + b.toNat * 8192 + bit bs * 4096 + k.toNat * 512 + f.toNat * 4 + bit z * 2 + bit c]
  | .vsubFp vd va b bs k f z c => [0x84000010 + vd.toNat * 4194304 + va.toNat * 262144 + b.toNat * 8192 + bit bs * 4096 + k.toNat * 512 + f.toNat * 4 + bit z * 2 + bit c]
  | .vmulFp vd va b bs k f z c => [0x84000020 + vd.toNat * 4194304 + va.toNat * 262144 + b.toNat * 8192 + bit bs * 4096 + k.toNat * 512 + f.toNat * 4 + bit z * 2 + bit c]
  | .vminFp vd va b bs k f z c => [0x84000030 + vd.toNat * 4194304 + va.toNat * 262144 + b.toNat * 8192 + bit bs * 4096 + k.toNat * 512 + f.toNat * 4 + bit z * 2 + bit c]
  | .vmaxFp vd va b bs k f z c => [0x84000040 + vd.toNat * 4194304 + va.toNat * 262144 + b.toNat * 8192 + bit bs * 4096 + k.toNat * 512 + f.toNat * 4 + bit z * 2 + bit c]
  | .vabs vd va k f z c => [0x84000050 + vd.toNat * 4194304 + va.toNat * 262144 + k.toNat * 512 + f.toNat * 4 + bit z * 2 + bit c]
  | .vneg vd va k f z c => [0x84000060 + vd.toNat * 4194304 + va.toNat * 262144 + k.toNat * 512 + f.toNat * 4 + bit z * 2 + bit c]
  | .vsgnj vd va b bs k f z c => [0x84000070 + vd.toNat * 4194304 + va.toNat * 262144 + b.toNat * 8192 + bit bs * 4096 + k.toNat * 512 + f.toNat * 4 + bit z * 2 + bit c]
  | .vcmpeqS kd va b bs k z c => [0x84000080 + kd.toNat * 4194304 + va.toNat * 262144 + b.toNat * 8192 + bit bs * 4096 + k.toNat * 512 + bit z * 2 + bit c]
  | .vcmpltS kd va b bs k z c => [0x84000090 + kd.toNat * 4194304 + va.toNat * 262144 + b.toNat * 8192 + bit bs * 4096 + k.toNat * 512 + bit z * 2 + bit c]
  | .vcmpleS kd va b bs k z c => [0x840000A0 + kd.toNat * 4194304 + va.toNat * 262144 + b.toNat * 8192 + bit bs * 4096 + k.toNat * 512 + bit z * 2 + bit c]
  | .vmadd vd va b bs k f z c => [0x88000000 + vd.toNat * 4194304 + va.toNat * 262144 + b.toNat * 8192 + bit bs * 4096 + k.toNat * 512 + f.toNat * 4 + bit z * 2 + bit c]
  | .vmsub vd va b bs k f z c => [0x88000010 + vd.toNat * 4194304 + va.toNat * 262144 + b.toNat * 8192 + bit bs * 4096 + k.toNat * 512 + f.toNat * 4 + bit z * 2 + bit c]
  | .vnmadd vd va b bs k f z c => [0x88000020 + vd.toNat * 4194304 + va.toNat * 262144 + b.toNat * 8192 + bit bs * 4096 + k.toNat * 512 + f.toNat * 4 + bit z * 2 + bit c]
  | .vnmsub vd va b bs k f z c => [0x88000030 + vd.toNat * 4194304 + va.toNat * 262144 + b.toNat * 8192 + bit bs * 4096 + k.toNat * 512 + f.toNat * 4 + bit z * 2 + bit c]
  | .vcvt vd va p k m z c => [0x8C000000 + vd.toNat * 4194304 + va.toNat * 262144 + p.toNat * 8192 + k.toNat * 512 + m.toNat * 4 + bit z * 2 + bit c]
  | .vmov vd va k z c => [0x90000000 + vd.toNat * 4194304 + va.toNat * 262144 + k.toNat * 512 + bit z * 2 + bit c]
  | .vbcast vd b k z c => [0x90001004 + vd.toNat * 4194304 + b.toNat * 8192 + k.toNat * 512 + bit z * 2 + bit c]
  | .vshuf vd va b bs k z c => [0x90000008 + vd.toNat * 4194304 + va.toNat * 262144 + b.toNat * 8192 + bit bs * 4096 + k.toNat * 512 + bit z * 2 + bit c]
  | .vslide vd va b k z c => [0x9000100C + vd.toNat * 4194304 + va.toNat * 262144 + b.toNat * 8192 + k.toNat * 512 + bit z * 2 + bit c]
  | .vcompress vd va k z c => [0x90000010 + vd.toNat * 4194304 + va.toNat * 262144 + k.toNat * 512 + bit z * 2 + bit c]
  | .vexpand vd va k z c => [0x90000014 + vd.toNat * 4194304 + va.toNat * 262144 + k.toNat * 512 + bit z * 2 + bit c]
  | .vextr l va d c => [0x90001018 + l.toNat * 4194304 + va.toNat * 262144 + d.toNat * 8192 + bit c]
  | .vins vd l b c => [0x9000101C + vd.toNat * 4194304 + l.toNat * 262144 + b.toNat * 8192 + bit c]
  | .vredaddI32 va d k c => [0x94001000 + va.toNat * 262144 + d.toNat * 8192 + k.toNat * 512 + bit c]
  | .vredaddN32 va d k c => [0x94001004 + va.toNat * 262144 + d.toNat * 8192 + k.toNat * 512 + bit c]
  | .vredmaxI32 va d k c => [0x94001008 + va.toNat * 262144 + d.toNat * 8192 + k.toNat * 512 + bit c]
  | .vredmaxN32 va d k c => [0x9400100C + va.toNat * 262144 + d.toNat * 8192 + k.toNat * 512 + bit c]
  | .vredminI32 va d k c => [0x94001010 + va.toNat * 262144 + d.toNat * 8192 + k.toNat * 512 + bit c]
  | .vredminN32 va d k c => [0x94001014 + va.toNat * 262144 + d.toNat * 8192 + k.toNat * 512 + bit c]
  | .vredfadd va d k c => [0x94001018 + va.toNat * 262144 + d.toNat * 8192 + k.toNat * 512 + bit c]
  | .vredmaxS va d k c => [0x9400101C + va.toNat * 262144 + d.toNat * 8192 + k.toNat * 512 + bit c]
  | .vredminS va d k c => [0x94001020 + va.toNat * 262144 + d.toNat * 8192 + k.toNat * 512 + bit c]
  | .vdot4I8 vd va b bs k z c => [0x98000000 + vd.toNat * 4194304 + va.toNat * 262144 + b.toNat * 8192 + bit bs * 4096 + k.toNat * 512 + bit z * 2 + bit c]
  | .vdot4N8 vd va b bs k z c => [0x98000004 + vd.toNat * 4194304 + va.toNat * 262144 + b.toNat * 8192 + bit bs * 4096 + k.toNat * 512 + bit z * 2 + bit c]
  | .vdot2hH vd va b bs k z c => [0x98000008 + vd.toNat * 4194304 + va.toNat * 262144 + b.toNat * 8192 + bit bs * 4096 + k.toNat * 512 + bit z * 2 + bit c]
  | .vdot2hBf vd va b bs k z c => [0x9800000C + vd.toNat * 4194304 + va.toNat * 262144 + b.toNat * 8192 + bit bs * 4096 + k.toNat * 512 + bit z * 2 + bit c]
  | .vunpk3 vd va k z c => [0x98000010 + vd.toNat * 4194304 + va.toNat * 262144 + k.toNat * 512 + bit z * 2 + bit c]
  | .vdott vd va b k z c => [0x98000014 + vd.toNat * 4194304 + va.toNat * 262144 + b.toNat * 8192 + k.toNat * 512 + bit z * 2 + bit c]
  | .vdecq vd va b k z c => [0x98001018 + vd.toNat * 4194304 + va.toNat * 262144 + b.toNat * 8192 + k.toNat * 512 + bit z * 2 + bit c]
  | .vdotq vd a b c => [0x9800001C + vd.toNat * 4194304 + a.toNat * 524288 + b.toNat * 16384 + bit c]
  | .kand kd ka kb c => [0x9C000000 + kd.toNat * 4194304 + ka.toNat * 262144 + kb.toNat * 8192 + bit c]
  | .kor kd ka kb c => [0x9C000004 + kd.toNat * 4194304 + ka.toNat * 262144 + kb.toNat * 8192 + bit c]
  | .kxor kd ka kb c => [0x9C000008 + kd.toNat * 4194304 + ka.toNat * 262144 + kb.toNat * 8192 + bit c]
  | .kandn kd ka kb c => [0x9C00000C + kd.toNat * 4194304 + ka.toNat * 262144 + kb.toNat * 8192 + bit c]
  | .knot kd ka c => [0x9C000010 + kd.toNat * 4194304 + ka.toNat * 262144 + bit c]
  | .kpopc ka d c => [0x9C001014 + ka.toNat * 262144 + d.toNat * 8192 + bit c]
  | .kfirst ka d c => [0x9C001018 + ka.toNat * 262144 + d.toNat * 8192 + bit c]
  | .kset kd b c => [0x9C00101C + kd.toNat * 4194304 + b.toNat * 8192 + bit c]
  | .kget ka d c => [0x9C001020 + ka.toNat * 262144 + d.toNat * 8192 + bit c]
  | .vld vt a x seg k ord c => [0xA0000000 + vt.toNat * 4194304 + a.toNat * 131072 + x.toNat * 4096 + seg.toNat * 512 + k.toNat * 64 + ord.toNat * 16 + bit c]
  | .vst vt a x seg k ord c => [0xA0000002 + vt.toNat * 4194304 + a.toNat * 131072 + x.toNat * 4096 + seg.toNat * 512 + k.toNat * 64 + ord.toNat * 16 + bit c]
  | .vlds vt a x seg k ord c => [0xA0000004 + vt.toNat * 4194304 + a.toNat * 131072 + x.toNat * 4096 + seg.toNat * 512 + k.toNat * 64 + ord.toNat * 16 + bit c]
  | .vsts vt a x seg k ord c => [0xA0000006 + vt.toNat * 4194304 + a.toNat * 131072 + x.toNat * 4096 + seg.toNat * 512 + k.toNat * 64 + ord.toNat * 16 + bit c]
  | .vgather vt a x seg k ord c => [0xA0000008 + vt.toNat * 4194304 + a.toNat * 131072 + x.toNat * 4096 + seg.toNat * 512 + k.toNat * 64 + ord.toNat * 16 + bit c]
  | .vscatter vt a x seg k ord c => [0xA000000A + vt.toNat * 4194304 + a.toNat * 131072 + x.toNat * 4096 + seg.toNat * 512 + k.toNat * 64 + ord.toNat * 16 + bit c]
  | .dadd d a b r c => [0xC0000000 + d.toNat * 2097152 + a.toNat * 65536 + b.toNat * 2048 + r.toNat * 2 + bit c]
  | .dsub d a b r c => [0xC0000010 + d.toNat * 2097152 + a.toNat * 65536 + b.toNat * 2048 + r.toNat * 2 + bit c]
  | .dmul d a b r c => [0xC0000020 + d.toNat * 2097152 + a.toNat * 65536 + b.toNat * 2048 + r.toNat * 2 + bit c]
  | .ddiv d a b r c => [0xC0000030 + d.toNat * 2097152 + a.toNat * 65536 + b.toNat * 2048 + r.toNat * 2 + bit c]
  | .dsqrt d a r c => [0xC0000040 + d.toNat * 2097152 + a.toNat * 65536 + r.toNat * 2 + bit c]
  | .dfma d a b r c => [0xC0000050 + d.toNat * 2097152 + a.toNat * 65536 + b.toNat * 2048 + r.toNat * 2 + bit c]
  | .dmin d a b c => [0xC0000060 + d.toNat * 2097152 + a.toNat * 65536 + b.toNat * 2048 + bit c]
  | .dmax d a b c => [0xC0000070 + d.toNat * 2097152 + a.toNat * 65536 + b.toNat * 2048 + bit c]
  | .dcmpEq d a b c => [0xC0000080 + d.toNat * 2097152 + a.toNat * 65536 + b.toNat * 2048 + bit c]
  | .dcmpLt d a b c => [0xC0000090 + d.toNat * 2097152 + a.toNat * 65536 + b.toNat * 2048 + bit c]
  | .dcmpLe d a b c => [0xC00000A0 + d.toNat * 2097152 + a.toNat * 65536 + b.toNat * 2048 + bit c]
  | .dclass d a c => [0xC00000B0 + d.toNat * 2097152 + a.toNat * 65536 + bit c]
  | .fdiv d a b r c => [0xC0000100 + d.toNat * 2097152 + a.toNat * 65536 + b.toNat * 2048 + r.toNat * 2 + bit c]
  | .fsqrt d a r c => [0xC0000110 + d.toNat * 2097152 + a.toNat * 65536 + r.toNat * 2 + bit c]
  | .dcvt d a m r c => [0xC0000200 + d.toNat * 2097152 + a.toNat * 65536 + m.toNat * 16 + r.toNat * 2 + bit c]
  | .fexp2 d a c => [0xC4000000 + d.toNat * 2097152 + a.toNat * 65536 + bit c]
  | .flog2 d a c => [0xC4000010 + d.toNat * 2097152 + a.toNat * 65536 + bit c]
  | .fsin d a c => [0xC4000020 + d.toNat * 2097152 + a.toNat * 65536 + bit c]
  | .fcos d a c => [0xC4000030 + d.toNat * 2097152 + a.toNat * 65536 + bit c]
  | .ftanh d a c => [0xC4000040 + d.toNat * 2097152 + a.toNat * 65536 + bit c]
  | .fsigm d a c => [0xC4000050 + d.toNat * 2097152 + a.toNat * 65536 + bit c]
  | .frcp d a c => [0xC4000060 + d.toNat * 2097152 + a.toNat * 65536 + bit c]
  | .frsqrt d a c => [0xC4000070 + d.toNat * 2097152 + a.toNat * 65536 + bit c]
  | .vdadd vd va b bs k z c => [0xC8000000 + vd.toNat * 4194304 + va.toNat * 262144 + b.toNat * 8192 + bit bs * 4096 + k.toNat * 512 + bit z * 2 + bit c]
  | .vdsub vd va b bs k z c => [0xC8000004 + vd.toNat * 4194304 + va.toNat * 262144 + b.toNat * 8192 + bit bs * 4096 + k.toNat * 512 + bit z * 2 + bit c]
  | .vdmul vd va b bs k z c => [0xC8000008 + vd.toNat * 4194304 + va.toNat * 262144 + b.toNat * 8192 + bit bs * 4096 + k.toNat * 512 + bit z * 2 + bit c]
  | .vddiv vd va b bs k z c => [0xC800000C + vd.toNat * 4194304 + va.toNat * 262144 + b.toNat * 8192 + bit bs * 4096 + k.toNat * 512 + bit z * 2 + bit c]
  | .vdsqrt vd va k z c => [0xC8000010 + vd.toNat * 4194304 + va.toNat * 262144 + k.toNat * 512 + bit z * 2 + bit c]
  | .vdfma vd va b k z c => [0xC8001014 + vd.toNat * 4194304 + va.toNat * 262144 + b.toNat * 8192 + k.toNat * 512 + bit z * 2 + bit c]
  | .vdmin vd va b bs k z c => [0xC8000018 + vd.toNat * 4194304 + va.toNat * 262144 + b.toNat * 8192 + bit bs * 4096 + k.toNat * 512 + bit z * 2 + bit c]
  | .vdmax vd va b bs k z c => [0xC800001C + vd.toNat * 4194304 + va.toNat * 262144 + b.toNat * 8192 + bit bs * 4096 + k.toNat * 512 + bit z * 2 + bit c]
  | .vdcvtDS vd va p k z c => [0xC8000020 + vd.toNat * 4194304 + va.toNat * 262144 + bit p * 8192 + k.toNat * 512 + bit z * 2 + bit c]
  | .vdcvtSD vd va p k z c => [0xC8000024 + vd.toNat * 4194304 + va.toNat * 262144 + bit p * 8192 + k.toNat * 512 + bit z * 2 + bit c]
  | .vfdiv vd va b bs k z c => [0xC8000040 + vd.toNat * 4194304 + va.toNat * 262144 + b.toNat * 8192 + bit bs * 4096 + k.toNat * 512 + bit z * 2 + bit c]
  | .vfsqrt vd va k z c => [0xC8000044 + vd.toNat * 4194304 + va.toNat * 262144 + k.toNat * 512 + bit z * 2 + bit c]
  | .vfexp2 vd va k z c => [0xC8000048 + vd.toNat * 4194304 + va.toNat * 262144 + k.toNat * 512 + bit z * 2 + bit c]
  | .vflog2 vd va k z c => [0xC800004C + vd.toNat * 4194304 + va.toNat * 262144 + k.toNat * 512 + bit z * 2 + bit c]
  | .vfsin vd va k z c => [0xC8000050 + vd.toNat * 4194304 + va.toNat * 262144 + k.toNat * 512 + bit z * 2 + bit c]
  | .vfcos vd va k z c => [0xC8000054 + vd.toNat * 4194304 + va.toNat * 262144 + k.toNat * 512 + bit z * 2 + bit c]
  | .vftanh vd va k z c => [0xC8000058 + vd.toNat * 4194304 + va.toNat * 262144 + k.toNat * 512 + bit z * 2 + bit c]
  | .vfsigm vd va k z c => [0xC800005C + vd.toNat * 4194304 + va.toNat * 262144 + k.toNat * 512 + bit z * 2 + bit c]
  | .vfrcp vd va k z c => [0xC8000060 + vd.toNat * 4194304 + va.toNat * 262144 + k.toNat * 512 + bit z * 2 + bit c]
  | .vfrsqrt vd va k z c => [0xC8000064 + vd.toNat * 4194304 + va.toNat * 262144 + k.toNat * 512 + bit z * 2 + bit c]
  | .wcas128 t a seg ord b c => [0xCC000000 + t.toNat * 2097152 + a.toNat * 65536 + seg.toNat * 8192 + ord.toNat * 2048 + b.toNat * 2 + bit c]
  | .wswap128 t a seg ord b c => [0xCC000100 + t.toNat * 2097152 + a.toNat * 65536 + seg.toNat * 8192 + ord.toNat * 2048 + b.toNat * 2 + bit c]
  | .wamofadd t a seg ord b c => [0xCC000200 + t.toNat * 2097152 + a.toNat * 65536 + seg.toNat * 8192 + ord.toNat * 2048 + b.toNat * 2 + bit c]
  | .wamomin t a seg ord b c => [0xCC000300 + t.toNat * 2097152 + a.toNat * 65536 + seg.toNat * 8192 + ord.toNat * 2048 + b.toNat * 2 + bit c]
  | .wamomax t a seg ord b c => [0xCC000400 + t.toNat * 2097152 + a.toNat * 65536 + seg.toNat * 8192 + ord.toNat * 2048 + b.toNat * 2 + bit c]
  | .mma d a b fmt zero keepa keepb c => [0xD0000000 + d.toNat * 2097152 + a.toNat * 65536 + b.toNat * 2048 + fmt.toNat * 16 + bit c, bit zero * 32 + bit keepa * 64 + bit keepb * 128]
  | .mmag d a b fmt n r zero keepa c => [0xD0000100 + d.toNat * 2097152 + a.toNat * 65536 + b.toNat * 2048 + fmt.toNat * 16 + n.toNat * 2 + bit c, r.toNat + bit zero * 32 + bit keepa * 64]
  | .mzero d c => [0xD0000200 + d.toNat * 2097152 + bit c, 0]
  | .maccst d a b n tag fmt c => [0xD0000210 + d.toNat * 2097152 + a.toNat * 65536 + b.toNat * 2048 + n.toNat * 2 + bit c, tag.toNat + fmt.toNat * 65536]
  | .maccld d a b n fmt c => [0xD0000220 + d.toNat * 2097152 + a.toNat * 65536 + b.toNat * 2048 + n.toNat * 2 + bit c, fmt.toNat * 65536]
  | .mringcfgSet a b c => [0xD0000230 + a.toNat * 65536 + b.toNat * 2048 + bit c, 0]
  | .mringcfgPub a b c => [0xD0000232 + a.toNat * 65536 + b.toNat * 2048 + bit c, 0]
  | .mringcfgGet d a c => [0xD0000234 + d.toNat * 2097152 + a.toNat * 65536 + bit c, 0]
  | .mstat d a c => [0xD0000240 + d.toNat * 2097152 + a.toNat * 65536 + bit c, 0]
  | .mwait n c => [0xD0000250 + bit c, n.toNat]
  | .setseg a b n c => [0xE0000000 + a.toNat * 65536 + b.toNat * 2048 + n.toNat * 2 + bit c]
  | .getseg d w n c => [0xE0000010 + d.toNat * 2097152 + bit w * 2048 + n.toNat * 2 + bit c]
  | .tlbinvPage a b c => [0xE0000020 + a.toNat * 65536 + b.toNat * 2048 + bit c]
  | .tlbinvSpace b c => [0xE0000022 + b.toNat * 2048 + bit c]
  | .tlbinvAll c => [0xE0000024 + bit c]
  | .park d a c => [0xE0000030 + d.toNat * 2097152 + a.toNat * 65536 + bit c]
  | .wake a c => [0xE0000040 + a.toNat * 65536 + bit c]
  | .wakeStrand a c => [0xE0000042 + a.toNat * 65536 + bit c]
  | .ctxsave d a b n c => [0xE0000050 + d.toNat * 2097152 + a.toNat * 65536 + b.toNat * 2048 + n.toNat * 2 + bit c]
  | .ctxload d a b n c => [0xE0000060 + d.toNat * 2097152 + a.toNat * 65536 + b.toNat * 2048 + n.toNat * 2 + bit c]
  | .slotswap d a b c => [0xE0000070 + d.toNat * 2097152 + a.toNat * 65536 + b.toNat * 2048 + bit c]
  | .slotctl d a b c => [0xE0000080 + d.toNat * 2097152 + a.toNat * 65536 + b.toNat * 2048 + bit c]
  | .halt c => [0xE0000090 + bit c]
  | .trap n c => [0xE4000000 + n.toNat * 2 + bit c]
  | .brk n c => [0xE4002000 + n.toNat * 2 + bit c]
  | .tret c => [0xE4004000 + bit c]
  | .codesync a b n c => [0xE8000000 + a.toNat * 65536 + b.toNat * 2048 + n.toNat * 2 + bit c]
  | .xlatinvRange a b c => [0xE8000010 + a.toNat * 65536 + b.toNat * 2048 + bit c]
  | .xlatinvAll c => [0xE8000012 + bit c]
  | .xlatpre a c => [0xE8000020 + a.toNat * 65536 + bit c]
  | .qwait d c => [0xEC000000 + d.toNat * 2097152 + bit c]
  | .qpop d c => [0xEC000010 + d.toNat * 2097152 + bit c]
  | .qpush d a c => [0xEC000020 + d.toNat * 2097152 + a.toNat * 65536 + bit c]
  | .qsignal d a b notify c => [0xEC000030 + d.toNat * 2097152 + a.toNat * 65536 + b.toNat * 2048 + bit notify * 4 + bit c]
  | .qsignalAdd d a b notify c => [0xEC000032 + d.toNat * 2097152 + a.toNat * 65536 + b.toNat * 2048 + bit notify * 4 + bit c]
  | .launch d a c => [0xEC000040 + d.toNat * 2097152 + a.toNat * 65536 + bit c]
  | .launchTry d a c => [0xEC000042 + d.toNat * 2097152 + a.toNat * 65536 + bit c]
  | .wqmap d c => [0xEC000050 + d.toNat * 2097152 + bit c]
  | .wqmapQ d a c => [0xEC000052 + d.toNat * 2097152 + a.toNat * 65536 + bit c]
  | .wqunmap d c => [0xEC000060 + d.toNat * 2097152 + bit c]
  | .rankset d a c => [0xEC000070 + d.toNat * 2097152 + a.toNat * 65536 + bit c]
  | .wpset d a b n c => [0xF0000000 + d.toNat * 2097152 + a.toNat * 65536 + b.toNat * 2048 + n.toNat * 2 + bit c]
  | .wpsetPhys d a b c => [0xF0000010 + d.toNat * 2097152 + a.toNat * 65536 + b.toNat * 2048 + bit c]
  | .wpclr d a c => [0xF0000020 + d.toNat * 2097152 + a.toNat * 65536 + bit c]
  | .tracemark a t c => [0xF0000030 + a.toNat * 65536 + t.toNat * 2048 + bit c]

/-- The first word of an instruction, and its second word or 0: what TRAPADDR holds on ILLEGAL and PRIVILEGED (R42). -/
def encodedWords (i : Instr) : Nat :=
  match encode i with
  | [] => 0
  | [w] => w
  | w :: w1 :: _ => w + w1 * 2 ^ 32

/-- A row of the table that is an event, not an instruction: it has no words. -/
def Instr.isEvent (i : Instr) : Bool := (encode i).isEmpty

/-- What the decoder finds at the head of a list of bytes. -/
inductive Decoded where
  /-- an instruction of `words` words -/
  | instr (i : Instr) (words : Nat)
  /-- no assigned instruction: executing it raises ILLEGAL (R40) -/
  | illegal (w w1 : Nat) (words : Nat)
  /-- the bytes end inside the instruction -/
  | truncated
deriving DecidableEq, Repr

/-- The decoder on bytes in memory order: the first word gives the length (R29). -/
noncomputable def decodeBytes (bs : List Byte) : Decoded :=
  if bs.length < 4 then .truncated
  else
    let w := bytesNat bs 0 4
    let n := wordCount w
    if bs.length < 4 * n then .truncated
    else
      let w1 := if n = 2 then bytesNat bs 4 4 else 0
      match decode w w1 with
      | some i => .instr i n
      | none => .illegal w w1 n

/-- What the decoder reads from an instruction whose bits are `w`, numbered as the opcode table numbers
them: the low word is the first; bits above `nbits` are zero. -/
noncomputable def decodeTableWord (nbits w : Nat) : Option Instr :=
  match decodeBytes (natBytes 8 (w % 2 ^ nbits)) with
  | .instr i _ => some i
  | .illegal _ _ _ => none
  | .truncated => none

end Sys2Proof
end

