-- ==== Sys2Proof/Config.lean ====
section
/-! DEFINITION. What an implementation fixes, and the free values of what the spec leaves open: constants without
a body, so that nothing can be proved about their value. -/

namespace Sys2Proof

/-- A firmware image: what a flash slot holds as the module is made, or the bytes that an update or an upload has written (R387 to R389). -/
inductive Image where
  | factory (slotB : Bool)
  | written (bytes : List Byte)
deriving DecidableEq, Repr

/-- The signature of an image verifies against the public key in boot ROM (R28, R387). -/
opaque Config.imageSigned : Image → Bool
/-- The security version of an image, and the fused minimum (R387). -/
opaque Config.imageVersion : Image → Nat
opaque Config.minVersion : Nat
/-- XREV.TTED: the translation-table edition of an image's template table (R74, R324). -/
opaque Config.imageTted : Image → BitVec 16
/-- The SHAKE256 digests of an image and of the configuration record, 32 bytes each (R383). -/
opaque Config.imageDigest : Image → Nat → Byte
opaque Config.recordDigest : Nat → Byte
/-- The first 64 bytes of the SHAKE256 output over some bytes (R390). -/
opaque Config.shake256 : List Byte → Nat → Byte
/-- The signature of a system object verifies against a key in the image (R56). -/
opaque Config.objectSigned : Image → List Byte → Bool
/-- The word of an image's stage-manager code at an offset of the 256 KiB instruction memory of a die (R347). -/
opaque Config.smWord : Image → Nat → Nat → BitVec 32
/-- A copy of the repair map verifies (R392). -/
opaque Config.mapSigned : List WearUnit → Bool
/-- The corrected errors of a unit in 2^40 cycles above which its wear monitor trips (R392). -/
opaque Config.wearLimit : Nat
/-- MIDENT: the digest of the module's public key; MMODID of the configuration record (R382). -/
opaque Config.identByte : Nat → Byte
opaque Config.moduleId : BitVec 16
/-- A byte that the spec leaves undefined (R7, R205, R280, R283), by the model's counter of free values. -/
opaque Config.freeByte : Nat → Byte
/-- A 64-bit value that the spec does not state, by the model's counter of free values. -/
opaque Config.freeWord : Nat → Word
/-- A choice that the spec leaves to the device, by the model's counter of free values. -/
opaque Config.freeBool : Nat → Bool

/-- PLIMIT of the signed configuration record, in milliwatts: at most 4,200 W (R27, R393). -/
opaque Config.plimit : Fin 4200001
/-- The hot and cool thresholds of lean cores that the configuration record sets, if it does, in units of 0.125 °C (R351). -/
opaque Config.hotSet : Option Nat
opaque Config.coolSet : Option Nat
/-- The hot and cool thresholds of lean cores: 95 °C and 85 °C by default (R393). -/
def Config.hot : Nat := Config.hotSet.getD 760
def Config.cool : Nat := Config.coolSet.getD 680
/-- The matrix hot threshold (R393). -/
opaque Config.matrixHot : Nat
/-- UTIME, if the configuration record sets it: 2^31 by default (R389). -/
opaque Config.utimeSet : Option Nat
def Config.utime : Nat := Config.utimeSet.getD 2147483648

end Sys2Proof
end

