-- ==== Sys2Proof/Machine/State.lean ====
section
/-! DEFINITION. The state of the module as plain data: strands, memory, translation ports, clusters, dies,
troupes, queues, management registers, and the events in flight. -/

namespace Sys2Proof.Machine

/-- What kind of core a strand belongs to (R16). -/
inductive Kind where
  | lean | heavy | sm
deriving DecidableEq, Repr

/-- The classes of the slot census (R72). -/
inductive Cls where
  | issued | vacant | xlate | msg | ship | mem
deriving DecidableEq, Repr

/-- The trap causes of R199. -/
inductive Cause where
  | illegal | privileged | segLimit | segRights | misaligned | pageUnmapped | pageRights | pageCluster
  | regionViolation | fpInvalid | fpDivzero | fpOverflow | fpUnderflow | fpInexact | intDivzero | breakpoint
  | watchpoint | singleStep | channelUnbound | ringFault | taskTimestamp | taskState | troupeQuiescent
  | machineCheck | codeFetch | shipUnavailable | syscall
deriving DecidableEq, Repr

/-- A register that an instruction names as a source or a destination (R44). -/
inductive RegName where
  | s (r : SReg) | v (r : VReg) | k (r : KReg)
deriving DecidableEq, Repr

/-- A segment register or a code segment handle: two 64-bit words in the layout of R140. -/
structure Seg where
  base : Word
  desc : Word
deriving DecidableEq, Repr

/-- The null segment of all zero bits. -/
def Seg.null : Seg := { base := 0, desc := 0 }

/-- FFLAGS, VSTAT and SRSEED: what R70 checkpoints. -/
structure Flags where
  fflags : BitVec 5
  vstat : BitVec 2
  srseed : BitVec 32
deriving DecidableEq, Repr

/-- An exception held until every older trappable operation is confirmed (R71). -/
structure Held where
  q : Nat
  pc : Word
  cause : Cause
  addr : Word
  info : BitVec 24
  flags : Flags
deriving DecidableEq, Repr

/-- The result of a fixed-latency instruction that is not available yet, or the return of a BAR.SYNC or PARK (R67, R68, R75). -/
structure Fixed where
  /-- the place of its instruction in program order -/
  q : Nat
  reg : RegName
  /-- the cycle from which it is available -/
  due : Nat
  /-- the instruction can set FFLAGS -/
  fflags : Bool
  /-- the instruction can set VSTAT -/
  vstat : Bool
deriving DecidableEq, Repr

/-- A register value saved in the undo window by instruction `q` (R70). -/
structure Undo where
  q : Nat
  reg : RegName
  old : Word
deriving DecidableEq, Repr

/-- The regions of R147. -/
inductive Region where
  | priv | readShared | coherent | remote
deriving DecidableEq, Repr

/-- One access of a memory instruction: a lane, or the whole scalar access. -/
structure Access where
  /-- lane number, 0 for a scalar access -/
  lane : Nat
  /-- device virtual address for KIND 1, the offset in its tier otherwise -/
  va : Nat
  size : Nat
  /-- where the bytes lie in `State.mem`, once translated -/
  loc : Option Nat
  /-- the region of the page (KIND 1) -/
  region : Region
  /-- the value to be stored, or the operand of an atomic -/
  data : Nat
deriving DecidableEq, Repr

/-- The functions of the memory-side atomics of R154. -/
inductive AmoOp where
  | add | swap | cas | and | or | xor | min | max | minn | maxn | fadd
deriving DecidableEq, Repr

/-- The wide atomics of R247. -/
inductive WideOp where
  | cas128 | swap128 | fadd | fmin | fmax
deriving DecidableEq, Repr

/-- The result a heavy core computes for a ship packet (R232, R233). -/
structure ShipResult where
  /-- the value, merged under `mask` into the destination when it lands -/
  data : VWord
  mask : VWord
  /-- COND, in FFLAGS positions -/
  cond : BitVec 5
  /-- the trap of STATUS 1 or 2, with TRAPADDR -/
  trap : Option (Cause × Word)
  lanes : BitVec 16
  /-- the operation can set FFLAGS (R75, R236) -/
  sets : Bool
  /-- the package cluster number of the heavy core that executes it -/
  core : Nat
deriving DecidableEq, Repr

/-- What a wide-atomic unit returns: the old value, or a failed translation with its VA, and the unit's cluster (R249). -/
inductive WideRes where
  | old (v : Nat) | failed (c : Cause) (va cl : Nat)
deriving DecidableEq, Repr

/-- The three actions of TLBINV (R212). -/
inductive TlbForm where
  | page (va : Nat) (asid : Nat) | space (asid : Nat) | all
deriving DecidableEq, Repr

/-- What an outstanding operation does when it completes. -/
inductive OpWhat where
  /-- LD into a scalar register -/
  | load (d : SReg) (signed : Bool)
  /-- VLD, VLDS, VGATHER -/
  | vload (d : VReg)
  /-- ST, VST, VSTS, VSCATTER -/
  | store
  /-- an AMO: its function, its compare value and whether the old value is sign-extended -/
  | amo (d : SReg) (op : AmoOp) (cmp : Nat) (signed : Bool)
  /-- FLUSHL or, with `drop`, INVL -/
  | line (drop : Bool)
  /-- the marker of a release fence -/
  | marker
  /-- an SC fence waiting for its release time -/
  | scFence
  /-- an acquire fence waiting for older load parts -/
  | acqFence
  /-- a shipped instruction of majors 0x30 to 0x32 and its destination -/
  | ship (d : RegName) (res : ShipResult)
  /-- a wide atomic: its function, its operand and compare value, and what the unit has returned -/
  | wide (t : SReg) (op : WideOp) (v : Nat) (cmp : Nat) (res : Option WideRes)
  | tlbinv (form : TlbForm)
  /-- a BAR.ARRIVE, or with `sync` a BAR.SYNC, of barrier `n` -/
  | barArrive (d : SReg) (n : Nat) (sync : Bool) (target : BitVec 16)
  | barStat (d : SReg) (n : Nat) (val : Word)
  /-- TSPAWN: the spawn id, once the origin has given it -/
  | tspawn (d : SReg) (id : Option Nat)
  | codesync (base : Nat) (len : Nat)
  | xlatinv (all : Bool) (base : Nat) (len : Nat)
  /-- SLOTSWAP, WPCLR and WPSET.phys: a result that is ready later -/
  | result (d : SReg) (val : Word)
  /-- CTXSAVE of a CID or, with `load`, CTXLOAD -/
  | context (d : SReg) (load : Bool) (cid : Nat)
  /-- SLOTSWAP: the target strand and the context to restore -/
  | slotswap (d : SReg) (target : Nat) (cid : Nat)
  /-- LAUNCH: its troupe, once that is placed -/
  | launch (d : SReg) (tr : Option Nat)
  /-- WPSET through a segment: the size code and the access kinds -/
  | wpset (d : SReg) (n : Nat) (rd wr : Bool)
  /-- a load whose data returned before its translation was confirmed -/
  | loaded
  /-- the descriptor read of an MMAG (R265) -/
  | ringHold
deriving DecidableEq, Repr

/-- How far an outstanding operation has come. -/
inductive Stage where
  /-- its translation is not confirmed yet (R69) -/
  | unconfirmed
  /-- confirmed, waiting in the store queue or for its release time (R168, R172) -/
  | waiting
  /-- on its way to the place that performs it -/
  | away
  /-- its effect is done and its result is held until older operations are confirmed (R234) -/
  | held
deriving DecidableEq, Repr

/-- An outstanding operation of a strand (R67 to R70). -/
structure Op where
  /-- the place of its instruction in program order -/
  q : Nat
  /-- the virtual PC of its instruction -/
  pc : Word
  what : OpWhat
  /-- the registers whose write is pending -/
  dsts : List RegName
  accs : List Access
  ord : BitVec 2
  /-- the KIND of the segment used, 0 where there is none -/
  kind : Nat
  stage : Stage
  /-- it can still raise a trap (R69) -/
  trappable : Bool
  /-- the flags as they were just before it issued (R70) -/
  flags : Flags
  /-- the cycle in which it issued -/
  issued : Nat
  /-- a strided or indexed V-MEM form (R159) -/
  strided : Bool := false
deriving DecidableEq, Repr

/-- What a strand is doing as a whole. -/
inductive Run where
  /-- no vcore in the slot -/
  | vacant
  | active
  /-- in PARK (R213) -/
  | parked
  /-- an idle worker (R290) -/
  | idle
  /-- a fatal fault: the strand issues nothing more (R201) -/
  | dead
deriving DecidableEq, Repr

/-- The six counters of the slot census (R72). -/
structure Census where
  issued : Nat
  mem : Nat
  ship : Nat
  msg : Nat
  xlate : Nat
  vacant : Nat
deriving DecidableEq, Repr

/-- A translated block as it stands in the core's L1I (R317): its words from the virtual PC `base`, and the physical address of a last word that lies
in the next 64 KiB region. -/
structure Block where
  base : Word
  words : List Nat
  key : Nat
  tail : Option Nat := none
deriving DecidableEq, Repr

/-- A message in an inbox, with the dequeue that has taken it without being confirmed (R185, R191). -/
structure Msg where
  data : Word
  taken : Option Nat
deriving DecidableEq, Repr

/-- An entry of an inbound port (R182). -/
structure PortEntry where
  vec : Bool
  data : VWord
  taken : Option Nat
deriving DecidableEq, Repr

/-- A ring descriptor: configuration word, HEAD, TAIL, the claim count CL, and the next unreserved count (R253, R254, R282). -/
structure Ring where
  cfg : Word
  head : BitVec 32
  tail : BitVec 32
  claim : BitVec 32
  reserved : BitVec 32
  /-- the cycle of the last pop, and the slots popped in it: a write that waits for one of them goes on a cycle later (R275) -/
  popAt : Nat := 0
  popped : Nat := 0
deriving DecidableEq, Repr

/-- What a matrix operation does (R259, R265, R267 to R269). -/
inductive MatWhat where
  | mma (d : AccIx) (a b : RingIx) (fmt : Nat) (zero keepa keepb : Bool)
  | mmag (d : AccIx) (a b : RingIx) (fmt : Nat) (zero keepa : Bool) (desc g : Nat) (rows : List Nat) (clip : Bool)
  | mzero (d : AccIx)
  | maccst (d : AccIx) (seg : Seg) (off stride first count : Nat) (fmt : Nat) (tag : BitVec 16)
  | maccld (d : AccIx) (seg : Seg) (off stride first count : Nat) (fmt : Nat)
deriving DecidableEq, Repr

/-- A part of a row that a MACCST will write: the row, the byte of it, where it goes, and the region of the page. -/
structure RowPiece where
  row : Nat
  off : Nat
  loc : Nat
  len : Nat
  region : Region := .coherent
deriving DecidableEq, Repr

/-- A matrix operation in a strand's queue or in the array (R256, R257). -/
structure MatOp where
  q : Nat
  what : MatWhat
  /-- the cycle in which it entered the queue; `none` while it is on its way there -/
  entered : Option Nat
  /-- the cycle in which it started -/
  started : Option Nat
  /-- the cycle in which it retires, once that is known -/
  ends : Option Nat
  /-- the slots it pops at retirement, by ring -/
  pops : List (RingIx × Nat)
  /-- the conditions it will OR into MSTAT -/
  conds : BitVec 7
  /-- for MACCST: the next row to translate, the STATUS so far, and where the rows translated so far go -/
  row : Nat
  status : Nat
  pieces : List RowPiece
deriving DecidableEq, Repr

/-- The frame that a worker's first TDONE outside a task records (R290). -/
structure Frame where
  s29 : Word
  s30 : Word
  s31 : Word
  fctl : BitVec 10
  wpc : Word
deriving DecidableEq, Repr

/-- A packet that QWAIT has delivered to a stage-manager strand: its queue, its RDIDX, KIND and NOTIFY (R334). -/
structure Packet where
  queue : Nat
  rdidx : Word
  kind : Nat
  notify : Bool
deriving DecidableEq, Repr

/-- The WAIT packet a stage-manager strand polls (R341): the cycle of the first poll and of the next one, and how it ended. -/
structure QPoll where
  started : Nat
  next : Nat
  /-- what QWAIT will answer, once the wait is over without its condition -/
  result : Option Word
deriving DecidableEq, Repr

/-- A request of SLOTSWAP at a strand (R216): who asked, the context to restore, if any, and whether the save runs. -/
structure SwapReq where
  issuer : Nat
  q : Nat
  cid : Option Nat
  saving : Bool
deriving DecidableEq, Repr

/-- The entry of an asynchronous trap while instructions that issued before it are outstanding (R203): their number, the cause with its TRAPADDR, and
the trap registers as they were. -/
structure AsyncEntry where
  q : Nat
  cause : Cause
  addr : Word
  trapPc : Word
  trapCause : BitVec 8
  trapAddr : Word
  trapInfo : BitVec 24
deriving DecidableEq, Repr

/-- The debugger's hold on a strand (R371 to R373). -/
structure DebugState where
  claimed : Bool
  /-- the REASON of a stop that has arrived and is not complete -/
  stopReq : Option Nat
  /-- stopped: its slot counts VACANT until a RESUME -/
  stopped : Bool
  /-- the stop records that are still to be written, oldest first -/
  pending : List (List Byte)
  /-- an open step: the number of its instruction; with `true` it ends in SINGLE_STEP -/
  stepping : Option (Bool × Nat)
  /-- stopped as a partner by a STEP with FREEZE -/
  frozen : Bool
  skid : Bool
  brk : BitVec 12
deriving DecidableEq, Repr

/-- A strand: a slot of a lean core or stage manager, or a heavy strand, with the context it holds. -/
structure Strand where
  /-- its SADDR (R211) -/
  sa : Nat
  kind : Kind
  /-- W of its lean core; 0 heavy, 32 stage manager (R73) -/
  width : Nat
  /-- the slot enable (R218) -/
  enabled : Bool
  run : Run
  vcid : Nat
  troupe : Nat
  asid : Nat
  /-- the physical address of its address space's root table (R145) -/
  root : Nat
  /-- s0 to s31; the cell of s0 is never read (R45) -/
  regs : Vector Word 32
  vregs : Vector VWord 16
  /-- k0 to k7; the cell of k0 is never read (R45) -/
  kregs : Vector (BitVec 16) 8
  segs : Vector Seg 8
  codeSeg : Seg
  trapSeg : Seg
  pc : Word
  /-- the handler state H (R200) -/
  h : Bool
  flags : Flags
  fctl : BitVec 10
  tvec : Word
  trapPc : Word
  trapCause : BitVec 8
  trapAddr : Word
  trapInfo : BitVec 24
  /-- the spawn id latched by GETSR CFRONT (R75) -/
  frontLatch : BitVec 32
  census : Census
  /-- the operations outstanding, in program order -/
  ops : List Op
  /-- the number of the next instruction in program order -/
  nextQ : Nat
  undo : List Undo
  held : List Held
  /-- asynchronous causes held, with their TRAPADDR (R203) -/
  async : List (Cause × Word)
  /-- a MACHINE_CHECK that it holds has lost its context (R205) -/
  lost : Bool
  /-- fixed-latency results not yet available (R67) -/
  fixed : List Fixed
  /-- a cue instruction has issued and its wait is not over (R68) -/
  cue : Bool
  /-- an asynchronous trap was taken, and its handler waits until every older instruction has completed (R203) -/
  drain : Bool
  /-- what that trap replaced, while an older instruction can still be undone -/
  entry : Option AsyncEntry
  /-- no issue before this cycle: a trap, a return, a dispatch, or a heavy control transfer (R201, R226, R291) -/
  readyAt : Nat
  /-- the class of the turns until then -/
  readyCls : Cls
  /-- turns still forfeited under PAUSE or the normaliser, and their class -/
  forfeit : Nat
  forfeitCls : Cls
  /-- the instruction that forfeits them -/
  forfeitQ : Nat
  block : Option Block
  /-- parked in WAIT_XLATE until the walk of this page of this space ends (R149) -/
  xwait : Option (Nat × Nat)
  inbox : List Msg
  inPorts : Vector (List PortEntry) 8
  credits : Vector Nat 8
  /-- the wake token (R213) -/
  token : Bool
  parkDl : Nat
  parkDst : SReg
  /-- the cue bit of the PARK it is parked in (R68, R210) -/
  parkCue : Bool
  /-- it was restored parked: its PARK restarts with the deadline `parkDl` (R215) -/
  parkAgain : Bool
  /-- the spawn id of its current task -/
  task : Option Nat
  /-- accumulator cells that are not +0, by 65,536·acc + 256·i + j (R251) -/
  accs : Tab (BitVec 32)
  rings : Vector Ring 16
  /-- the sticky bits of MSTAT (R270) -/
  mstat : BitVec 7
  /-- the conditions of operations that retired in a cycle, and that cycle: an MSTAT of the same cycle comes before them (R271) -/
  mstatNew : Nat × BitVec 7
  mq : List MatOp
  /-- the queue a stage-manager strand maps (R339) -/
  mapped : Option Nat
  poll : Option QPoll
  /-- the packet that QWAIT delivered last, until its command is given or it is consumed (R334) -/
  packet : Option Packet
  /-- COPY packets whose completions have not been dequeued, by the engine and the tag of their command (R334) -/
  copies : List (Nat × Nat × Packet)
  dbg : DebugState
  swap : Option SwapReq
deriving DecidableEq, Repr

/-- A leaf of a translation (R146, R147). -/
structure Leaf where
  pa : Nat
  large : Bool
  x : Bool
  w : Bool
  rd : Bool
  region : Region
  cmask : BitVec 12
  dmask : BitVec 8
deriving DecidableEq, Repr

/-- An entry of a port's translation buffer: address space, page number and leaf. -/
structure TlbEntry where
  asid : Nat
  vpn : Nat
  leaf : Leaf
deriving DecidableEq, Repr

/-- An entry of the walk cache: the table that the top bits of a VA lead to at level 2 or below (R149). -/
structure WalkEntry where
  asid : Nat
  level : Nat
  index : Nat
  table : Nat
deriving DecidableEq, Repr

/-- Who waits for a walk. -/
inductive WalkFor where
  | strand (sa : Nat)
  /-- a wide atomic of a sender -/
  | wide (cl sa q : Nat)
  | engine (die eng : Nat)
  | matrix (cl : Nat)
  /-- a background walk of PREF or XLATPRE, for a strand of a troupe -/
  | background (tr : Nat)
deriving DecidableEq, Repr

/-- The kinds of access that a walk is made for (R149 step 4). -/
inductive AccKind where
  | read | write | atomic | fetch
deriving DecidableEq, Repr

/-- A walk in progress or waiting for a walker (R149). -/
structure Walk where
  id : Nat
  who : WalkFor
  acc : AccKind
  asid : Nat
  root : Nat
  va : Nat
  /-- the level that is read and its table -/
  level : Nat
  table : Nat
  running : Bool
  /-- a TLBINV reached the port while it ran (R212) -/
  restart : Bool
  /-- waiting for the fault service of this request -/
  req : Option Nat
  /-- it ended without a valid leaf, and its owner has not yet reissued -/
  failed : Bool
  /-- the entry of the level, and a leaf's companion word, whose data are on their way -/
  got : Option (Nat × Nat)
deriving DecidableEq, Repr

/-- The memory port of a cluster or a stage manager; buffers are listed most recently used first (R149, R396). -/
structure Port where
  base : List TlbEntry
  large : List TlbEntry
  wcache : List WalkEntry
  walks : List Walk
  nextWalk : Nat
deriving DecidableEq, Repr

/-- A fault service request (R149): the entry at fault, its space, the VA and the kind of access of the walk that posted it, and the walks joined
to it (port, walk). -/
structure Req where
  id : Nat
  entry : Nat
  asid : Nat
  va : Nat
  acc : AccKind
  joined : List (Nat × Nat)
deriving DecidableEq, Repr

/-- A shipped instruction on its way to or in a guest queue (R227). -/
structure Guest where
  sa : Nat
  q : Nat
  prio : Nat
  /-- the cycle in which it arrives at, or entered, the queue -/
  entered : Nat
  latency : Nat
  wide : Bool
  /-- the network time N of its packet (R229) -/
  net : Nat
deriving DecidableEq, Repr

/-- A cluster (R10), with its heavy core, array and debug page. -/
structure Cluster where
  gshare : BitVec 5
  guestIn : List Guest
  guestQ : List Guest
  wide : List Guest
  /-- the local heavy strand tried first (R226) -/
  rr : Nat
  /-- the cycle after the one in which the heavy core last issued -/
  heavyFree : Nat
  /-- the local heavy strands to which this cycle is not offered, and how many earlier cycles were not offered to each (R72, R226) -/
  passed : BitVec 4
  unoffered : Tab Nat
  alarm : Bool
  /-- the cycle in which the alarm will be set -/
  alarmAt : Option Nat
  /-- the last sample of the heavy core was not below the cool threshold -/
  warm : Bool
  /-- the lean cores' last temperatures, in units of 0.125 °C -/
  temps : Tab Nat
  squall : Bool
  sqentry : BitVec 12
  /-- the cycle from which the array is free (R257) -/
  arrayFree : Nat
  /-- saved contexts by CID, most recently used first (R214) -/
  tcc : List (Nat × List Byte)
  drecHead : Word
  drecTail : Word
  drec : Tab (List Byte)
  /-- ready histogram by 17·core + bucket (R72); in place of bucket 0, which is the rest, the cycle from which the core counts -/
  hist : Tab Nat
  /-- ready strands found in this cycle, by core -/
  ready : Tab Nat
  /-- scratchpad ranges being cleared: core, offset, length (R217) -/
  clearing : List (Nat × Nat × Nat)
  /-- the cycle of a blackout that has reached the cluster (R372) -/
  blackout : Option Nat
  /-- consecutive samples that let the alarm clear (R393) -/
  coolSamples : Nat
deriving DecidableEq, Repr

/-- The states of a translation-cache entry other than ABSENT (R330). -/
inductive XState where
  | pending | doomed | valid
deriving DecidableEq, Repr

/-- A translation-cache entry: the physical addresses and the words of its block. -/
structure XEntry where
  state : XState
  /-- the cycle in which its translation ends -/
  ends : Nat
  pas : List Nat
  words : List Nat
  /-- the region of its page, and where the word after its 64 KiB region lies, if the strand's port knew -/
  region : Region
  tail : Option (Nat × Region)
  /-- the bytes it takes of the cache, which the spec does not state (entry 40 of the log), and the cycle of its last use -/
  size : Nat
  used : Nat
deriving DecidableEq, Repr

/-- The forms of major 0x1A (R277). -/
inductive CpyForm where
  | cpy | cpy2d | cpyg | cpys | cpyred | cpyring | cpyfill | cpyrem
deriving DecidableEq, Repr

/-- A copy command with the values captured at its push (R277, R278). -/
structure CpyCmd where
  form : CpyForm
  /-- the issuing strand, with its kind and system bit, its vcore and address space -/
  sa : Nat
  kind : Kind
  sys : Bool
  troupe : Nat
  vcid : Nat
  asid : Nat
  root : Nat
  dst : Word
  src : Word
  b : Word
  b1 : Word
  opt : Nat
  sseg : Seg
  dseg : Seg
  tag : BitVec 16
  pushed : Nat
  /-- the COPY packet that it carries out (R334) -/
  packet : Option Packet
deriving DecidableEq, Repr

/-- A part of a copy that crosses no page: the source and destination locations and the length, with the regions of their pages. -/
structure Piece where
  src : Option Nat
  dst : Option Nat
  len : Nat
  sreg : Region := .coherent
  dreg : Region := .coherent
deriving DecidableEq, Repr

/-- A 64-byte flit to or from a remote module (R284, R385): a put or a get of `len` bytes at an offset, or an answer, and the link it goes over. -/
structure Flit where
  link : Nat
  module : Nat
  off : Nat
  put : Bool
  answer : Bool
  len : Nat
  data : BitVec 512
deriving DecidableEq, Repr

/-- A flit that its remote module has not acknowledged: its number in the command, the local location and length, and the LINKS of its window. -/
structure Unacked where
  num : Nat
  loc : Nat
  len : Nat
  links : Nat
  flit : Flit
deriving DecidableEq, Repr

/-- The command an engine runs. -/
structure CpyRun where
  cmd : CpyCmd
  /-- the next part to translate, in command order -/
  pos : Nat
  /-- the parts translated so far -/
  pieces : List Piece
  /-- the index list of CPYG and CPYS, once it is translated -/
  idx : List Nat
  /-- the largest tier latencies met -/
  tsrc : Nat
  tdst : Nat
  status : Nat
  /-- its writes are performed; only its message is still to be posted -/
  written : Bool
  /-- the count of the ring slot it reserved (R282) -/
  slot : Option (BitVec 32)
  /-- flits sent to a remote module and not yet acknowledged (R284) -/
  unacked : List Unacked
  /-- the window entries as a CPYREM read them at its start (R384) -/
  win : Tab (List Byte)
  /-- locations of source bytes that an error struck while the engine read them (R283, R391) -/
  bad : List Nat
deriving DecidableEq, Repr

/-- A copy engine (R278, R279). -/
structure Engine where
  queue : List CpyCmd
  running : Option CpyRun
deriving DecidableEq, Repr

/-- A watch (R375): the physical range, the address as it was watched, the access kinds, the owner's CID, and where its comparators lie. -/
structure Watch where
  pa : Nat
  va : Nat
  size : Nat
  rd : Bool
  wr : Bool
  owner : Nat
  l2 : Nat
  llc : Nat
deriving DecidableEq, Repr

/-- A watch hit on its way to its log and its owner (R378). -/
structure WatchHit where
  at_ : Nat
  owner : Nat
  addr : Word
  record : List Byte
deriving DecidableEq, Repr

/-- A die (R9). -/
structure Die where
  xcache : Tab XEntry
  /-- the blocks that wait for a place in the prompter, oldest first (R320) -/
  xqueue : List (Nat × Region × Option (Nat × Region))
  /-- call board entries: rank and queue, lowest rank first (R335) -/
  board : List (Nat × Nat)
  /-- READY queues waiting outside a full board -/
  outside : List Nat
  rankProg : List Nat
  /-- insertions under way: the queue, the rank its program gives, the cycle in which it is placed (R335) -/
  inserts : List (Nat × Nat × Nat)
  /-- the base of the queue table, once Stage B has set it (R332) -/
  qtab : Option Nat
  engines : Tab Engine
  watches : Tab Watch
  hits : List WatchHit
  watchLog : Tab (List Byte)
  watchCount : Nat
  /-- the cycle in which the last status of a dump's vacating SLOTSWAPs returns (R221) -/
  statusBack : Nat
  /-- undelivered quiescence reports (R203) -/
  quiescent : List Nat
  dumps : List Nat
  /-- it holds: the writer of a dump has faulted, or it was too hot (R222, R394) -/
  hold : Bool
  /-- it was too hot: nothing on it resumes (R394) -/
  tripped : Bool
  reqs : List Req
  nextReq : Nat
  traceCount : Nat
  /-- the prompter is reloading its template table (R331) -/
  reloading : Bool
  /-- the stage-manager instruction memory: the image whose code has been copied into it, and the lines that an error has struck (R347) -/
  smImage : Option Image
  smLost : List Nat
deriving DecidableEq, Repr

/-- A 128-byte line of private memory in a cache: its number, its bytes, and which of them are not written back (R151, R180). -/
structure Line where
  num : Nat
  data : BitVec 1024
  dirty : BitVec 128
deriving DecidableEq, Repr

/-- A granule of a task buffer: 64 bytes and a byte mask, and where it lies in private memory the SADDR of the strand that wrote it (R293). -/
structure Granule where
  loc : Nat
  data : BitVec 512
  mask : BitVec 64
  owner : Option Nat := none
deriving DecidableEq, Repr

/-- The states of a task (R308). -/
inductive TaskState where
  | queued | spilled | running | nonspec | irrev | stopped | finished
deriving DecidableEq, Repr

/-- A task (R286 to R308). -/
structure Task where
  t : Word
  parent : BitVec 32
  entry : BitVec 32
  args : List Word
  retries : Nat
  rerun : Bool
  state : TaskState
  /-- the cluster rank of its task unit -/
  unit : Nat
  /-- the vcid of the worker that runs it -/
  worker : Option Nat
  buffer : List Granule
  sig : BitVec 2048
  /-- the notice that makes it non-speculative has been sent (R300) -/
  front : Bool
  /-- an abort has been issued against it (R301) -/
  doomed : Bool
  /-- the abort, or with `true` the removal, has arrived and waits for its strand to become idle (R303) -/
  ending : Option Bool
  /-- its record in the spill area (R292) -/
  slot : Option Nat
  /-- cores it has run on (R307) -/
  usedCores : List Nat
  /-- a commit of its buffer under R296 is under way -/
  committing : Bool
  /-- TSPAWN issue data for the fault record of R292: vcid, SADDR, PC -/
  spawner : Option (Nat × Nat × Word)
deriving DecidableEq, Repr

/-- A spawn between its TSPAWN and its task unit (R292). -/
structure Spawn where
  sa : Nat
  q : Nat
  vcid : Nat
  pc : Word
  t : Word
  parent : BitVec 32
  entry : BitVec 32
  args : List Word
  /-- the cycle in which it reaches the origin, and its spawn id from then on -/
  arrives : Nat
  id : Option Nat
  /-- its parent was aborted meanwhile -/
  dead : Bool
deriving DecidableEq, Repr

/-- A fault record (R223). -/
structure FaultRec where
  cycle : Nat
  pc : Word
  addr : Word
  vcid : Nat
  sa : Nat
  info : BitVec 24
  cause : BitVec 8
  reason : Nat
deriving DecidableEq, Repr

/-- A barrier (R187, R190). -/
structure Barrier where
  members : List Nat
  gen : BitVec 16
  /-- the vcids counted in the open phase -/
  arrived : List Nat
  /-- the target of each member's latest arrival, by vcid -/
  target : Tab (BitVec 16)
  /-- GEN as each cluster sees it -/
  seen : Tab (BitVec 16)
deriving DecidableEq, Repr

/-- A channel binding (R181): sender vcid and port, receiver vcid and port. -/
structure Binding where
  src : Nat
  srcPort : Nat
  dst : Nat
  dstPort : Nat
deriving DecidableEq, Repr

/-- A live troupe (R19, R343 to R346). -/
structure Troupe where
  /-- its launch descriptor, 512 bytes -/
  desc : List Byte
  row0 : Nat
  col0 : Nat
  /-- the stage-manager strand that launched it and the queue it mapped -/
  launcher : Nat
  queue : Nat
  /-- the packet that launched it asks for a host interrupt when it finishes (R334) -/
  notify : Bool
  /-- it carries out a LAUNCH packet of that queue (R334) -/
  carried : Bool
  released : Nat
  /-- the SADDR of each vcore, by vcid; where it is switched out or has halted, its last one -/
  place : Tab Nat
  /-- vcores that have halted -/
  halted : List Nat
  /-- the home core of each vcore's KIND 2 ranges, as the SADDR of its slot 0 (R217) -/
  homes : Tab Nat
  /-- the frames of its workers, by vcid (R290) -/
  frames : Tab Frame
  /-- vcores that are switched out of their slot -/
  out : List Nat
  discarded : Nat
  binds : List Binding
  bars : Tab Barrier
  /-- counted quiet cycles (R196) -/
  quiet : Nat
  /-- something of the troupe happened in this cycle -/
  stirred : Bool
  tasks : Tab Task
  spawnCtr : Nat
  spawns : List Spawn
  /-- the published key (R297) -/
  front : Word × BitVec 32
  /-- a commit pass is running (R299) -/
  pass : Bool
  /-- the key of the newest sample that waits to be published -/
  sampled : Option (Word × BitVec 32)
  /-- a publication waits for the end of the pass (R299) -/
  publishDue : Bool
  /-- the cycle until which each unit spills or reads back -/
  unitBusy : Tab Nat
  /-- the lowest timestamp requeued by the last pass, for R312 -/
  requeued : Option Word
  /-- the task being committed -/
  committing : Option Nat
  faults : List FaultRec
  seconds : Nat
  /-- fault records on their way to the launching die -/
  reports : List FaultRec
  /-- the vcores with a quiescence record, and the words of each (R197) -/
  quietRecs : List (Word × Word)
  ending : Bool
deriving DecidableEq, Repr

/-- The states of a queue (R332). -/
inductive QState where
  | disabled | idle | ready | mapped | faulted
deriving DecidableEq, Repr

/-- A queue descriptor (R332). -/
structure Queue where
  ring : Word
  logn : BitVec 8
  prio : BitVec 8
  state : QState
  freason : BitVec 8
  asid : BitVec 32
  root : Word
  rdidx : Word
  wridx : Word
  acycle : Word
  fdetail : Word
deriving DecidableEq, Repr

/-- A LAUNCH in the placement unit (R345). -/
structure PlaceReq where
  sa : Nat
  q : Nat
  desc : List Byte
  queue : Nat
  /-- the packet asks for a host interrupt when it finishes (R334) -/
  notify : Bool
  /-- it carries out a LAUNCH packet of that queue (R334) -/
  carried : Bool
  /-- LAUNCH.try -/
  once : Bool
  /-- the cycle in which it reaches the unit -/
  arrives : Nat
  /-- the cycle in which its search ends, while one is due -/
  due : Option Nat
  /-- a search has failed and it waits for a slot -/
  waiting : Bool
deriving DecidableEq, Repr

/-- An SC operation announced and not yet performed (R172). -/
structure ScOp where
  window : Nat
  sa : Nat
  q : Nat
  /-- the bytes it accesses: location and size; none for a fence -/
  locs : List (Nat × Nat)
deriving DecidableEq, Repr

/-- The verification result of a firmware slot (R382 MSLOT). -/
inductive SlotResult where
  | untried | good | badSignature | oldVersion
deriving DecidableEq, Repr

/-- The management registers (R382). -/
structure Mgmt where
  stage : BitVec 8
  slot : BitVec 2
  /-- the images in flash slots A and B (R387) -/
  flashA : Image
  flashB : Image
  /-- slot B is the newly written one and is tried first -/
  bFirst : Bool
  /-- flash slots that an error has struck since they were written: A, B -/
  flashBad : Bool × Bool
  slotA : SlotResult
  slotB : SlotResult
  update : BitVec 2
  admits : BitVec 8
  intrBase : BitVec 48
  intrLen : BitVec 16
  intrPtr : Word
  portErr : Word
  ident : List Byte
  modId : BitVec 16
  updImg : BitVec 48
  updLen : BitVec 32
  link : BitVec 32
  qsel : BitVec 17
  qstat : Bool
  updRec : BitVec 48
  intrLost : Word
  sysObj : BitVec 48
  sysLen : BitVec 32
  sysCtl : Word
  merr : Tab Word
  /-- trace rings: two words for each die -/
  trace : Tab (Word × Word)
  /-- window table entries, 32 bytes each (R384) -/
  win : Tab (List Byte)
  mlog : Tab (List Byte)
  mlogCount : Nat
  attest : Tab Byte
  /-- the recovery upload window (R388) -/
  upload : Tab Byte
  /-- interrupt records written to the host's ring: position, word 0, word 1 -/
  host : List (Nat × Word × Word)
deriving DecidableEq, Repr

/-- The module. -/
structure State where
  cycle : Nat
  /-- the bytes of every tier, in canonical form; global bytes as the LLC and HBM hold them -/
  mem : List Host.Cell
  /-- the private lines in each core's L1D and in each die's L2, most recently used first (R151, R180, R396); a core is named by the SADDR of its
  slot 0 -/
  l1d : Tab (List Line)
  l2 : Tab (List Line)
  me : Strand
  others : Tab Strand
  /-- events in flight and inputs from outside, each with the cycle in which it comes about -/
  agenda : List (Nat × Instr)
  /-- the model's own counter of free values -/
  freeCtr : Nat
  /-- what the current strand's turn counts as; none where it is no turn of the strand (R72) -/
  verdict : Option Cls
  /-- the turns of this cycle are over (the model's own) -/
  turnsOver : Bool
  ports : Tab Port
  clusters : Tab Cluster
  dies : Tab Die
  troupes : Tab Troupe
  nextTroupe : Nat
  placeQ : List PlaceReq
  /-- the cycle until which the placement unit searches -/
  placeBusy : Nat
  /-- a slot has become free and waiting requests are to be retried -/
  slotFreed : Bool
  /-- the ship map, where an entry differs from the cluster's own heavy core (R230) -/
  shipMap : Tab (BitVec 8)
  scOps : List ScOp
  queues : Tab Queue
  mgmt : Mgmt
  /-- code ranges placed in the system code space: base and length (R344) -/
  sysObjs : List (Nat × Nat)
  /-- the root table of the system code space -/
  sysRoot : Nat
  /-- the locations of the bytes of poisoned words (R391) -/
  poison : List Nat
  /-- poisoned bytes that lay in a dirty private line of a strand's L1D (R391) -/
  dirtyPoison : List (Nat × Nat)
  /-- CIDs of saved contexts that an error has struck -/
  lostCtx : List Nat
  /-- relocated vcores that wait for a slot: troupe, vcid (R351) -/
  displaced : List (Nat × Nat)
  /-- the cycle in which an update's UTIME ends (R389) -/
  updating : Option Nat
  /-- what the update restores: troupe, vcid, SADDR -/
  toRestore : List (Nat × Nat × Nat)
  /-- the newest copy of the repair map: the failed units, the last first (R392) -/
  repair : List WearUnit
  /-- the older copy -/
  repairOld : List WearUnit
  /-- the map that Stage B has applied -/
  applied : List WearUnit
  /-- units that an uncorrectable error has struck (R392) -/
  struck : List WearUnit
  /-- the corrected errors of the last 2^40 cycles, each with its unit and cycle (R392) -/
  wear : List (WearUnit × Nat)
  /-- flits sent to remote modules (R284, R385) -/
  remoteOut : List Flit
deriving DecidableEq, Repr

/-- The faults of the model. -/
inductive Fault where
  /-- safe: a table walk or a device access leaves the physical address space, where nothing answers (R148) -/
  | noSuchPhysical (addr : Nat)
deriving DecidableEq, Repr

/-- The refusals of the model. -/
inductive Refusal where
  /-- safe: an instruction that has no meaning here yet -/
  | notModelled (mnemonic : String)
deriving DecidableEq, Repr

/-- The answer of a step or an instruction. -/
abbrev Out := Host.Outcome State Fault Refusal

/-- A slot that has never held a vcore: every field cleared (entry 1 of the log names the values). -/
def Strand.fresh (sa : Nat) (kind : Kind) (width : Nat) : Strand where
  sa := sa
  kind := kind
  width := width
  enabled := true
  run := .vacant
  vcid := 0
  troupe := 0
  asid := 0
  root := 0
  regs := Vector.replicate 32 0
  vregs := Vector.replicate 16 0
  kregs := Vector.replicate 8 0
  segs := Vector.replicate 8 Seg.null
  codeSeg := Seg.null
  trapSeg := Seg.null
  pc := 0
  h := false
  flags := { fflags := 0, vstat := 0, srseed := 1 }
  fctl := 0
  tvec := 0
  trapPc := 0
  trapCause := 0
  trapAddr := 0
  trapInfo := 0
  frontLatch := 0xFFFFFFFF
  census := { issued := 0, mem := 0, ship := 0, msg := 0, xlate := 0, vacant := 0 }
  ops := []
  nextQ := 0
  undo := []
  held := []
  async := []
  lost := false
  fixed := []
  cue := false
  drain := false
  entry := none
  readyAt := 0
  readyCls := .vacant
  forfeit := 0
  forfeitCls := .vacant
  forfeitQ := 0
  block := none
  xwait := none
  inbox := []
  inPorts := Vector.replicate 8 []
  credits := Vector.replicate 8 8
  token := false
  parkDl := 0
  parkDst := 0
  parkCue := false
  parkAgain := false
  task := none
  accs := []
  rings := Vector.replicate 16 { cfg := 0, head := 0, tail := 0, claim := 0, reserved := 0 }
  mstat := 0
  mstatNew := (0, 0)
  mq := []
  mapped := none
  poll := none
  packet := none
  copies := []
  dbg := { claimed := false, stopReq := none, stopped := false, pending := [], stepping := none, frozen := false, skid := false, brk := 0 }
  swap := none

/-- A memory port with empty buffers. -/
def Port.fresh : Port where
  base := []
  large := []
  wcache := []
  walks := []
  nextWalk := 0

/-- A cluster after module reset. -/
def Cluster.fresh : Cluster where
  gshare := 8
  guestIn := []
  guestQ := []
  wide := []
  rr := 0
  heavyFree := 0
  passed := 0
  unoffered := []
  alarm := false
  alarmAt := none
  warm := false
  temps := []
  squall := false
  sqentry := 0
  arrayFree := 0
  tcc := []
  drecHead := 0
  drecTail := 0
  drec := []
  hist := []
  ready := []
  clearing := []
  blackout := none
  coolSamples := 0

/-- The default rank program (R337). -/
def defaultRank : List Nat :=
  [0x18630094, 0x08C0FFFE, 0x18C600D0, 0x04633220, 0x04661810, 0x18210030, 0x04211910] ++ List.replicate 9 0x3C004000

/-- A die after module reset. -/
def Die.fresh : Die where
  xcache := []
  xqueue := []
  board := []
  outside := []
  rankProg := defaultRank
  inserts := []
  qtab := none
  engines := []
  watches := []
  hits := []
  watchLog := []
  watchCount := 0
  statusBack := 0
  quiescent := []
  dumps := []
  hold := false
  tripped := false
  reqs := []
  nextReq := 0
  traceCount := 0
  reloading := false
  smImage := none
  smLost := []

/-- A queue after cold reset (R386). -/
def Queue.fresh : Queue where
  ring := 0
  logn := 0
  prio := 0
  state := .disabled
  freason := 0
  asid := 0
  root := 0
  rdidx := 0
  wridx := 0
  acycle := 0
  fdetail := 0

/-- The management registers at module reset (R382). -/
def Mgmt.fresh : Mgmt where
  stage := 0
  slot := 0
  flashA := .factory false
  flashB := .factory true
  bFirst := false
  flashBad := (false, false)
  slotA := .untried
  slotB := .untried
  update := 0
  admits := 0
  intrBase := 0
  intrLen := 0
  intrPtr := 0
  portErr := 0
  ident := (List.range 32).map Config.identByte
  modId := Config.moduleId
  updImg := 0
  updLen := 0
  link := 0
  qsel := 0
  qstat := false
  updRec := 0
  intrLost := 0
  sysObj := 0
  sysLen := 0
  sysCtl := 0
  merr := []
  trace := []
  win := []
  mlog := []
  mlogCount := 0
  attest := []
  upload := []
  host := []

/-- The module right after reset: CYCLE 0 (R73), no vcore anywhere, the current turn at slot 0 of core 0 of
cluster 0 of die 0, every table empty. -/
def State.reset : State where
  cycle := 0
  mem := []
  l1d := []
  l2 := []
  me := Strand.fresh 0 .lean 4
  others := []
  agenda := []
  freeCtr := 0
  verdict := none
  turnsOver := false
  ports := []
  clusters := []
  dies := []
  troupes := []
  nextTroupe := 1
  placeQ := []
  placeBusy := 0
  slotFreed := false
  shipMap := []
  scOps := []
  queues := []
  mgmt := Mgmt.fresh
  sysObjs := []
  sysRoot := 0
  poison := []
  dirtyPoison := []
  lostCtx := []
  displaced := []
  updating := none
  toRestore := []
  repair := []
  repairOld := []
  applied := []
  struck := []
  wear := []
  remoteOut := []

end Sys2Proof.Machine
end

