-- ==== Sys2Proof/Machine/Ops.lean ====
section
/-! DEFINITION. The named operations over memory, registers, tables and the agenda, and the one operation that
takes an exception (R71, R201), with its return (R209) and the fatal fault (R221). -/

namespace Sys2Proof.Machine

/-! ### Order -/

/-- `x` put into a sorted list, before the entries that are not below it. -/
def insertBy (le : α → α → Bool) (x : α) : List α → List α
  | [] => [x]
  | y :: l => if le x y then x :: y :: l else y :: insertBy le x l
/-- The list in the order of `le`; entries that `le` does not separate keep their order. -/
def sortBy (le : α → α → Bool) : List α → List α
  | [] => []
  | x :: l => insertBy le x (sortBy le l)

/-! ### Coordinates (R10, R11, R211) -/

/-- The die of an SADDR. -/
def saDie (sa : Nat) : Nat := sa / 32768 % 8
/-- The cluster-in-die index of an SADDR; 15 for a stage manager. -/
def saCluster (sa : Nat) : Nat := sa / 2048 % 16
/-- The core index of an SADDR. -/
def saCore (sa : Nat) : Nat := sa / 32 % 64
/-- The slot of an SADDR. -/
def saSlot (sa : Nat) : Nat := sa % 32
/-- The SADDR of a die, cluster, core and slot (R211). -/
def mkSa (die cl core slot : Nat) : Nat := die * 32768 + cl * 2048 + core * 32 + slot
/-- The package cluster number of a die and a cluster-in-die index (R10). -/
def pkgCluster (die cl : Nat) : Nat := 16 * (3 * (die / 4) + cl / 4) + (4 * (die % 4) + cl % 4)
/-- The die of a package cluster number. -/
def pcDie (p : Nat) : Nat := 4 * (p / 16 / 3) + p % 16 / 4
/-- The cluster-in-die index of a package cluster number. -/
def pcIndex (p : Nat) : Nat := 4 * (p / 16 % 3) + p % 16 % 4
/-- The package cluster number of a strand. -/
def saPkg (sa : Nat) : Nat := pkgCluster (saDie sa) (saCluster sa)
/-- The difference of two numbers, without sign. -/
def absDiff (a b : Nat) : Nat := (a - b) + (b - a)
/-- The cluster hop count (R13). -/
def hops (p r : Nat) : Nat := absDiff (p / 16) (r / 16) + absDiff (p % 16) (r % 16)
/-- The die crossing count (R13). -/
def crossings (p r : Nat) : Nat := absDiff (p / 16 / 3) (r / 16 / 3) + absDiff (p % 16 / 4) (r % 16 / 4)
/-- The die crossings between two dies. -/
def dieCrossings (d e : Nat) : Nat := absDiff (d / 4) (e / 4) + absDiff (d % 4) (e % 4)
/-- The latency between two clusters: 30 + 4·hops + 40·crossings. -/
def routeLatency (p r : Nat) : Nat := 30 + 4 * hops p r + 40 * crossings p r
/-- The path between two dies, or within one (R216, R221). -/
def diePath (d e : Nat) : Nat := 30 + 40 * dieCrossings d e
/-- The channel latency L of R182 between two strands; a stage manager has no place in the cluster grid, so its path is
that of R216. -/
def chanLatency (a b : Nat) : Nat :=
  if a / 32 = b / 32 then 6
  else if saCluster a = 15 ∨ saCluster b = 15 then diePath (saDie a) (saDie b)
  else if saPkg a = saPkg b then 16 else routeLatency (saPkg a) (saPkg b)

/-! ### Memory: one list of bytes over every tier -/

/-- Where global memory begins in `State.mem`: physical addresses are locations (R148). -/
def hbmTop : Nat := 0xC000000000
/-- The location of an offset of a core scratchpad (R141). -/
def coreLoc (core : Nat) (off : Nat) : Nat := 2 ^ 48 + core * 2 ^ 17 + off
/-- The location of an offset of a cluster's shared window (R142). -/
def clusterLoc (pkg : Nat) (off : Nat) : Nat := 2 ^ 49 + pkg * 2 ^ 25 + off
/-- The location of an offset of a die scratchpad. -/
def dieLoc (die : Nat) (off : Nat) : Nat := 2 ^ 50 + die * 2 ^ 25 + off
/-- The number of a strand's core among the cores of the module. -/
def coreNumber (sa : Nat) : Nat := saPkg sa * 64 + saCore sa

/-- The byte at a location; an unlisted one reads 0 (entry 2). -/
def memGet : List Host.Cell → Nat → Byte
  | [], _ => 0
  | (a, b) :: r, x => if a = x then b else if x < a then 0 else memGet r x

/-- Writes a byte, keeping addresses rising and no listed 0. -/
def memPut : List Host.Cell → Nat → Byte → List Host.Cell
  | [], x, v => if v = 0 then [] else [(x, v)]
  | (a, b) :: r, x, v =>
    if x < a then (if v = 0 then (a, b) :: r else (x, v) :: (a, b) :: r)
    else if x = a then (if v = 0 then r else (x, v) :: r)
    else (a, b) :: memPut r x v

/-- The canonical form of memory: strictly rising addresses, no byte equal to what an unlisted address reads as. -/
def Memory.wf : List Host.Cell → Bool
  | [] => true
  | [(_, b)] => b != 0
  | (a, b) :: (a', b') :: r => b != 0 && decide (a < a') && Memory.wf ((a', b') :: r)

/-- The little-endian value of `n` bytes (R5). -/
def memRead (m : List Host.Cell) (loc : Nat) : Nat → Nat
  | 0 => 0
  | n + 1 => (memGet m loc).toNat + 256 * memRead m (loc + 1) n

/-- Writes the low `n` bytes of a value, little-endian (R5). -/
def memWrite (m : List Host.Cell) (loc : Nat) : Nat → Nat → List Host.Cell
  | 0, _ => m
  | n + 1, v => memWrite (memPut m loc (BitVec.ofNat 8 (v % 256))) (loc + 1) n (v / 256)

/-- The `n` bytes at a location. -/
def memBytes (m : List Host.Cell) (loc n : Nat) : List Byte := (List.range n).map (fun i => memGet m (loc + i))

/-- Clears `n` bytes to zero. -/
def memClear (m : List Host.Cell) (loc n : Nat) : List Host.Cell := m.filter (fun c => !(decide (loc ≤ c.1) && decide (c.1 < loc + n)))

/-- Writes a list of bytes. -/
def memPutBytes (m : List Host.Cell) (loc : Nat) : List Byte → List Host.Cell
  | [] => m
  | b :: r => memPutBytes (memPut m loc b) (loc + 1) r

/-- Reads `n` bytes of the module's memory. -/
def State.read (s : State) (loc n : Nat) : Nat := memRead s.mem loc n
/-- Words that are rewritten are no longer poisoned (R391). -/
def State.unpoison (s : State) (loc n : Nat) : State := { s with poison := s.poison.filter (fun p => !(loc ≤ p && p < loc + n)) }
/-- Writes `n` bytes of the module's memory. -/
def State.write (s : State) (loc n v : Nat) : State := { s.unpoison loc n with mem := memWrite s.mem loc n v }
/-- Clears bytes of the module's memory. -/
def State.clear (s : State) (loc n : Nat) : State := { s.unpoison loc n with mem := memClear s.mem loc n }
/-- Writes bytes of the module's memory. -/
def State.writeBytes (s : State) (loc : Nat) (bs : List Byte) : State := { s.unpoison loc bs.length with mem := memPutBytes s.mem loc bs }

/-! ### Registers (R44, R45, R70) -/

/-- s[r]; s0 reads zero. -/
def Strand.getS (m : Strand) (r : SReg) : Word := if r = 0 then 0 else m.regs[r.toNat]
/-- v[r]. -/
def Strand.getV (m : Strand) (r : VReg) : VWord := m.vregs[r.toNat]
/-- k[r]; k0 reads all-ones. -/
def Strand.getK (m : Strand) (r : KReg) : BitVec 16 := if r = 0 then 0xFFFF else m.kregs[r.toNat]
/-- seg[r]. -/
def Strand.getSeg (m : Strand) (r : SegIx) : Seg := m.segs[r.toNat]

/-- An unconfirmed trappable operation is outstanding: younger instructions enter the undo window (R70). -/
def Strand.window (m : Strand) : Bool := m.ops.any (fun o => o.trappable)

/-- Saves an old value in the undo window when the window is open (R70). -/
def Strand.save (m : Strand) (reg : RegName) (old : Word) : Strand :=
  if m.window then { m with undo := { q := m.nextQ, reg := reg, old := old } :: m.undo } else m

/-- Writes s[r] without entering the window. -/
def Strand.pokeS (m : Strand) (r : SReg) (v : Word) : Strand :=
  if r = 0 then m else { m with regs := m.regs.set r.toNat v }
/-- Writes k[r] without entering the window. -/
def Strand.pokeK (m : Strand) (r : KReg) (v : BitVec 16) : Strand :=
  if r = 0 then m else { m with kregs := m.kregs.set r.toNat v }
/-- s[r] := v, saving the old value in the undo window; a write to s0 leaves no trace (R45, R70). -/
def Strand.setS (m : Strand) (r : SReg) (v : Word) : Strand :=
  if r = 0 then m else (m.save (.s r) (m.getS r)).pokeS r v
/-- k[r] := v; a write to k0 leaves no trace. -/
def Strand.setK (m : Strand) (r : KReg) (v : BitVec 16) : Strand :=
  if r = 0 then m else (m.save (.k r) ((m.getK r).setWidth 64)).pokeK r v
/-- v[r] := v: vector registers never enter the window (R70). -/
def Strand.setV (m : Strand) (r : VReg) (v : VWord) : Strand := { m with vregs := m.vregs.set r.toNat v }
/-- seg[r] := g. -/
def Strand.setSeg (m : Strand) (r : SegIx) (g : Seg) : Strand := { m with segs := m.segs.set r.toNat g }

/-- Restores a saved register value. -/
def Strand.restore (m : Strand) (u : Undo) : Strand :=
  match u.reg with
  | .s r => m.pokeS r u.old
  | .k r => m.pokeK r (u.old.setWidth 16)
  | .v _ => m

/-! ### Tables of the state -/

/-- The strand at an SADDR. -/
def State.strand? (s : State) (sa : Nat) : Option Strand := if s.me.sa = sa then some s.me else Tab.get? s.others sa
/-- Changes the strand at an SADDR. -/
def State.modStrand (s : State) (sa : Nat) (f : Strand → Strand) : State :=
  if s.me.sa = sa then { s with me := f s.me } else { s with others := Tab.upd s.others sa f }
/-- Changes the current strand. -/
def State.mod (s : State) (f : Strand → Strand) : State := { s with me := f s.me }
/-- Every strand that the state lists. -/
def State.strands (s : State) : List Strand := s.me :: s.others.map (·.2)
/-- Puts a strand into its slot, listed or not. -/
def State.putStrand (s : State) (m : Strand) : State :=
  if s.me.sa = m.sa then { s with me := m } else { s with others := Tab.put s.others m.sa m }

/-- A cluster, by package cluster number. -/
def State.cluster (s : State) (p : Nat) : Cluster := Tab.getD s.clusters p Cluster.fresh
/-- Changes a cluster. -/
def State.modCluster (s : State) (p : Nat) (f : Cluster → Cluster) : State :=
  { s with clusters := Tab.put s.clusters p (f (s.cluster p)) }
/-- A die. -/
def State.die (s : State) (d : Nat) : Die := Tab.getD s.dies d Die.fresh
/-- Changes a die. -/
def State.modDie (s : State) (d : Nat) (f : Die → Die) : State := { s with dies := Tab.put s.dies d (f (s.die d)) }
/-- A memory port: a cluster's by its number, a stage manager's at 96 + die. -/
def State.port (s : State) (p : Nat) : Port := Tab.getD s.ports p Port.fresh
/-- Changes a port. -/
def State.modPort (s : State) (p : Nat) (f : Port → Port) : State := { s with ports := Tab.put s.ports p (f (s.port p)) }
/-- Changes a live troupe. -/
def State.modTroupe (s : State) (t : Nat) (f : Troupe → Troupe) : State := { s with troupes := Tab.upd s.troupes t f }
/-- A live troupe. -/
def State.troupe? (s : State) (t : Nat) : Option Troupe := Tab.get? s.troupes t
/-- A queue descriptor. -/
def State.queue (s : State) (q : Nat) : Queue := Tab.getD s.queues q Queue.fresh
/-- The running firmware image (R387). -/
def State.image (s : State) : Image := if s.mgmt.slot = 2 then s.mgmt.flashB else s.mgmt.flashA
/-- The die of a queue (R332). -/
def queueDie (q : Nat) : Nat := q / 16384
/-- The physical address of a queue's descriptor. -/
def State.queueAddr (s : State) (q : Nat) : Nat := ((s.die (queueDie q)).qtab.getD 0) + 64 * (q % 16384)
/-- The 64 bytes of a queue descriptor (R332). -/
def Queue.bytes (q : Queue) : List Byte :=
  let st : Nat := match q.state with | .disabled => 0 | .idle => 1 | .ready => 2 | .mapped => 3 | .faulted => 4
  natBytes 8 q.ring.toNat ++ natBytes 1 q.logn.toNat ++ natBytes 1 q.prio.toNat ++ natBytes 1 st ++ natBytes 1 q.freason.toNat ++
  natBytes 4 q.asid.toNat ++ natBytes 8 q.root.toNat ++ natBytes 8 q.rdidx.toNat ++ natBytes 8 q.wridx.toNat ++ natBytes 8 q.acycle.toNat ++
  natBytes 8 q.fdetail.toNat ++ natBytes 8 0
/-- What the die's queue table takes of a descriptor: its bytes, once Stage B has set the base of the table (R332). -/
def State.tableBytes (s : State) (q : Nat) (x : Queue) : List Byte := if (s.die (queueDie q)).qtab.isSome then x.bytes else []
/-- Changes a queue descriptor, and with it its bytes in the die's queue table. -/
def State.modQueue (s : State) (q : Nat) (f : Queue → Queue) : State :=
  let x := f (s.queue q)
  { s.writeBytes (s.queueAddr q) (s.tableBytes q x) with queues := Tab.put s.queues q x }
/-- The memory port of a strand (R149). -/
def Strand.port (m : Strand) : Nat := match m.kind with | .sm => 96 + saDie m.sa | _ => saPkg m.sa
/-- The die of a port. -/
def portDie (p : Nat) : Nat := if p < 96 then pcDie p else p - 96

/-- Puts an event on the agenda behind those due in the same cycle. -/
def insertEvent (due : Nat) (e : Instr) : List (Nat × Instr) → List (Nat × Instr)
  | [] => [(due, e)]
  | (d, x) :: r => if due < d then (due, e) :: (d, x) :: r else (d, x) :: insertEvent due e r
/-- An event comes about `n` cycles from now. -/
def State.after (s : State) (n : Nat) (e : Instr) : State := { s with agenda := insertEvent (s.cycle + n) e s.agenda }
/-- An event comes about in a cycle, or now if that has passed. -/
def State.atCycle (s : State) (c : Nat) (e : Instr) : State :=
  { s with agenda := insertEvent (if c < s.cycle then s.cycle else c) e s.agenda }
/-- `n` bytes that the spec leaves undefined, as one number. -/
def freeBytes (k n : Nat) : Nat := bytesNat ((List.range n).map (fun i => Config.freeByte (k + i))) 0 n
/-- The number of the next free value. -/
def State.bump (s : State) (n : Nat) : State := { s with freeCtr := s.freeCtr + n }

/-! ### The end of an instruction -/

/-- The instruction of `n` bytes has issued: PC moves past it, program order counts on, and the cue bit starts its wait (R68). -/
def Strand.retire (m : Strand) (n : Nat) (c : Bool) : Strand :=
  { m with pc := m.pc + BitVec.ofNat 64 n, nextQ := m.nextQ + 1, cue := m.cue || c }
/-- A control transfer to `t`: the next instruction is fetched at a fresh entry (R64, R317); a heavy strand issues no earlier than 4 cycles later (R226). -/
def Strand.goto (m : Strand) (cycle : Nat) (t : Word) (c : Bool) : Strand :=
  { m with pc := t, nextQ := m.nextQ + 1, cue := m.cue || c, block := none,
           readyAt := match m.kind with | .heavy => cycle + 4 | _ => m.readyAt
           readyCls := .mem }

/-- The strand writes s[d] and goes on past an instruction of `n` bytes. -/
def State.finS (s : State) (d : SReg) (v : Word) (n : Nat) (c : Bool) : State := s.mod (fun m => (m.setS d v).retire n c)
/-- The strand goes on past an instruction of `n` bytes. -/
def State.fin (s : State) (n : Nat) (c : Bool) : State := s.mod (fun m => m.retire n c)

/-! ### Taking an exception -/

/-- The code of a cause (R199). -/
def Cause.code : Cause → BitVec 8
  | .illegal => 0x01 | .privileged => 0x02 | .segLimit => 0x03 | .segRights => 0x04 | .misaligned => 0x05
  | .pageUnmapped => 0x06 | .pageRights => 0x07 | .pageCluster => 0x08 | .regionViolation => 0x09
  | .fpInvalid => 0x0A | .fpDivzero => 0x0B | .fpOverflow => 0x0C | .fpUnderflow => 0x0D | .fpInexact => 0x0E
  | .intDivzero => 0x0F | .breakpoint => 0x10 | .watchpoint => 0x11 | .singleStep => 0x12
  | .channelUnbound => 0x13 | .ringFault => 0x14 | .taskTimestamp => 0x15 | .taskState => 0x16
  | .troupeQuiescent => 0x17 | .machineCheck => 0x18 | .codeFetch => 0x19 | .shipUnavailable => 0x1A | .syscall => 0x1B

/-- The service of a cluster's ship map: the serving package cluster, or none (R230). -/
def State.shipTarget (s : State) (p : Nat) : Option Nat :=
  match Tab.get? s.shipMap p with
  | none => some p
  | some e => if e.toNat < 128 then none else some (pkgCluster (e.toNat / 16 % 8) (e.toNat % 16))
/-- The network time N between a cluster and its serving heavy core (R229, R230). -/
def shipNet (p r : Nat) : Nat := if p = r then 8 else 8 + 4 * hops p r + 40 * crossings p r

/-- Undo entries that no older unconfirmed operation needs are dropped (R70). -/
def Strand.prune (m : Strand) : Strand :=
  { m with undo := m.undo.filter (fun u => m.ops.any (fun o => o.trappable && o.q ≤ u.q)) }

/-- A claimed BRK whose stop is not complete has not issued (R208, R374). -/
def DebugState.unclaim (d : DebugState) : DebugState := if d.stopReq = some 4 then { d with stopReq := none } else d

/-- An asynchronous trap whose handler waits is undone with an instruction that issued before it: it is held again, and the trap registers are as
they were (R203, entry 55 of the log). -/
def Strand.undoEntry (m : Strand) (q : Nat) : Strand :=
  match m.entry with
  | none => m
  | some e =>
    if q < e.q then
      { m with entry := none, drain := false, h := false, async := (e.cause, e.addr) :: m.async, trapPc := e.trapPc, trapCause := e.trapCause,
               trapAddr := e.trapAddr, trapInfo := e.trapInfo }
    else m
/-- Steps 1 to 4 of R71 for the instruction `q`: saved values are restored youngest first, the flags go back, the
held stores and younger operations are dropped, marks that younger dequeues made are cleared (R185), and a claimed BRK that waits in the window has not
issued (R208, R374). -/
def Strand.rollback (m : Strand) (q : Nat) (flags : Flags) : Strand :=
  let m1 := (m.undo.filter (fun u => q ≤ u.q)).foldl Strand.restore (m.undoEntry q)
  let unmark : Option Nat → Option Nat := fun t => match t with | some k => if q ≤ k then none else some k | none => none
  { m1 with
    undo := m.undo.filter (fun u => u.q < q)
    flags := flags
    ops := m.ops.filter (fun o => o.q < q)
    held := m.held.filter (fun h => h.q < q)
    fixed := m.fixed.filter (fun f => f.q < q)
    inbox := m.inbox.map (fun e => { e with taken := unmark e.taken })
    inPorts := m.inPorts.map (fun l => l.map (fun e => { e with taken := unmark e.taken }))
    forfeit := if q ≤ m.forfeitQ then 0 else m.forfeit
    readyAt := if (decide (q ≤ m.forfeitQ) && m.readyCls == .vacant) || m.entry.any (fun e => decide (q < e.q)) then 0 else m.readyAt
    cue := false
    dbg := m.dbg.unclaim
    block := none }

/-- The squash notices that go back along the ship path for the shipped operations from `q` on (R235). -/
def State.squash (s : State) (m : Strand) (q : Nat) : State :=
  m.ops.foldl (fun t o => match o.what with
    | .ship _ r => if q ≤ o.q then t.after (shipNet (saPkg m.sa) r.core) (.squashNotice r.core m.sa o.q) else t
    | _ => t) s

/-- The state of the strand's current task, if it runs one. -/
def State.taskOf (s : State) (m : Strand) : Option (Nat × Task) :=
  match m.task with
  | none => none
  | some id => match s.troupe? m.troupe with
    | none => none
    | some tr => match Tab.get? tr.tasks id with
      | none => none
      | some k => some (id, k)
/-- The strand runs a speculative task (R293). -/
def State.speculative (s : State) (m : Strand) : Bool :=
  match s.taskOf m with | some (_, k) => k.state == .running | none => false

/-- Changes a task of a troupe. -/
def State.modTask (s : State) (tr id : Nat) (f : Task → Task) : State :=
  s.modTroupe tr (fun t => { t with tasks := Tab.upd t.tasks id f })

/-- A host interrupt: a record of source, die, value and CYCLE goes into the host's ring; a full ring drops it (R381). -/
def State.interrupt (s : State) (source die value : Nat) : State :=
  let g := s.mgmt
  let len := g.intrLen.toNat
  let head := g.intrPtr.toNat % 2 ^ 32
  let tail := g.intrPtr.toNat / 2 ^ 32
  if len = 0 then s
  else if len ≤ (tail + 2 ^ 32 - head) % 2 ^ 32 then { s with mgmt := { g with intrLost := g.intrLost + 1 } }
  else
    let r := (g.intrBase.toNat + 16 * (tail % len), BitVec.ofNat 64 (source * 2 ^ 56 + die * 2 ^ 48 + value % 2 ^ 48), BitVec.ofNat 64 s.cycle)
    let p : Word := BitVec.ofNat 64 (head + (tail + 1) % 2 ^ 32 * 2 ^ 32)
    { s with mgmt := { g with host := g.host ++ [r], intrPtr := p } }

/-- A packet finishes: with NOTIFY the host is told (R334, R381). -/
def State.packetDone (s : State) (p : Packet) : State := if p.notify then s.interrupt 1 (queueDie p.queue % 8) p.queue else s
/-- A fatal fault of a strand: it issues nothing more, and its report goes to the launching die's stage manager
(R221). A stage-manager strand's own fault holds its die (R222). -/
def State.fatal (s : State) (sa : Nat) (rec : FaultRec) : State :=
  match s.strand? sa with
  | none => s
  | some m =>
    let s1 := s.modStrand sa (fun x => { x with run := .dead, block := none })
    match m.kind with
    | .sm =>
      let d := saDie sa
      (s1.modDie d (fun x => { x with hold := true })).interrupt 4 d 0
    | _ =>
      match s.troupe? m.troupe with
      | none => s1
      | some tr =>
        (s1.modTroupe m.troupe (fun t => { t with reports := t.reports ++ [rec] })).after
          (diePath (saDie sa) (saDie tr.launcher)) (.fatalReport m.troupe)

/-- The fault record of a strand for a cause (R223). -/
def Strand.faultRec (m : Strand) (cycle : Nat) (reason : Nat) : FaultRec :=
  { cycle := cycle, pc := m.trapPc, addr := m.trapAddr, vcid := m.vcid, sa := m.sa, info := m.trapInfo,
    cause := m.trapCause, reason := reason }

/-- The trap registers are written (R201). -/
def Strand.trapRegs (m : Strand) (pc : Word) (cause : Cause) (addr : Word) (info : BitVec 24) : Strand :=
  { m with trapPc := pc, trapCause := cause.code, trapAddr := addr, trapInfo := info }

/-- A PARK that waits is left when its strand takes a trap. -/
def Run.unparked : Run → Run
  | .parked => .active
  | r => r

/-- R201: the trap registers are written; with TVEC = 0, H = 1 or a lost context the trap is fatal; otherwise H is
set, fetching goes through TRAPSEG, PC := TVEC, and the handler's first instruction issues at D + 4 or later; a PARK that waits is left. Of the
REASONs of R223 a machine check with H = 1 gives 3, and H = 1 with TVEC = 0 gives 2 (entry 63 of the log). -/
def State.vector (s : State) (sa : Nat) (pc : Word) (cause : Cause) (addr : Word) (info : BitVec 24) (lost : Bool) : State :=
  match s.strand? sa with
  | none => s
  | some m =>
    let m1 := m.trapRegs pc cause addr info
    if m.tvec = 0 ∨ m.h = true ∨ lost = true then
      let reason := if lost then 3 else if m.h then (if cause = .machineCheck then 3 else 2) else 1
      (s.modStrand sa (fun _ => m1)).fatal sa (m1.faultRec s.cycle reason)
    else
      (s.modPort m.port (fun p => { p with walks := p.walks.filter (fun w => !(w.failed && w.who == .strand sa)) })).modStrand sa
        (fun _ => { m1 with dbg := m.dbg.unclaim, h := true, pc := m.tvec, block := none, forfeit := 0, xwait := none, poll := none, nextQ := m.nextQ + 1, readyAt := s.cycle + 4,
                            readyCls := .xlate, run := m.run.unparked, parkAgain := false })

/-- The SC announcements of a strand whose operations are discarded vanish (R172). -/
def State.dropSc (s : State) (sa : Nat) : State := { s with scOps := s.scOps.filter (fun o => o.sa != sa) }
/-- The fixed-latency results of a strand that are not available yet. -/
def Strand.pendingFixed (m : Strand) (cycle : Nat) : List Fixed := m.fixed.filter (fun f => decide (cycle < f.due))
/-- A precise trap of an instruction of a speculative task stops the task with the cause pending; its strand becomes
idle 24 cycles later (R305). -/
def State.stopTask (s : State) (sa : Nat) (id : Nat) (tr : Nat) : State :=
  let s1 := s.modTask tr id (fun k => { k with state := .stopped, worker := none })
  let u := match s.troupe? tr with
    | some t => ((Tab.get? t.tasks id).map (·.unit)).getD 0
    | none => 0
  ((s1.modStrand sa (fun m => { m with run := .idle, task := none, h := false, readyAt := s.cycle + 24, block := none,
                                       ops := [], undo := [], held := [], fixed := [], cue := false })).dropSc sa).after 24 (.taskDispatch tr u)

/-- The oldest held exception, if every older trappable operation is confirmed (R71). -/
def Strand.deliverable (m : Strand) : Option Held :=
  match m.held with
  | [] => none
  | h :: _ => if m.ops.any (fun o => o.trappable && o.q < h.q) then none else some h

/-- Steps 1 to 4 of R71 at a strand for its instruction `q`; its SC announcements vanish with it. -/
def State.undo (s : State) (m : Strand) (q : Nat) (flags : Flags) : State :=
  let s1 := (s.squash m q).modStrand m.sa (fun x => x.rollback q flags)
  { s1 with scOps := s1.scOps.filter (fun o => !(o.sa == m.sa && q ≤ o.q)) }

/-- A precise trap is taken (R201); one of a speculative task stops the task instead (R305). -/
def State.takePrecise (s : State) (m : Strand) (pc : Word) (cause : Cause) (addr : Word) (info : BitVec 24) : State :=
  match s.taskOf m with
  | some (id, k) => if k.state = .running then s.stopTask m.sa id m.troupe else s.vector m.sa pc cause addr info false
  | none => s.vector m.sa pc cause addr info false
/-- Delivers the oldest held exception of a strand, if it is deliverable: steps 1 to 4 of R71, then the trap; a strand with a fatal fault takes no
other (R221). -/
def State.deliver (s : State) (sa : Nat) : State :=
  match s.strand? sa with
  | none => s
  | some m =>
    match m.deliverable with
    | none => s
    | some h => if m.run = .dead then s.undo m h.q h.flags else (s.undo m h.q h.flags).takePrecise m h.pc h.cause h.addr h.info

/-- Holds an exception of a strand in program order. -/
def insertHeld (h : Held) : List Held → List Held
  | [] => [h]
  | x :: r => if h.q < x.q then h :: x :: r else x :: insertHeld h r

/-- An exception of instruction `q`: it is held, and delivered at once if nothing older is unconfirmed (R71). -/
def State.except (s : State) (sa : Nat) (h : Held) : State :=
  (s.modStrand sa (fun m => { m with held := insertHeld h m.held })).deliver sa

/-- A trap raised at issue by the current instruction (R71). -/
def State.raise (s : State) (cause : Cause) (addr : Word) : State :=
  s.except s.me.sa { q := s.me.nextQ, pc := s.me.pc, cause := cause, addr := addr, info := 0, flags := s.me.flags }

/-- The answer of an instruction that raises a trap. -/
def State.trap (s : State) (cause : Cause) (addr : Word) : Out := .next (s.raise cause addr)

/-- TRET's effect: H := 0, fetching goes through CODESEG, PC := TRAPPC, next issue 4 cycles later (R209). -/
def Strand.tret (m : Strand) (cycle : Nat) (c : Bool) : Strand :=
  { m with h := false, pc := m.trapPc, nextQ := m.nextQ + 1, cue := m.cue || c, block := none, readyAt := cycle + 4, readyCls := .mem }

/-! ### Privilege (R41) -/

/-- The code segment the strand fetches through (R200, R314). -/
def Strand.code (m : Strand) : Seg := if m.h then m.trapSeg else m.codeSeg
/-- The system bit of the current code segment. -/
def Strand.system (m : Strand) : Bool := m.code.desc.getLsbD 48

/-- The instruction words as TRAPADDR holds them (R42). -/
def words (w w1 : Nat) : Word := BitVec.ofNat 64 (w + w1 * 2 ^ 32)

/-- Steps 3 and 4 of R41 for a system-class encoding that the kinds `ok` execute: PRIVILEGED outside system code, then
ILLEGAL on another kind of strand. -/
def State.gate (s : State) (w : Word) (sys : Bool) (ok : Kind → Bool) (body : Out) : Out :=
  if sys && !s.me.system then s.trap .privileged w
  else if !ok s.me.kind then s.trap .illegal w
  else body

/-- Every kind of strand. -/
def anyKind : Kind → Bool := fun _ => true
/-- Lean and heavy strands. -/
def vcoreKind : Kind → Bool | .sm => false | _ => true
/-- Heavy strands. -/
def heavyKind : Kind → Bool | .heavy => true | _ => false
/-- Stage-manager strands. -/
def smKind : Kind → Bool | .sm => true | _ => false

/-! ### Where a global access finds its line (R14, R15, R151) -/

/-- The base die of a physical address (R148). -/
def baseDie (pa : Nat) : Nat := pa / 0x1800000000
/-- The latency of the L2 slice of a line: the home slice of a coherent line, the own die's of any other. -/
def globalLatency (die pa : Nat) (region : Region) : Nat :=
  if region == .coherent && baseDie pa != die then 96 else 44
/-- The latency of the LLC. -/
def llcLatency (die pa : Nat) : Nat := if baseDie pa = die then 170 else 230
/-- The latency of the level at or below the L2 that holds a line; which one it is, is free. -/
def tierLatency (die pa : Nat) (region : Region) (k : Nat) : Nat :=
  if Config.freeBool k then globalLatency die pa region
  else if Config.freeBool (k + 1) then llcLatency die pa
  else llcLatency die pa + 250
/-- The latency of the level that holds a line, the L1D among them where `l1`. -/
def levelLatency (die pa : Nat) (region : Region) (l1 : Bool) (k : Nat) : Nat :=
  if l1 && Config.freeBool k then 6 else tierLatency die pa region (k + 1)

end Sys2Proof.Machine
end

