-- ==== Sys2Proof/Machine/Operands.lean ====
section
/-! DEFINITION. Operand forms: immediates, bit fields, segment registers and the segment check (R57, R78, R85,
R140, R143), and the state registers (R73 to R75). -/

namespace Sys2Proof.Machine

/-- A sign-extended immediate. -/
def sx {n : Nat} (i : BitVec n) : Word := i.signExtend 64
/-- A zero-extended immediate. -/
def zx {n : Nat} (i : BitVec n) : Word := i.setWidth 64
/-- A branch displacement in bytes: words, sign-extended, times 4 (R86, R87). -/
def disp {n : Nat} (i : BitVec n) : Word := sx i * 4
/-- 1 or 0 as a register value. -/
def ofBool (b : Bool) : Word := if b then 1 else 0

/-- pos and len of a bit-field specification (R78). -/
def fieldPos (y : Word) : Nat := y.toNat % 64
def fieldLen (y : Word) : Nat := y.toNat / 256 % 64 + 1

/-! ### Segments (R140 to R144) -/

/-- KIND of a segment. -/
def Seg.kind (g : Seg) : Nat := g.desc.toNat / 2 ^ 44 % 16
/-- SYS. -/
def Seg.sys (g : Seg) : Bool := g.desc.getLsbD 48
/-- X: consulted only for the code segment. -/
def Seg.x (g : Seg) : Bool := g.desc.getLsbD 43
/-- W. -/
def Seg.w (g : Seg) : Bool := g.desc.getLsbD 42
/-- RD. -/
def Seg.rd (g : Seg) : Bool := g.desc.getLsbD 41
/-- LENGTH in bytes. -/
def Seg.length (g : Seg) : Nat := g.desc.toNat % 2 ^ 41
/-- The reserved bits of word 1. -/
def Seg.reserved (g : Seg) : Nat := g.desc.toNat / 2 ^ 49
/-- The size of the address space of a tier; 0 for a kind that has none. -/
def tierSize (kind : Nat) : Nat :=
  match kind with
  | 1 => 2 ^ 57
  | 2 => 128 * 1024
  | 3 => 19 * 1024 * 1024
  | 4 => 32 * 1024 * 1024
  | _ => 0
/-- What a launch or SETSEG accepts (R140): reserved bits clear, KIND assigned, and the range inside the tier. -/
def Seg.valid (g : Seg) : Bool :=
  g.reserved == 0 && decide (g.kind ≤ 4) && (g.kind == 0 || decide (g.base.toNat + g.length ≤ tierSize g.kind))

/-- The tiers that a kind of strand reaches (R141). -/
def reaches (k : Kind) (kind : Nat) : Bool :=
  match kind with
  | 1 => true
  | 2 => k == .lean
  | 3 => k != .sm
  | 4 => true
  | _ => false

/-- The outcome of a check. -/
inductive Chk where
  | ok (addr : Nat)
  | bad (cause : Cause) (addr : Word)
deriving DecidableEq, Repr

/-- The access reaches the control page of a die scratchpad, which only a segment with SYS = 1 does (R349). -/
def controlPage (g : Seg) (addr size : Nat) : Bool := g.kind == 4 && !g.sys && decide (0x1FF0000 < addr + size) && decide (addr < 0x2000000)
/-- The segment check of R143, in its order; `off` is already cut to 64 bits. What a segment with SYS = 0 does not reach is a matter of rights
(R349, entry 32 of the log). -/
def segCheck (m : Strand) (g : Seg) (rd wr : Bool) (off : Word) (size align : Nat) : Chk :=
  if g.kind = 0 ∨ reaches m.kind g.kind = false then .bad .segRights off
  else if g.sys = true ∧ m.system = false then .bad .segRights off
  else if (rd = true ∧ g.rd = false) ∨ (wr = true ∧ g.w = false) then .bad .segRights off
  else if g.length < off.toNat + size then .bad .segLimit off
  else if controlPage g (g.base.toNat + off.toNat) size = true then .bad .segRights off
  else
    let addr := g.base.toNat + off.toNat
    if addr % align ≠ 0 then .bad .misaligned (BitVec.ofNat 64 addr) else .ok addr

/-- The location of an address of a segment of KIND 2, 3 or 4 (R141, R142). -/
def localLoc (m : Strand) (kind addr : Nat) : Nat :=
  match kind with
  | 2 => coreLoc (coreNumber m.sa) addr
  | 3 => clusterLoc (saPkg m.sa) addr
  | _ => dieLoc (saDie m.sa) addr

/-! ### State registers (R73 to R75) -/

/-- The matrix operation at the head of a strand's queue that waits on a ring with no available slot: that ring
(R257, R270). -/
def ringShort (m : Strand) (r : RingIx) (need : Nat) : Bool :=
  let g := m.rings[r.toNat]
  (g.tail - g.claim).toNat < need
/-- The slots a matrix operation needs, by ring (R259, R265). -/
def matNeeds (w : MatWhat) : List (RingIx × Nat) :=
  match w with
  | .mma _ a b _ _ _ _ => if a = b then [(a, 2)] else [(a, 1), (b, 1)]
  | .mmag _ a b _ _ _ _ g rows _ =>
    let n := ((rows.take g).filter (fun r => decide (0 < r))).length
    if a = b then [(a, 1 + n)] else [(a, 1), (b, n)]
  | .mzero _ => []
  | .maccst _ _ _ _ _ _ _ _ => []
  | .maccld _ _ _ _ _ _ _ => []
/-- BLOCKRING: the first ring that the strand's waiting head lacks slots of. -/
def blockRing (m : Strand) : Option RingIx :=
  match m.mq.filter (fun o => o.started.isNone) with
  | [] => none
  | o :: _ => if o.entered.isNone then none else ((matNeeds o.what).find? (fun p => ringShort m p.1 p.2)).map (·.1)

/-- The sticky bits of MSTAT as they are read in a cycle: without those of operations that retire in it (R271). -/
def Strand.sticky (m : Strand) (cycle : Nat) : BitVec 7 := if m.mstatNew.1 < cycle then m.mstat ||| m.mstatNew.2 else m.mstat
/-- Conditions are ORed into MSTAT in a cycle. -/
def Strand.orSticky (m : Strand) (cycle : Nat) (bits : BitVec 7) : Strand :=
  { m with mstat := m.sticky cycle, mstatNew := (cycle, if m.mstatNew.1 < cycle then bits else m.mstatNew.2 ||| bits) }
/-- The sticky bits that MSTAT has: bit 3 is always 0 (R270). -/
def stickyBits : BitVec 7 := 0x77
/-- MSTAT of a heavy strand (R270). -/
def mstatOf (s : State) (m : Strand) : Word :=
  let cl := s.cluster (saPkg m.sa)
  let blk := match blockRing m with
    | some r => r.toNat * 2 ^ 36 + 2 ^ 35
    | none => 0
  BitVec.ofNat 64 (m.mq.length * 2 ^ 40 + blk + cl.sqentry.toNat * 2 ^ 16 +
    (if cl.squall then 2 ^ 15 else 0) + (m.sticky s.cycle &&& stickyBits).toNat)

/-- A task is unfinished (R297); one that an abort has hit is, too. -/
def Task.unfinished (k : Task) : Bool := k.state != .finished || k.doomed || k.ending.isSome
/-- The strand's troupe is an ordered-task troupe with an unfinished or queued task. -/
def State.hasFront (s : State) (m : Strand) : Bool :=
  match s.troupe? m.troupe with
  | none => false
  | some t => t.tasks.any (fun k => k.2.unfinished)
/-- The published frontier that CFRONT reads; all-ones outside an ordered-task troupe or with no unfinished or queued task (R75, R297). -/
def frontOf (s : State) (m : Strand) : Word × BitVec 32 :=
  match s.troupe? m.troupe with
  | none => (BitVec.allOnes 64, BitVec.allOnes 32)
  | some t => if s.hasFront m then t.front else (BitVec.allOnes 64, BitVec.allOnes 32)

/-- PART, TTED and CED (R74); the translation-table edition belongs to the firmware image. -/
def xrev (tted : BitVec 16) : BitVec 32 := BitVec.ofNat 32 (0x03 * 2 ^ 24 + tted.toNat * 2 ^ 8 + 3)

/-- CORE, CLUSTER, DIE and SLOT are read from the SADDR (R11). -/
def readSr (s : State) (m : Strand) (r : Sr) : Word :=
  match r with
  | .cycle => BitVec.ofNat 64 s.cycle
  | .vcid => BitVec.ofNat 64 m.vcid
  | .troupe => BitVec.ofNat 64 m.troupe
  | .core => BitVec.ofNat 64 (saCore m.sa)
  | .cluster => BitVec.ofNat 64 (saCluster m.sa)
  | .die => BitVec.ofNat 64 (saDie m.sa)
  | .slot => BitVec.ofNat 64 (saSlot m.sa)
  | .width => BitVec.ofNat 64 m.width
  | .fctl => zx m.fctl
  | .fflags => zx m.flags.fflags
  | .vstat => zx m.flags.vstat
  | .srseed => zx m.flags.srseed
  | .tvec => m.tvec
  | .trappc => m.trapPc
  | .trapcause => zx m.trapCause
  | .trapaddr => m.trapAddr
  | .trapinfo => zx m.trapInfo
  | .cfront => (frontOf s m).1
  | .cfrontid => zx (if s.hasFront m then m.frontLatch else BitVec.allOnes 32)
  | .tkey => match s.taskOf m with | some (_, k) => k.t | none => BitVec.allOnes 64
  | .tkeyid => match m.task with | some id => BitVec.ofNat 64 id | none => zx (BitVec.allOnes 32)
  | .gshare => zx (s.cluster (saPkg m.sa)).gshare
  | .mstat => mstatOf s m
  | .xrev => zx (xrev (Config.imageTted s.image))
  | .inboxn => BitVec.ofNat 64 (m.inbox.filter (fun e => e.taken.isNone)).length
  | .cnissued => BitVec.ofNat 64 m.census.issued
  | .cnmem => BitVec.ofNat 64 m.census.mem
  | .cnship => BitVec.ofNat 64 m.census.ship
  | .cnmsg => BitVec.ofNat 64 m.census.msg
  | .cnxlate => BitVec.ofNat 64 m.census.xlate
  | .cnvacant => BitVec.ofNat 64 m.census.vacant

/-- TRAPINFO as it is stored: with SHIPPED = 0 its other bits read zero (R74). -/
def trapInfoOf (v : BitVec 24) : BitVec 24 := if v.getLsbD 0 then v else 0
/-- A state register of the current strand written within its writable bits (R73, R74); a read-only one is unchanged. -/
def writeSr (s : State) (r : Sr) (v : Word) : State :=
  match r with
  | .fctl => s.mod (fun m => { m with fctl := v.setWidth 10 })
  | .fflags => s.mod (fun m => { m with flags := { m.flags with fflags := v.setWidth 5 } })
  | .vstat => s.mod (fun m => { m with flags := { m.flags with vstat := v.setWidth 2 } })
  | .srseed => s.mod (fun m => { m with flags := { m.flags with srseed := if v.setWidth 32 = (0 : BitVec 32) then 1 else v.setWidth 32 } })
  | .tvec => s.mod (fun m => { m with tvec := v &&& ~~~3 })
  | .trappc => s.mod (fun m => { m with trapPc := v })
  | .trapcause => s.mod (fun m => { m with trapCause := v.setWidth 8 })
  | .trapaddr => s.mod (fun m => { m with trapAddr := v })
  | .trapinfo => s.mod (fun m => { m with trapInfo := trapInfoOf (v.setWidth 24) })
  | .gshare => s.modCluster (saPkg s.me.sa) (fun c =>
      { c with gshare := if v.toNat % 32 > 16 then 16 else v.setWidth 5 })
  | .cnissued => s.mod (fun m => { m with census := { m.census with issued := v.toNat } })
  | .cnmem => s.mod (fun m => { m with census := { m.census with mem := v.toNat } })
  | .cnship => s.mod (fun m => { m with census := { m.census with ship := v.toNat } })
  | .cnmsg => s.mod (fun m => { m with census := { m.census with msg := v.toNat } })
  | .cnxlate => s.mod (fun m => { m with census := { m.census with xlate := v.toNat } })
  | .cnvacant => s.mod (fun m => { m with census := { m.census with vacant := v.toNat } })
  | .cycle => s | .vcid => s | .troupe => s | .core => s | .cluster => s | .die => s | .slot => s | .width => s
  | .cfront => s | .cfrontid => s | .tkey => s | .tkeyid => s | .mstat => s | .xrev => s | .inboxn => s

end Sys2Proof.Machine
end

