-- ==== Sys2Proof/Machine/Watch.lean ====
section
/-! DEFINITION. Watchpoint comparators and poisoned words, as the accesses meet them (R375, R378, R391). -/

namespace Sys2Proof.Machine

/-- The LLC slice of a physical address on its base die (R148). -/
def llcSlice (pa : Nat) : Nat := (pa - baseDie pa * 0x1800000000) / 256 % 64
/-- The L2 slice of a line on whichever die caches it (R148). -/
def l2Slice (pa : Nat) : Nat := pa / 128 % 128
/-- The context identifier of a vcore (R214). -/
def cidOf (troupe vcid : Nat) : Nat := troupe % 2 ^ 32 * 2 ^ 32 + vcid % 2 ^ 32
/-- The CID of the vcore a strand holds; a stage-manager strand, which holds none, goes by its SADDR in troupe 0. -/
def Strand.cid (m : Strand) : Nat := match m.kind with | .sm => cidOf 0 m.sa | _ => cidOf m.troupe m.vcid

/-- How an access reaches the slices. -/
inductive Reach where
  /-- a load of a page that is not private, which an L1D may serve -/
  | load
  /-- a load of a private line that the L1D does not hold, and whether its die's L2 does -/
  | fill (held : Bool)
  /-- a store of a strand -/
  | store
  /-- performed at the slice itself: an atomic, a copy, a commit, a link -/
  | slice
  /-- the write-back of a dirty line to the LLC by FLUSHL, INVL or CODESYNC -/
  | back
deriving DecidableEq, Repr

/-- Whether the access reaches a comparator of the watch, where the model's state says; otherwise the contents of caches, which the spec
does not fix, decide (R151, R375). -/
def Reach.certain (r : Reach) (region : Region) (die : Nat) (w : Watch) : Option Bool :=
  match r with
  | .slice => if region == .coherent || die == w.l2 / 128 then some true else none
  | .store => some (region == .coherent)
  | .load => none
  | .fill held => some (die == w.l2 / 128 || !held)
  | .back => some true

/-- One watch of die `d` at handle `k` meets an access of `size` bytes whose first byte in its range is `hit`, and whose result or acknowledgement
reaches its requester `wait` cycles from now, in cycle R; the hit goes to the log and to the owner R + 40 + 40·c later. -/
def State.watchOne (s : State) (d k : Nat) (w : Watch) (hit : Option Nat) (size : Nat) (rd wr : Bool) (region : Region) (reach : Reach)
    (reqDie cls loc wait : Nat) : State :=
  match hit with
  | none => s
  | some first =>
    if !((rd && w.rd) || (wr && w.wr)) then s
    else
      let sure := reach.certain region reqDie w
      let seen := sure.getD (Config.freeBool s.freeCtr)
      let s1 := if sure.isSome then s else s.bump 1
      if seen = false then s1
      else
        let owner := s1.strands.find? (fun m => m.run != .vacant && m.cid == w.owner)
        let sliceDie := if region == .coherent then baseDie first else reqDie
        let c := match owner with | some m => dieCrossings sliceDie (saDie m.sa) | none => 0
        let at_ := s1.cycle + wait + 40 + 40 * c
        let rec_ := natBytes 8 (s1.cycle + wait) ++ natBytes 8 first ++ natBytes 2 (256 * d + k) ++
          natBytes 1 ((if wr then 1 else 0) + (if rd then 2 else 0) + Nat.log2 size * 4) ++ natBytes 1 cls ++ natBytes 4 loc ++
          natBytes 8 0
        (s1.modDie d (fun x => { x with hits := x.hits ++
          [{ at_ := at_, owner := w.owner, addr := BitVec.ofNat 64 (w.va + (first - w.pa)), record := rec_ }] })).atCycle at_ (.watchpointReport d)

/-- The first byte of a range that a watch covers. -/
def Watch.first (w : Watch) (pa size : Nat) : Option Nat :=
  if w.pa + w.size ≤ pa ∨ pa + size ≤ w.pa then none else some (if pa < w.pa then w.pa else pa)
/-- The first byte of some ranges that a watch covers. -/
def Watch.firstOf (w : Watch) (ranges : List (Nat × Nat)) : Option Nat :=
  (ranges.filterMap (fun r => w.first r.1 r.2)).foldl (fun b x => match b with | none => some x | some y => some (if x < y then x else y)) none
/-- One access of `size` bytes to some ranges, answered `wait` cycles from now, meets every armed watch of the module. -/
def State.watchSet (s : State) (ranges : List (Nat × Nat)) (size : Nat) (rd wr : Bool) (region : Region) (reach : Reach)
    (reqDie cls loc wait : Nat) : State :=
  s.dies.foldl (fun t d => d.2.watches.foldl (fun u w =>
    u.watchOne d.1 w.1 w.2 (w.2.firstOf ranges) size rd wr region reach reqDie cls loc wait) t) s
/-- An access of `size` bytes that is answered now meets every armed watch of the module. -/
def State.watchAll (s : State) (pa size : Nat) (rd wr : Bool) (region : Region) (reach : Reach) (reqDie cls loc : Nat) : State :=
  s.watchSet [(pa, size)] size rd wr region reach reqDie cls loc 0
/-- The write-back of the masked bytes of a granule, one access of 64 bytes, meets every armed watch of the module. -/
def State.watchGranule (s : State) (loc : Nat) (mask : BitVec 64) (reqDie at_ : Nat) : State :=
  s.watchSet (((List.range 64).filter (fun i => mask.getLsbD i)).map (fun i => (loc + i, 1))) 64 false true .coherent .slice reqDie 1 at_ 0

/-- The location field of a watch log record for a strand's cluster. -/
def watchLoc (sa : Nat) : Nat := saDie sa + saCluster sa * 8

/-- A MACHINE_CHECK held at a strand (R203, R205). -/
def State.machineCheck (s : State) (sa : Nat) (addr : Word) : State :=
  s.modStrand sa (fun m => { m with async := m.async ++ [(.machineCheck, addr)] })

/-- A poisoned byte among `n` bytes that `mine` does not supply. -/
def State.poisoned (s : State) (loc n : Nat) (mine : Nat → Bool) : Option Nat :=
  s.poison.find? (fun p => decide (loc ≤ p) && decide (p < loc + n) && !mine p)
/-- TRAPADDR of a poisoned byte: its physical address, or 0 in a tier that has none (R199). -/
def poisonAddr (p : Nat) : Word := if p < hbmTop then BitVec.ofNat 64 p else 0
/-- A poisoned byte that a read of `n` bytes from memory meets (R391). -/
def State.sick (s : State) (loc n : Nat) : Option Nat := s.poisoned loc n (fun _ => false)
/-- The current strand takes MACHINE_CHECK for a poisoned byte, and its instruction has not issued (R391). -/
def State.readSick (s : State) (p : Nat) : State := s.machineCheck s.me.sa (poisonAddr p)

end Sys2Proof.Machine
end

