-- ==== Sys2Proof/Machine/Context.lean ====
section
/-! DEFINITION. Saved contexts: the record of R215, where it lies (R214), and the vcores of a troupe. -/

namespace Sys2Proof.Machine

/-! ### A troupe's vcores -/

/-- A field of a troupe's launch descriptor (R343). -/
def Troupe.field (t : Troupe) (off n : Nat) : Nat := bytesNat t.desc off n
/-- The context backing area (R214). -/
def Troupe.backing (t : Troupe) : Nat := t.field 0x0E0 8
/-- The matrix save area. -/
def Troupe.msave (t : Troupe) : Nat := t.field 0x0E8 8
/-- The mail spill area of a vcore (R195). -/
def Troupe.spill (t : Troupe) (vcid : Nat) : Nat := t.field 0x100 8 + 40960 * vcid
/-- The rows and columns of a troupe's rectangle (R343). -/
def Troupe.rows (t : Troupe) : Nat := bytesNat t.desc 0x00A 1
def Troupe.cols (t : Troupe) : Nat := bytesNat t.desc 0x00B 1
/-- The package cluster number of the troupe's cluster of a rank (R20). -/
def Troupe.clusterAt (t : Troupe) (rank : Nat) : Nat := 16 * (t.row0 + rank / t.cols) + (t.col0 + rank % t.cols)
/-- The origin cluster. -/
def Troupe.origin (t : Troupe) : Nat := 16 * t.row0 + t.col0
/-- The number of clusters. -/
def Troupe.clusters (t : Troupe) : Nat := t.rows * t.cols
/-- A vcore of the troupe that has not halted. -/
def Troupe.live (t : Troupe) (vcid : Nat) : Bool := (Tab.get? t.place vcid).isSome && !t.halted.contains vcid
/-- The strand that holds a vcore's context. -/
def State.residentOf (s : State) (tr vcid : Nat) : Option Strand :=
  s.strands.find? (fun m => m.run != .vacant && m.kind != .sm && m.troupe == tr && m.vcid == vcid)

/-! ### The record -/

/-- The two words of a segment. -/
def Seg.bytes (g : Seg) : List Byte := natBytes 8 g.base.toNat ++ natBytes 8 g.desc.toNat
/-- A segment read from a record. -/
def segOf (bs : List Byte) (off : Nat) : Seg :=
  { base := BitVec.ofNat 64 (bytesNat bs off 8), desc := BitVec.ofNat 64 (bytesNat bs (off + 8) 8) }
/-- A segment register read from a saved context: its reserved bits read zero (R6, R140), and a KIND or a range that SETSEG would refuse leaves a null
segment (entry 62 of the log). -/
def ctxSeg (bs : List Byte) (off : Nat) : Seg :=
  let g : Seg := { (segOf bs off) with desc := (segOf bs off).desc &&& BitVec.ofNat 64 (2 ^ 49 - 1) }
  if g.valid then g else Seg.null

/-- FLAGS of a saved context. -/
def Strand.ctxFlags (m : Strand) : Nat :=
  let parked := m.run == .parked || m.parkAgain
  (if m.h then 1 else 0) + (if m.kind == .heavy then 2 else 0) + m.width % 64 * 4 + (if m.token then 256 else 0) +
    (if parked then 512 else 0) + (if parked && m.parkDl != 0 then 1024 else 0)
/-- FPSTATE of a saved context. -/
def Strand.fpState (m : Strand) : Nat :=
  m.fctl.toNat + m.flags.fflags.toNat * 2 ^ 10 + m.flags.vstat.toNat * 2 ^ 15 + m.flags.srseed.toNat * 2 ^ 32
/-- CREDITS of a saved context. -/
def Strand.ctxCredits (m : Strand) : Nat := m.credits.toList.foldr (fun c acc => c % 16 + 16 * acc) 0

/-- The saved context of a strand, with its TKEY, TKEYID and BARARR (R215). -/
def Strand.context (m : Strand) (key : Word) (id bararr : Nat) : List Byte :=
  natBytes 4 m.vcid ++ natBytes 4 m.troupe ++ natBytes 4 m.asid ++ natBytes 4 m.ctxFlags ++ natBytes 8 m.pc.toNat ++
  m.codeSeg.bytes ++ m.trapSeg.bytes ++ natBytes 8 m.fpState ++ natBytes 8 m.tvec.toNat ++ natBytes 8 m.trapPc.toNat ++
  natBytes 8 m.trapAddr.toNat ++ natBytes 4 (m.trapCause.toNat + m.trapInfo.toNat * 256) ++ natBytes 4 m.ctxCredits ++
  natBytes 8 key.toNat ++ natBytes 4 id ++ natBytes 4 bararr ++ m.segs.toList.flatMap Seg.bytes ++
  (m.regs.toList.drop 1).flatMap (fun x => natBytes 8 x.toNat) ++ (m.kregs.toList.drop 1).flatMap (fun x => natBytes 2 x.toNat) ++
  natBytes 2 0 ++ natBytes 8 (if m.run == .parked || m.parkAgain then m.parkDl else 0) ++
  m.vregs.toList.flatMap (fun x => natBytes 64 x.toNat)

/-- A strand that takes up a saved context; what the record does not hold is as in `m`. A parked one restarts its PARK, with the deadline of PARKDL
while FLAGS[10] is set. Reserved bits of an image are ignored (entry 62 of the log). -/
def Strand.fromContext (m : Strand) (bs : List Byte) : Strand :=
  let fl := bytesNat bs 0x00C 4
  let fp := bytesNat bs 0x038 8
  let w := fun (off : Nat) => (BitVec.ofNat 64 (bytesNat bs off 8) : Word)
  { m with
    vcid := bytesNat bs 0x000 4
    troupe := bytesNat bs 0x004 4
    asid := bytesNat bs 0x008 4
    h := fl % 2 == 1
    token := fl / 256 % 2 == 1
    parkAgain := fl / 512 % 2 == 1
    parkDl := if fl / 1024 % 2 == 1 then bytesNat bs 0x1F8 8 else 0
    pc := w 0x010
    codeSeg := ctxSeg bs 0x018
    trapSeg := ctxSeg bs 0x028
    fctl := BitVec.ofNat 10 fp
    flags := { fflags := BitVec.ofNat 5 (fp / 2 ^ 10), vstat := BitVec.ofNat 2 (fp / 2 ^ 15), srseed := BitVec.ofNat 32 (fp / 2 ^ 32) }
    tvec := w 0x040 &&& ~~~3
    trapPc := w 0x048
    trapAddr := w 0x050
    trapCause := BitVec.ofNat 8 (bytesNat bs 0x058 1)
    trapInfo := trapInfoOf (BitVec.ofNat 24 (bytesNat bs 0x059 3))
    credits := Vector.ofFn (fun p => bytesNat bs 0x05C 4 / 16 ^ p.val % 16)
    segs := Vector.ofFn (fun i => ctxSeg bs (0x070 + 16 * i.val))
    regs := Vector.ofFn (fun i => if i.val = 0 then 0 else w (0x0F0 + 8 * (i.val - 1)))
    kregs := Vector.ofFn (fun i => if i.val = 0 then 0 else BitVec.ofNat 16 (bytesNat bs (0x1E8 + 2 * (i.val - 1)) 2))
    vregs := Vector.ofFn (fun i => BitVec.ofNat 512 (bytesNat bs (0x200 + 64 * i.val) 64)) }

/-- A record with `n` bytes at an offset replaced. -/
def setBytes (bs : List Byte) (off n v : Nat) : List Byte := bs.take off ++ natBytes n v ++ bs.drop (off + n)

/-! ### Where saved contexts lie (R214) -/

/-- The saved context of a CID in a cluster's cache. -/
def Cluster.cached (c : Cluster) (cid : Nat) : Option (List Byte) := (c.tcc.find? (fun e => e.1 == cid)).map (·.2)
/-- The cluster whose cache holds a CID. -/
def State.cacheOf (s : State) (cid : Nat) : Option Nat := (s.clusters.find? (fun c => (c.2.cached cid).isSome)).map (·.1)
/-- The size of a context. -/
def ctxSize : Nat := 1536
/-- The backing slot of a vcore. -/
def Troupe.slot (t : Troupe) (vcid : Nat) : Nat := t.backing + ctxSize * vcid
/-- A switched-out vcore's record is changed where it lies. -/
def State.patchContext (s : State) (tr vcid : Nat) (f : List Byte → List Byte) : State :=
  match s.cacheOf (cidOf tr vcid), s.troupe? tr with
  | some c, _ => s.modCluster c (fun x => { x with tcc := x.tcc.map (fun e => if e.1 == cidOf tr vcid then (e.1, f e.2) else e) })
  | none, some t => if t.out.contains vcid then s.writeBytes (t.slot vcid) (f (memBytes s.mem (t.slot vcid) ctxSize)) else s
  | none, none => s

end Sys2Proof.Machine
end

