-- ==== Sys2Proof/Machine/Mail.lean ====
section
/-! DEFINITION. Channel ports, the inbox, mail spill and barriers beneath the instructions that use them (R181 to
R195). A stage-manager strand is addressed as vcore SADDR of troupe 0, which no troupe is. -/

namespace Sys2Proof.Machine

/-- An event of a troupe restarts its quiescence count (R196). -/
def State.stir (s : State) (tr : Nat) : State := s.modTroupe tr (fun t => { t with stirred := true })
/-- An item that reaches a halted vcore is discarded and counted (R220). -/
def State.discard (s : State) (tr : Nat) : State := s.modTroupe tr (fun t => { t with discarded := t.discarded + 1 })

/-! ### Bindings (R181) -/

/-- The binding of a strand's outbound port. -/
def State.outBind (s : State) (m : Strand) (p : Nat) : Option Binding :=
  match s.troupe? m.troupe with
  | none => none
  | some t => t.binds.find? (fun b => b.src == m.vcid && b.srcPort == p)
/-- The binding of a strand's inbound port. -/
def State.inBind (s : State) (m : Strand) (p : Nat) : Option Binding :=
  match s.troupe? m.troupe with
  | none => none
  | some t => t.binds.find? (fun b => b.dst == m.vcid && b.dstPort == p)
/-- The latency L between a strand and the place of a vcore (R182). -/
def State.latencyTo (s : State) (sa tr vcid : Nat) : Nat :=
  match s.troupe? tr with
  | none => 6
  | some t => chanLatency sa ((Tab.get? t.place vcid).getD sa)
/-- Untaken entries and messages. -/
def untaken (l : List PortEntry) : List PortEntry := l.filter (fun e => e.taken.isNone)
/-- The entries of an inbound port. -/
def Strand.inPort (m : Strand) (p : BitVec 3) : List PortEntry := m.inPorts[p.toNat]
/-- Changes an inbound port. -/
def Strand.modPort (m : Strand) (p : BitVec 3) (f : List PortEntry → List PortEntry) : Strand :=
  { m with inPorts := m.inPorts.set p.toNat (f m.inPorts[p.toNat]) }

/-! ### Mail spill (R193 to R195) -/

/-- The HEAD count of the spilled inbox ring. -/
def State.spillHead (s : State) (a : Nat) : Nat := s.read a 8
/-- The TAIL count of the spilled inbox ring. -/
def State.spillTail (s : State) (a : Nat) : Nat := s.read (a + 8) 8
/-- The spill ring of a context is empty. -/
def State.spillEmpty (s : State) (a : Nat) : Bool := s.spillHead a == s.spillTail a
/-- The spill ring of a context is full. -/
def State.spillFull (s : State) (a : Nat) : Bool := decide (4096 ≤ (s.spillTail a + 2 ^ 64 - s.spillHead a) % 2 ^ 64)
/-- A message is written to the spill ring. -/
def State.spillMsg (s : State) (a : Nat) (msg : Word) : State :=
  let t := s.spillTail a
  (s.write (a + 0x1040 + 8 * (t % 4096)) 8 msg.toNat).write (a + 8) 8 ((t + 1) % 2 ^ 64)
/-- A port entry is written to the spill area. -/
def State.spillEntry (s : State) (a p : Nat) (vec : Bool) (data : VWord) : State :=
  let e := s.read (a + 0x10 + p) 1
  let kinds := s.read (a + 0x18) 8
  let s1 := s.write (a + 0x40 + 512 * p + 64 * e) (if vec then 64 else 8) data.toNat
  let s2 := s1.write (a + 0x10 + p) 1 (e + 1)
  s2.write (a + 0x18) 8 (if vec then kinds ||| 2 ^ (8 * p + e) else kinds &&& (2 ^ 64 - 1 - 2 ^ (8 * p + e)))
/-- The spilled entries of a port, oldest first. -/
def State.spilledEntries (s : State) (a p : Nat) : List PortEntry :=
  let kinds := s.read (a + 0x18) 8
  (List.range (s.read (a + 0x10 + p) 1)).map (fun e =>
    let vec := kinds / 2 ^ (8 * p + e) % 2 == 1
    { vec := vec, data := BitVec.ofNat 512 (s.read (a + 0x40 + 512 * p + 64 * e) (if vec then 64 else 8)), taken := none })

/-- The read-backs of a context under way. -/
def State.readbacks (s : State) (tr vcid : Nat) : Nat :=
  (s.agenda.filter (fun e => match e.2 with | .spillReadback a b => a == tr && b == vcid | _ => false)).length
/-- The spilled messages of a context. -/
def State.spilled (s : State) (a : Nat) : Nat := (s.spillTail a + 2 ^ 64 - s.spillHead a) % 2 ^ 64
/-- Port entries of a context are spilled. -/
def State.portsSpilled (s : State) (a : Nat) : Bool := s.read (a + 0x10) 8 != 0
/-- The latency of a spilled item's read: that of the LLC, or of HBM where the line is not there, which is free (R193). -/
def spillLatency (die a k : Nat) : Nat := llcLatency die a + if Config.freeBool k then 0 else 250
/-- The spilled port entries of a resident vcore return to their ports, oldest first. -/
def State.restorePorts (s : State) (m : Strand) (a : Nat) : State :=
  (s.modStrand m.sa (fun x => { x with inPorts := Vector.ofFn (fun i => x.inPorts[i] ++ s.spilledEntries a i.val) })).write (a + 0x10) 16 0
/-- Where the inbox has a free entry and the ring a message that no read-back is under way for, the interface starts one:
each freed entry has its own. Port entries that met a slot the vcore had left are read back too (R193, entry 70 of the log). -/
def State.pokeMail (s : State) (tr vcid : Nat) : State :=
  match s.residentOf tr vcid, s.troupe? tr with
  | some m, some t =>
    let n := s.readbacks tr vcid
    if (s.portsSpilled (t.spill vcid) && n == 0) || (m.inbox.length + n < 16 && decide (n < s.spilled (t.spill vcid))) then
      (s.after (spillLatency (saDie m.sa) (t.spill vcid) s.freeCtr) (.spillReadback tr vcid)).bump 1
    else s
  | _, _ => s
/-- SPILL_READBACK. -/
def execSpillReadback (tr vcid : Nat) (s : State) : Out :=
  match s.residentOf tr vcid, s.troupe? tr with
  | some m, some t =>
    let a := t.spill vcid
    if s.portsSpilled a then .next (((s.restorePorts m a).stir tr).pokeMail tr vcid)
    else if m.inbox.length < 16 && !s.spillEmpty a then
      let h := s.spillHead a
      let msg : Word := BitVec.ofNat 64 (s.read (a + 0x1040 + 8 * (h % 4096)) 8)
      .next ((((s.write a 8 ((h + 1) % 2 ^ 64)).modStrand m.sa (fun x => { x with inbox := x.inbox ++ [{ data := msg, taken := none }] })).stir
        tr).pokeMail tr vcid)
    else .next s
  | _, _ => .next s

/-- The spill ring of a vcore accepts no more: it holds 4,096 messages, with those that a save under way will put in front of it (R194). -/
def State.ringFull (s : State) (t : Troupe) (tr vcid : Nat) : Bool :=
  let a := t.spill vcid
  match s.residentOf tr vcid with
  | some m =>
    (match m.swap with
     | some r => if r.saving then decide (4096 ≤ s.spilled a + m.inbox.length) else s.spillFull a
     | none => s.spillFull a)
  | none => s.spillFull a
/-- Messages on their way to a vcore. -/
def State.mailComing (s : State) (tr vcid : Nat) : Nat :=
  (s.agenda.filter (fun e => match e.2 with | .inboxMessageArrival a d _ => a == tr && d.vcid == vcid | _ => false)).length
/-- Posting to this receiver would find its spill ring full, those on their way counted and those that a save under way puts into it: the poster holds
its message (R194). -/
def State.mailFull (s : State) (tr vcid : Nat) : Bool :=
  match s.troupe? tr with
  | none => match s.strand? vcid with | some m => decide (16 ≤ m.inbox.length + s.mailComing tr vcid) | none => false
  | some t =>
    let put := match s.residentOf tr vcid with
      | some m => if m.swap.any (fun r => r.saving) then m.inbox.length else 0
      | none => 0
    t.live vcid && (s.ringFull t tr vcid || decide (4096 ≤ s.spilled (t.spill vcid) + put + s.mailComing tr vcid))
/-- INBOX_MESSAGE_ARRIVAL at the slot it was sent to: into the inbox, or to mail spill when the vcore is not there, the inbox full or the ring not
empty; a halted vcore's is discarded; a message that finds no room is offered again (R191, R193, R194, R220). -/
def execInboxMessageArrival (tr : Nat) (dst : MailDest) (msg : Word) (s : State) : Out :=
  let vcid := dst.vcid
  let put := fun (m : Strand) (t : State) => t.modStrand m.sa (fun x => { x with inbox := x.inbox ++ [{ data := msg, taken := none }] })
  if tr = 0 then
    match s.strand? vcid with
    | none => .next s
    | some m => if m.inbox.length < 16 then .next (put m s) else .next (s.after 1 (.inboxMessageArrival tr dst msg))
  else match s.troupe? tr with
    | none => .next s
    | some t =>
      if t.live vcid = false then .next ((s.discard tr).stir tr)
      else
        let a := t.spill vcid
        let spill := fun (_ : Unit) =>
          if s.ringFull t tr vcid then s.after 1 (.inboxMessageArrival tr dst msg) else ((s.spillMsg a msg).stir tr).pokeMail tr vcid
        match s.residentOf tr vcid with
        | none => .next (spill ())
        | some m => if m.sa == dst.slot && m.inbox.length < 16 && s.spillEmpty a then .next ((put m s).stir tr) else .next (spill ())
/-- The slot that an item for a vcore is sent to: where it is, or was last (R193). -/
def State.routeTo (s : State) (tr vcid : Nat) : Nat :=
  match s.troupe? tr with
  | some t => (Tab.get? t.place vcid).getD 0
  | none => vcid
/-- A message is posted to a vcore's inbox, `n` cycles away. -/
def State.post (s : State) (n tr vcid : Nat) (msg : Word) : State := s.after n (.inboxMessageArrival tr ⟨vcid, s.routeTo tr vcid⟩ msg)
/-- An inbox message (R191). -/
def mailWord (data engine status kind tag : Nat) : Word :=
  BitVec.ofNat 64 (data % 2 ^ 32 * 2 ^ 32 + engine % 32 * 2 ^ 24 + status % 16 * 2 ^ 20 + kind * 2 ^ 16 + tag % 2 ^ 16)

/-! ### Channel entries (R182, R185) -/

/-- CHANNEL_ENTRY_ARRIVAL at the slot it was sent to: into the inbound port, or to mail spill when the vcore is not there, and behind entries that
are spilled. -/
def execChannelEntryArrival (tr : Nat) (dst : MailDest) (port : Nat) (vec : Bool) (data : VWord) (s : State) : Out :=
  let vcid := dst.vcid
  match s.troupe? tr with
  | none => .next s
  | some t =>
    if t.live vcid = false then .next ((s.discard tr).stir tr)
    else match s.residentOf tr vcid with
      | none => .next ((s.spillEntry (t.spill vcid) port vec data).stir tr)
      | some m =>
        if m.sa != dst.slot || s.read (t.spill vcid + 0x10 + port) 1 != 0 then
          .next (((s.spillEntry (t.spill vcid) port vec data).stir tr).pokeMail tr vcid)
        else .next ((s.modStrand m.sa (fun x =>
          x.modPort (BitVec.ofNat 3 port) (fun l => l ++ [{ vec := vec, data := data, taken := none }]))).stir tr)
/-- CREDIT_RETURN: a switched-out sender's credit goes to its saved context. -/
def execCreditReturn (tr vcid port : Nat) (s : State) : Out :=
  let p := port % 8
  match s.residentOf tr vcid with
  | some m => .next ((s.modStrand m.sa (fun x => { x with credits := Vector.ofFn (fun i => x.credits[i] + (if i.val = p then 1 else 0)) })).stir tr)
  | none => .next ((s.patchContext tr vcid (fun bs => setBytes bs 0x05C 4 (bytesNat bs 0x05C 4 + 16 ^ p))).stir tr)
/-- The latest arrival under way at an inbound port: entries of one channel arrive in the order of their sends. -/
def State.lastEntry (s : State) (tr vcid port : Nat) : Nat :=
  s.agenda.foldl (fun c e => match e.2 with
    | .channelEntryArrival a d p _ _ => if a = tr ∧ d.vcid = vcid ∧ p = port ∧ c < e.1 then e.1 else c
    | _ => c) 0
/-- A send leaves the current strand for its bound port. -/
def State.sendEntry (s : State) (b : Binding) (vec : Bool) (data : VWord) : State :=
  let m := s.me
  let c := s.cycle + s.latencyTo m.sa m.troupe b.dst + (if vec then 1 else 0)
  let c1 := s.lastEntry m.troupe b.dst b.dstPort
  (s.mod (fun x => { x with credits := Vector.ofFn (fun i => x.credits[i] - (if i.val = b.srcPort then 1 else 0)) })).atCycle
    (if c < c1 then c1 else c) (.channelEntryArrival m.troupe ⟨b.dst, s.routeTo m.troupe b.dst⟩ b.dstPort vec data)
/-- The credit of a removed entry starts back to its sender. -/
def State.creditBack (s : State) (m : Strand) (p : Nat) : State :=
  match s.inBind m p with
  | none => s
  | some b => s.after (s.latencyTo m.sa m.troupe b.src) (.creditReturn m.troupe b.src b.srcPort)

/-- The entry is taken by an instruction that no older trappable operation keeps back: it is removed (R185). -/
def settled (m : Strand) (t : Option Nat) : Bool :=
  match t with
  | none => false
  | some q => !m.ops.any (fun o => decide (o.q < q) && o.trappable)
/-- A message is the completion of a copy's command. -/
def completionOf (w : Word) (c : Nat × Nat × Packet) : Bool :=
  w.toNat / 2 ^ 16 % 16 == 1 && w.toNat / 2 ^ 24 % 32 == c.1 && w.toNat % 2 ^ 16 == c.2.1
/-- A stage-manager strand dequeues messages: a COPY packet whose completion is among them has finished (R334). -/
def State.copiesDone (s : State) (m : Strand) (msgs : List Msg) : State :=
  let done := m.copies.filter (fun c => msgs.any (fun e => completionOf e.data c))
  (done.foldl (fun t c => t.packetDone c.2.2) s).modStrand m.sa (fun x => { x with copies := x.copies.filter (fun c => !done.contains c) })
/-- Taken entries and messages whose older operations are all confirmed are removed; credits start back and spilled mail
moves up. -/
def State.removeTaken (s : State) (sa : Nat) : State :=
  match s.strand? sa with
  | none => s
  | some m =>
    let s1 := (List.range 8).foldl (fun t p =>
      ((m.inPort (BitVec.ofNat 3 p)).filter (fun e => settled m e.taken)).foldl (fun u _ => u.creditBack m p) t) s
    let freed := (m.inbox.filter (fun e => settled m e.taken)).length
    let s2 := s1.modStrand sa (fun x => { x with
      inPorts := x.inPorts.map (fun l => l.filter (fun e => !settled m e.taken))
      inbox := x.inbox.filter (fun e => !settled m e.taken) })
    if m.kind == .sm then s2.copiesDone m (m.inbox.filter (fun e => settled m e.taken))
    else (List.range freed).foldl (fun t _ => t.pokeMail m.troupe m.vcid) s2

/-! ### Barriers (R187 to R190) -/

/-- The barrier of a number that a strand's troupe binds. -/
def State.barrier? (s : State) (tr n : Nat) : Option Barrier :=
  match s.troupe? tr with
  | none => none
  | some t => match Tab.get? t.bars n with
    | some b => if b.members.isEmpty then none else some b
    | none => none
/-- The clusters of the members. -/
def Troupe.memberClusters (t : Troupe) (b : Barrier) : List Nat :=
  (b.members.map (fun v => saPkg ((Tab.get? t.place v).getD 0))).eraseDups
/-- The home: the member cluster with the lowest package cluster number. -/
def Troupe.barHome (t : Troupe) (b : Barrier) : Nat :=
  match t.memberClusters b with
  | [] => 0
  | c :: r => r.foldl (fun x y => if y < x then y else x) c
/-- The members share one cluster. -/
def Troupe.barLocal (t : Troupe) (b : Barrier) : Bool := (t.memberClusters b).length ≤ 1
/-- From the leaving of the last arrival to the advance of GEN at the home (R190). -/
def Troupe.barSpan (t : Troupe) (b : Barrier) : Nat :=
  if t.barLocal b then 18
  else 64 + 8 * ((t.memberClusters b).foldl (fun x c => if x < crossings (t.barHome b) c then crossings (t.barHome b) c else x) 0)
/-- From the leaving of an arrival to its destination (R190). -/
def Troupe.barReply (t : Troupe) (b : Barrier) (cl : Nat) : Nat := if t.barLocal b then 16 else routeLatency (t.barHome b) cl
/-- GEN as a cluster sees it. -/
def Barrier.genAt (b : Barrier) (cl : Nat) : BitVec 16 := Tab.getD b.seen cl b.gen
/-- A target has passed (R189). -/
def passed (gen t : BitVec 16) : Bool := decide ((gen - t).toNat < 32768)
/-- A member whose previous arrival's completion its cluster has not seen waits (R187). -/
def Barrier.mustWait (b : Barrier) (vcid cl : Nat) : Bool :=
  match Tab.get? b.target vcid with
  | none => false
  | some t => !passed (b.genAt cl) t
/-- Changes a barrier. -/
def State.modBar (s : State) (tr n : Nat) (f : Barrier → Barrier) : State :=
  s.modTroupe tr (fun t => { t with bars := Tab.upd t.bars n f })

/-- GEN_UPDATE_ARRIVAL. -/
def execGenUpdateArrival (tr bar cl : Nat) (gen : BitVec 16) (s : State) : Out :=
  .next ((s.modBar tr bar (fun b => { b with seen := Tab.put b.seen cl gen })).stir tr)
/-- BARRIER_ARRIVAL: the arrival is counted, once in a phase; the last one completes the phase, and every cluster that the troupe has or had a vcore in
sees GEN advance (R190). -/
def execBarrierArrival (tr bar vcid : Nat) (s : State) : Out :=
  match s.troupe? tr, s.barrier? tr bar with
  | some t, some b =>
    if b.members.contains vcid = false ∨ b.arrived.contains vcid = true then .next s
    else if b.arrived.length + 1 < b.members.length then
      .next ((s.modBar tr bar (fun x => { x with arrived := x.arrived ++ [vcid] })).stir tr)
    else
      let g := b.gen + 1
      let cls := (t.place.map (fun p => saPkg p.2) ++ (List.range t.clusters).map t.clusterAt ++ b.seen.map (·.1)).eraseDups
      let home := t.barHome b
      let kept := cls.foldl (fun m c => if (Tab.get? m c).isNone then Tab.put m c b.gen else m) b.seen
      let s1 := (s.modBar tr bar (fun x => { x with gen := g, arrived := [], seen := Tab.put kept home g })).stir tr
      .next ((cls.filter (fun c => c != home)).foldl (fun u c =>
        u.after (if t.barLocal b then routeLatency home c else 0) (.genUpdateArrival tr bar c g)) s1)
  | _, _ => .next s

end Sys2Proof.Machine
end

