-- ==== Sys2Proof/Machine/Private.lean ====
section
/-! DEFINITION. Private memory in the caches: the lines that a core's L1D and a die's L2 hold, what a core reads through them, and what brings a
line in, writes it back and drops it (R151, R155, R157, R158, R180, R280, R396). -/

namespace Sys2Proof.Machine

/-! ### Lines -/

/-- The byte of a line at a location. -/
def Line.byte (x : Line) (loc : Nat) : Byte := x.data.extractLsb' (8 * (loc % 128)) 8
/-- A byte of a line is not written back. -/
def Line.dirtyAt (x : Line) (loc : Nat) : Bool := x.dirty.getLsbD (loc % 128)
/-- A byte written into a line. -/
def Line.put (x : Line) (loc : Nat) (b : Byte) : Line :=
  { x with
    data := (x.data &&& ~~~((BitVec.allOnes 8).setWidth 1024 <<< (8 * (loc % 128)))) ||| (b.setWidth 1024 <<< (8 * (loc % 128)))
    dirty := x.dirty ||| ((1 : BitVec 128) <<< (loc % 128)) }
/-- The same line, written back. -/
def Line.clean (x : Line) : Line := { x with dirty := 0 }
/-- The bytes of a line that are not written back, with their locations. -/
def Line.unwritten (x : Line) : List (Nat × Byte) :=
  ((List.range 128).filter (fun i => x.dirty.getLsbD i)).map (fun i => (128 * x.num + i, x.byte i))
/-- A line with the unwritten bytes of another copy of it. -/
def Line.take (y x : Line) : Line := x.unwritten.foldl (fun z p => z.put p.1 p.2) y
/-- A line as the LLC or HBM holds it. -/
def memLine (m : List Host.Cell) (n : Nat) : Line := { num := n, data := BitVec.ofNat 1024 (memRead m (128 * n) 128), dirty := 0 }
/-- The copy of a line among those of a cache. -/
def lineIn (ls : List Line) (n : Nat) : Option Line := ls.find? (fun x => x.num == n)
/-- The other lines. -/
def lineDrop (ls : List Line) (n : Nat) : List Line := ls.filter (fun x => x.num != n)

/-! ### Caches -/

/-- A core, named by the SADDR of its slot 0. -/
def coreOf (sa : Nat) : Nat := sa - saSlot sa
/-- The copy of a line in the L1D of a strand's core. -/
def State.inL1 (s : State) (sa n : Nat) : Option Line := lineIn (Tab.getD s.l1d (coreOf sa) []) n
/-- The copy of a line in a die's L2. -/
def State.inL2 (s : State) (die n : Nat) : Option Line := lineIn (Tab.getD s.l2 die []) n
/-- A line as it stands below the L1Ds of a die. -/
def State.below (s : State) (die n : Nat) : Line := (s.inL2 die n).getD (memLine s.mem n)
/-- The lines of a cache, listed where there are any. -/
def setLines (t : Tab (List Line)) (k : Nat) (ls : List Line) : Tab (List Line) := if ls.isEmpty then Tab.del t k else Tab.put t k ls
/-- The unwritten bytes of a line reach the LLC. -/
def State.writeBack (s : State) (x : Line) : State := { s with mem := x.unwritten.foldl (fun m p => memPut m p.1 p.2) s.mem }
/-- A line enters a die's L2, or is used there. -/
def State.putL2 (s : State) (die : Nat) (x : Line) : State :=
  { s with l2 := Tab.put s.l2 die (x :: lineDrop (Tab.getD s.l2 die []) x.num) }
/-- A line leaves a die's L2, written back to the LLC. -/
def State.evictL2 (s : State) (die n : Nat) : State :=
  match s.inL2 die n with
  | none => s
  | some y => { s.writeBack y with l2 := setLines s.l2 die (lineDrop (Tab.getD s.l2 die []) n) }
/-- The unwritten bytes of a line of an L1D reach its die's L2. -/
def State.passDown (s : State) (sa : Nat) (x : Line) : State :=
  if x.dirty = 0 then s else s.putL2 (saDie sa) ((s.below (saDie sa) x.num).take x)
/-- A line leaves a core's L1D, written back to the L2 of its die. -/
def State.evictL1 (s : State) (sa n : Nat) : State :=
  match s.inL1 sa n with
  | none => s
  | some x => ({ s with l1d := setLines s.l1d (coreOf sa) (lineDrop (Tab.getD s.l1d (coreOf sa) []) n) } : State).passDown sa x
/-- A line enters a core's L1D, or is used there. -/
def State.putL1 (s : State) (sa : Nat) (x : Line) : State :=
  { s with l1d := Tab.put s.l1d (coreOf sa) (x :: lineDrop (Tab.getD s.l1d (coreOf sa) []) x.num) }
/-- A line is brought into a die's L2. -/
def State.fillL2 (s : State) (die n : Nat) : State := s.putL2 die (s.below die n)
/-- A line is brought into a core's L1D and used there. A miss takes the copy of the die's L2, or past a copy with nothing unwritten that of the LLC:
which of the two answers is free, as R180 leaves open what a reader of racing stores sees. -/
def State.fillL1 (s : State) (sa n : Nat) : State :=
  match s.inL1 sa n with
  | some x => s.putL1 sa x
  | none =>
    let past := (s.inL2 (saDie sa) n).any (fun y => y.dirty == 0) && Config.freeBool s.freeCtr
    let x := if past then memLine s.mem n else s.below (saDie sa) n
    ((s.fillL2 (saDie sa) n).bump 1).putL1 sa x.clean
/-- The lines of `n` bytes. -/
def linesOf (loc n : Nat) : List Nat := (List.range ((loc + n + 127) / 128 - loc / 128)).map (fun i => loc / 128 + i)
/-- A line is written back to the LLC where it is dirty in a core's L1D or its die's L2, and clean copies stay (R158). -/
def State.flushLine (s : State) (sa n : Nat) : State :=
  let s1 := match s.inL1 sa n with | some x => (s.passDown sa x).putL1 sa x.clean | none => s
  match s1.inL2 (saDie sa) n with
  | some y => (s1.writeBack y).putL2 (saDie sa) y.clean
  | none => s1
/-- A line is written back to the LLC and leaves a core's L1D and its die's L2 (R158). -/
def State.dropLine (s : State) (sa n : Nat) : State := (s.evictL1 sa n).evictL2 (saDie sa) n

/-! ### What a core reads and writes -/

/-- The byte that a core reads at a location: for private memory that of its L1D, else of its die's L2, else of the LLC (R151). -/
def State.seen (s : State) (sa : Nat) (priv : Bool) (loc : Nat) : Byte :=
  if priv then
    match s.inL1 sa (loc / 128) with
    | some x => x.byte loc
    | none => (s.below (saDie sa) (loc / 128)).byte loc
  else memGet s.mem loc
/-- The value of the `n` bytes that a core reads at a location. -/
def State.view (s : State) (sa : Nat) (priv : Bool) (loc : Nat) : Nat → Nat
  | 0 => 0
  | n + 1 => (s.seen sa priv loc).toNat + 256 * s.view sa priv (loc + 1) n
/-- The value of the `n` bytes at a location as they stand below the L1Ds of a die. -/
def State.lowView (s : State) (die loc : Nat) : Nat → Nat
  | 0 => 0
  | n + 1 => ((s.below die (loc / 128)).byte loc).toNat + 256 * s.lowView die (loc + 1) n
/-- The private lines of a load are in the core's L1D. -/
def State.fetchLines (s : State) (sa : Nat) (priv : Bool) (loc n : Nat) : State :=
  if priv then (linesOf loc n).foldl (fun t k => t.fillL1 sa k) s else s
/-- A byte is stored into a private line of the core's L1D. -/
def State.putByteL1 (s : State) (sa loc : Nat) (b : Byte) : State :=
  let t := s.fillL1 sa (loc / 128)
  match t.inL1 sa (loc / 128) with
  | some x => t.putL1 sa (x.put loc b)
  | none => t
/-- The low `n` bytes of a value are stored into private lines of the core's L1D. -/
def State.putValueL1 (s : State) (sa loc : Nat) : Nat → Nat → State
  | 0, _ => s
  | n + 1, v => (s.putByteL1 sa loc (BitVec.ofNat 8 (v % 256))).putValueL1 sa (loc + 1) n (v / 256)
/-- The low `n` bytes of a value are written into private lines of a die's L2. -/
def State.putValueL2 (s : State) (die loc : Nat) : Nat → Nat → State
  | 0, _ => s
  | n + 1, v => (s.putL2 die ((s.below die (loc / 128)).put loc (BitVec.ofNat 8 (v % 256)))).putValueL2 die (loc + 1) n (v / 256)
/-- A store of a core: into its L1D for private memory, else into memory. -/
def State.store (s : State) (sa : Nat) (priv : Bool) (loc n v : Nat) : State :=
  if priv then (s.putValueL1 sa loc n v).unpoison loc n else s.write loc n v
/-- Private lines of the core's L1D are written back to its die's L2 and dropped, as for an atomic or an engine (R155, R178, R280). -/
def State.recall (s : State) (sa : Nat) (priv : Bool) (loc n : Nat) : State :=
  if priv then (linesOf loc n).foldl (fun t k => t.evictL1 sa k) s else s
/-- A write below a core's L1D, which it invalidates there: at its die's L2 for private memory (R155, R280). -/
def State.writeBelow (s : State) (sa : Nat) (priv : Bool) (loc n v : Nat) : State :=
  if priv then ((s.recall sa true loc n).putValueL2 (saDie sa) loc n v).unpoison loc n else s.write loc n v
/-- The byte that a copy engine reads for a core: the unwritten byte of the core's L1D, else that below it (R280). -/
def State.engineByte (s : State) (sa : Nat) (priv : Bool) (loc : Nat) : Byte :=
  if priv then
    match s.inL1 sa (loc / 128) with
    | some x => if x.dirtyAt loc then x.byte loc else (s.below (saDie sa) (loc / 128)).byte loc
    | none => (s.below (saDie sa) (loc / 128)).byte loc
  else memGet s.mem loc
/-- A private access: a global one to a page of the private region. -/
def isPrivate (glob : Bool) (region : Region) : Bool := glob && region == .priv

/-- A line that a core's L1D or its die's L2 has not written back. -/
def State.unwrittenLine (s : State) (sa n : Nat) : Bool :=
  (s.inL1 sa n).any (fun x => x.dirty != 0) || (s.inL2 (saDie sa) n).any (fun y => y.dirty != 0)
/-- The latency of a private access: 6 cycles where the core's L1D holds the line, else that of the L2, the LLC or HBM; for an atomic that of the level
below the L1D, and 6 more where the L1D holds it. What the LLC holds is free (R14, R151, R155). -/
def State.privateTime (s : State) (sa loc : Nat) (atomic : Bool) : Nat :=
  let held := (s.inL1 sa (loc / 128)).isSome
  let below := if (s.inL2 (saDie sa) (loc / 128)).isSome || (atomic && (s.inL1 sa (loc / 128)).any (fun x => x.dirty != 0)) then 44
    else if Config.freeBool s.freeCtr then llcLatency (saDie sa) loc else llcLatency (saDie sa) loc + 250
  if held then (if atomic then 6 + below else 6) else below

/-! ### Replacement -/

/-- The lines that an L1D of 32 KiB and an L2 of 128 MiB hold (R14). -/
def l1Lines : Nat := 256
def l2Lines : Nat := 1048576
/-- The lines of every cache of a level: its number, the line, and how many of its lines were used later. -/
def heldLines (t : Tab (List Line)) : List (Nat × Nat × Nat) := t.flatMap (fun p => p.2.zipIdx.map (fun x => (p.1, x.1.num, x.2)))
/-- The lines that leave the caches of a level: those beyond its size, the least recently used, and others freely. -/
def leaving (t : Tab (List Line)) (size ctr : Nat) : List (Nat × Nat) :=
  ((heldLines t).zipIdx.filter (fun e => decide (size ≤ e.1.2.2) || Config.freeBool (ctr + e.2))).map (fun e => (e.1.1, e.1.2.1))
/-- Lines are replaced at any time, as every access of a core or a die needs places (R151, R180, R396). -/
def State.evictions (s : State) : State :=
  let s1 := ((leaving s.l1d l1Lines s.freeCtr).foldl (fun t e => t.evictL1 e.1 e.2) s).bump (heldLines s.l1d).length
  ((leaving s1.l2 l2Lines s1.freeCtr).foldl (fun t e => t.evictL2 e.1 e.2) s1).bump (heldLines s1.l2).length
/-- Every private line is written back. -/
def State.flushAll (s : State) : State :=
  let s1 := (heldLines s.l1d).foldl (fun t e => t.evictL1 e.1 e.2.1) s
  (heldLines s1.l2).foldl (fun t e => t.evictL2 e.1 e.2.1) s1
/-- The lines of some ranges that are dirty in a core's L1D or its die's L2. -/
def State.dirtyLines (s : State) (sa : Nat) (ranges : List (Nat × Nat)) : List Nat :=
  let held := ((Tab.getD s.l1d (coreOf sa) []) ++ (Tab.getD s.l2 (saDie sa) [])).map (·.num)
  held.eraseDups.filter (fun n => s.unwrittenLine sa n && ranges.any (fun r => decide (r.1 < 128 * n + 128) && decide (128 * n < r.1 + r.2)))

end Sys2Proof.Machine
end

