-- ==== Sys2Proof/Machine/Xlate.lean ====
section
/-! DEFINITION. Translation at a memory port: entries, walks, fault service and the checks of R150 (R145 to R150,
R316, R344, R396). -/

namespace Sys2Proof.Machine

/-- The lowest VA bit that a level's index uses (R145). -/
def levelShift (level : Nat) : Nat := match level with | 3 => 55 | 2 => 42 | 1 => 29 | _ => 16
/-- The index of a VA at a level. -/
def vaIndex (level va : Nat) : Nat := va / 2 ^ levelShift level % (if level = 3 then 4 else 8192)
/-- The number of the system code space: no troupe's ASID reaches it (R344). -/
def systemSpace : Nat := 2 ^ 32

/-- What an entry of a level means (R146, R147, R148, R316). -/
inductive PageEntry where
  | table (pa : Nat) | leaf (l : Leaf) | service | unmapped
deriving DecidableEq, Repr

/-- A REGION code. -/
def regionOf (n : Nat) : Region := match n % 4 with | 0 => .priv | 1 => .readShared | 2 => .coherent | _ => .remote

/-- Classifies an entry and its companion word. -/
def classify (level : Nat) (e comp : Nat) : PageEntry :=
  let bit := fun n => e / 2 ^ n % 2 == 1
  let pa := e / 2 ^ 16 % 2 ^ 32 * 2 ^ 16
  if bit 0 = false then (if bit 2 then .service else .unmapped)
  else if e / 2 ^ 48 ≠ 0 ∨ e / 2 ^ 6 % 2 ^ 10 ≠ 0 then .unmapped
  else if bit 1 = false then (if level = 0 then .unmapped else .table pa)
  else if 2 ≤ level then .unmapped
  else if level = 1 ∧ pa % 2 ^ 29 ≠ 0 then .unmapped
  else if bit 5 && (bit 4 || bit 3) then .unmapped
  else if comp / 2 ^ 22 ≠ 0 then .unmapped
  else
    let region := regionOf (comp / 2 ^ 20)
    if decide (hbmTop ≤ pa) != (region == .remote) then .unmapped
    else .leaf { pa := pa, large := level == 1, x := bit 5, w := bit 4, rd := bit 3, region := region,
                 cmask := BitVec.ofNat 12 (comp / 2 ^ 8), dmask := BitVec.ofNat 8 comp }

/-- The physical address that a leaf gives a VA. -/
def Leaf.addr (l : Leaf) (va : Nat) : Nat := l.pa + va % (if l.large then 2 ^ 29 else 2 ^ 16)

/-- The masks of a leaf admit a die and, for a cluster's port, its cluster-in-die index (R147). -/
def Leaf.admits (l : Leaf) (die : Nat) (cl : Option Nat) : Bool :=
  l.dmask.getLsbD die && (match cl with | some c => l.cmask.getLsbD c | none => true)

/-- Checks 2 to 4 of R150 on a valid leaf. -/
def Leaf.check (l : Leaf) (die : Nat) (cl : Option Nat) (rd wr : Bool) : Option Cause :=
  if l.admits die cl = false then some .pageCluster
  else if (rd && !l.rd) || (wr && !l.w) then some .pageRights
  else if l.region == .remote || (wr && l.region == .readShared) then some .regionViolation
  else none

/-- The page of a VA that a walk is for. -/
def pageOf (va : Nat) : Nat := va / 2 ^ 16
/-- The cluster-in-die index that a port's accesses are checked with; a stage manager is no cluster. -/
def portCluster (p : Nat) : Option Nat := if p < 96 then some (pcIndex p) else none

/-- The entry of a list of buffer entries for a page. -/
def findEntry (asid vpn : Nat) (l : List TlbEntry) : Option TlbEntry := l.find? (fun e => e.asid == asid && e.vpn == vpn)
/-- The leaf that a port's buffer holds for a VA of a space. -/
def Port.find (p : Port) (asid va : Nat) : Option Leaf :=
  match findEntry asid (va / 2 ^ 16) p.base with
  | some e => some e.leaf
  | none => (findEntry asid (va / 2 ^ 29) p.large).map (·.leaf)
/-- Moves the entry of a key to the front, or puts it there, keeping at most `cap` (R396). -/
def useEntry (e : TlbEntry) (cap : Nat) (l : List TlbEntry) : List TlbEntry :=
  (e :: l.filter (fun x => !(x.asid == e.asid && x.vpn == e.vpn))).take cap
/-- A leaf used or filled: it becomes the most recent of its kind. -/
def Port.use (p : Port) (asid va : Nat) (l : Leaf) : Port :=
  if l.large then { p with large := useEntry { asid := asid, vpn := va / 2 ^ 29, leaf := l } 256 p.large }
  else { p with base := useEntry { asid := asid, vpn := va / 2 ^ 16, leaf := l } 4096 p.base }
/-- A level-2 or level-3 entry used or filled in the walk cache (R149, R396). -/
def Port.useWalk (p : Port) (asid level va table : Nat) : Port :=
  let i := va / 2 ^ levelShift level
  { p with wcache := ({ asid := asid, level := level, index := i, table := table } ::
      p.wcache.filter (fun e => !(e.asid == asid && e.level == level && e.index == i))).take 256 }
/-- The table that the walk cache holds for a level of a VA. -/
def Port.walkHit (p : Port) (asid level va : Nat) : Option Nat :=
  (p.wcache.find? (fun e => e.asid == asid && e.level == level && e.index == va / 2 ^ levelShift level)).map (·.table)

/-- A walk begins, or begins again: from the lowest table the walk cache holds. -/
def State.beginWalk (s : State) (port : Nat) (w : Walk) : State :=
  let p := s.port port
  let q : Port × Nat × Nat :=
    match p.walkHit w.asid 2 w.va with
    | some t => (p.useWalk w.asid 2 w.va t, 1, t)
    | none => match p.walkHit w.asid 3 w.va with
      | some t => (p.useWalk w.asid 3 w.va t, 2, t)
      | none => (p, 3, w.root)
  (s.modPort port (fun _ => { q.1 with
    walks := q.1.walks.map (fun x => if x.id = w.id then
      { x with level := q.2.1, table := q.2.2, running := true, restart := false, req := none, got := none } else x) })).after
    12 (.walkEnd port w.id)

/-- Walks that a port has in progress. -/
def Port.running (p : Port) : Nat := (p.walks.filter (fun w => w.running)).length
/-- The oldest waiting walk starts when fewer than 4 run (R149, R152). -/
def State.nextWalkOf (s : State) (port : Nat) : State :=
  let p := s.port port
  if 4 ≤ p.running then s
  else match p.walks.find? (fun w => !w.running && !w.failed && w.req.isNone) with
    | none => s
    | some w => s.beginWalk port w
/-- A miss asks for a walk. -/
def State.startWalk (s : State) (port : Nat) (who : WalkFor) (acc : AccKind) (asid root va : Nat) : State :=
  let p := s.port port
  (s.modPort port (fun _ => { p with
    nextWalk := p.nextWalk + 1
    walks := p.walks ++ [{ id := p.nextWalk, who := who, acc := acc, asid := asid, root := root, va := va, level := 3, table := root,
                           running := false, restart := false, req := none, failed := false, got := none }] })).nextWalkOf port

/-- Somebody still waits for the walk's outcome. -/
def State.awaited (s : State) (w : Walk) : Bool :=
  match w.who with
  | .strand sa => match s.strand? sa with | some m => m.xwait == some (w.asid, pageOf w.va) | none => false
  | .background _ => false
  | _ => true
/-- The owner of a walk that has ended goes on (R149 step 5). -/
def State.wakeOwner (s : State) (w : Walk) : State :=
  if s.awaited w = false then s else
  match w.who with
  | .strand sa => s.after 0 (.reissue sa)
  | .wide cl sa q => s.after 0 (.wideAtomicTranslate cl sa q)
  | .engine d e => s.after 0 (.copyWalkEnd d e)
  | .matrix cl => s.after 0 (.maccstWalkEnd cl)
  | .background _ => s
/-- A walk ends: with a valid leaf the buffer is filled; without one the walk stays as failed until its owner reissues. -/
def State.endWalk (s : State) (port : Nat) (w : Walk) (l : Option Leaf) : State :=
  let keep := l.isNone && s.awaited w
  let s1 := s.modPort port (fun p =>
    let p1 := match l with | some leaf => p.use w.asid w.va leaf | none => p
    { p1 with walks := (p1.walks.filter (fun x => keep || x.id != w.id)).map (fun x =>
        if x.id = w.id then { x with running := false, failed := true, req := none } else x) })
  (s1.wakeOwner w).nextWalkOf port

/-- Whether a walk for this owner and page has failed. -/
def Port.failedFor (p : Port) (who : WalkFor) (asid va : Nat) : Bool :=
  p.walks.any (fun w => w.failed && w.who == who && w.asid == asid && pageOf w.va == pageOf va)
/-- The failed walk of an owner is forgotten. -/
def Port.forget (p : Port) (who : WalkFor) : Port := { p with walks := p.walks.filter (fun w => !(w.failed && w.who == who)) }

/-- The outcome of a translation. -/
inductive Xres where
  | hit (l : Leaf) | fail (c : Cause) | miss
deriving DecidableEq, Repr
/-- A VA looked up for an owner: a leaf that passes R150, a failure, or a miss. -/
def State.xlate (s : State) (port : Nat) (who : WalkFor) (asid va : Nat) (rd wr : Bool) : Xres :=
  match (s.port port).find asid va with
  | some l => match l.check (portDie port) (portCluster port) rd wr with
    | some c => .fail c
    | none => .hit l
  | none => if (s.port port).failedFor who asid va then .fail .pageUnmapped else .miss

/-- An entry of a level and, of a valid leaf, its companion word, as a private region's are read: through the L2 of a die (R145, R151). -/
def State.entryAt (s : State) (die level table va : Nat) : Nat × Nat :=
  let a := table + 8 * vaIndex level va
  let e := s.lowView die a 8
  (e, if decide (level < 2) && e % 4 == 3 then s.lowView die (a + 0x10000) 8 else 0)
/-- The leaf that the tables give a VA now, from a table of a level down. -/
def State.tableLeaf (s : State) (die va : Nat) : Nat → Nat → Option Leaf
  | 0, table =>
    (match classify 0 (s.entryAt die 0 table va).1 (s.entryAt die 0 table va).2 with
     | .leaf l => some l
     | _ => none)
  | level + 1, table =>
    match classify (level + 1) (s.entryAt die (level + 1) table va).1 (s.entryAt die (level + 1) table va).2 with
    | .leaf l => some l
    | .table pa => s.tableLeaf die va level pa
    | _ => none
/-- The leaf of a VA at a port: the buffer's, or the one that the tables give now. -/
def State.leafOf (s : State) (port asid root va : Nat) : Option Leaf :=
  match (s.port port).find asid va with
  | some l => some l
  | none => s.tableLeaf (portDie port) va 3 root
/-- The leaves below a table of a level that memory lists. -/
def State.leavesBelow (s : State) : Nat → Nat → List Leaf
  | 0, table =>
    ((s.mem.filter (fun c => decide (table ≤ c.1) && decide (c.1 < table + 0x10000))).map (fun c => c.1 / 8 * 8)).eraseDups.filterMap (fun a =>
      match classify 0 (s.read a 8) (s.read (a + 0x10000) 8) with | .leaf l => some l | _ => none)
  | level + 1, table =>
    ((s.mem.filter (fun c => decide (table ≤ c.1) && decide (c.1 < table + (if level = 2 then 32 else 0x10000)))).map
      (fun c => c.1 / 8 * 8)).eraseDups.flatMap (fun a => match classify (level + 1) (s.read a 8) (s.read (a + 0x10000) 8) with
        | .leaf l => [l]
        | .table pa => s.leavesBelow level pa
        | _ => [])
/-- The leaves of the address spaces of the strands, and those that the translation buffers hold. -/
def State.leaves (s : State) : List Leaf :=
  ((s.strands.filter (fun m => m.run != .vacant)).map (·.root)).eraseDups.flatMap (s.leavesBelow 3) ++
  s.ports.flatMap (fun p => (p.2.base ++ p.2.large).map (·.leaf))

/-- A walk reads the entry of a level, and a leaf's companion word with it, in this cycle; the data come after the larger latency of
the two, each read as from a private region (R145, R149 step 3). -/
def State.readEntry (s : State) (port : Nat) (w : Walk) (level table : Nat) : State :=
  let a := table + 8 * vaIndex level w.va
  let e := (s.entryAt (portDie port) level table w.va).1
  let c := (s.entryAt (portDie port) level table w.va).2
  let leafy := decide (level < 2) && e % 4 == 3
  let t := tierLatency (portDie port) a .priv s.freeCtr
  let u := if leafy then tierLatency (portDie port) (a + 0x10000) .priv (s.freeCtr + 2) else 0
  ((s.modPort port (fun p => { p with walks := p.walks.map (fun x =>
    if x.id = w.id then { x with level := level, table := table, got := some (e, c) } else x) })).after
      (if t < u then u else t) (.walkEnd port w.id)).bump 4
/-- The next entry of a walk is read, if it lies in memory. -/
def nextEntry (s : State) (port : Nat) (w : Walk) (level table : Nat) : Out :=
  let a := table + 8 * vaIndex level w.va
  if hbmTop < a + 8 + (if decide (level < 2) && (s.entryAt (portDie port) level table w.va).1 % 4 == 3 then 0x10000 else 0) then .fault (.noSuchPhysical a)
  else .next (s.readEntry port w level table)
/-- The slices have performed a port walker's read of an entry, and of its companion (R375, R378). -/
def State.walkSeen (s : State) (port : Nat) (w : Walk) (e : Nat) : State :=
  let a := w.table + 8 * vaIndex w.level w.va
  let seen := fun (x : State) (pa : Nat) =>
    x.watchAll pa 8 true false .priv .slice (portDie port) 1 (portDie port + (portCluster port).getD 15 * 8)
  if decide (w.level < 2) && e % 4 == 3 then seen (seen s a) (a + 0x10000) else seen s a
/-- WALK_END: the 12 cycles before the first read, or the read of the walk's current level, end (R149 steps 3 and 4). -/
def execWalkEnd (port walk : Nat) (s : State) : Out :=
  match (s.port port).walks.find? (fun w => w.id == walk && w.running) with
  | none => .next s
  | some w =>
    match w.got with
    | none => nextEntry s port w w.level w.table
    | some (e, c) =>
      let s := s.walkSeen port w e
      let a := w.table + 8 * vaIndex w.level w.va
      match classify w.level e c with
      | .table pa =>
        nextEntry (s.modPort port (fun p => if 2 ≤ w.level ∧ w.restart = false then p.useWalk w.asid w.level w.va pa else p))
          port w (w.level - 1) pa
      | .leaf l => if w.restart then .next (s.beginWalk port w) else .next (s.endWalk port w (some l))
      | .unmapped => if w.restart then .next (s.beginWalk port w) else .next (s.endWalk port w none)
      | .service =>
        if w.restart then .next (s.beginWalk port w)
        else
          let d := portDie port
          let stop := fun (id : Nat) (t : State) => (t.modPort port (fun p => { p with walks := p.walks.map (fun x =>
            if x.id = walk then { x with running := false, req := some id } else x) })).nextWalkOf port
          match (s.die d).reqs.find? (fun r => r.entry == a && r.asid == w.asid) with
          | some r => .next (stop r.id (s.modDie d (fun x => { x with
              reqs := x.reqs.map (fun y => if y.id = r.id then { y with joined := y.joined ++ [(port, walk)] } else y) })))
          | none => .next (stop (s.die d).nextReq (s.modDie d (fun x => { x with
              reqs := x.reqs ++ [{ id := x.nextReq, entry := a, asid := w.asid, va := w.va, acc := w.acc, joined := [(port, walk)] }]
              nextReq := x.nextReq + 1 })))

/-- The joined walks of a request, which then leaves the die's list. -/
def State.takeReq (s : State) (die req : Nat) : List (Nat × Nat) × State :=
  match (s.die die).reqs.find? (fun r => r.id == req) with
  | none => ([], s)
  | some r => (r.joined, s.modDie die (fun x => { x with reqs := x.reqs.filter (fun y => y.id != req) }))
/-- FAULT_SERVICE_RETRY: every joined access starts its own new walk. -/
def execFaultServiceRetry (die req : Nat) (s : State) : Out :=
  let q := s.takeReq die req
  .next (q.1.foldl (fun t j =>
    (t.modPort j.1 (fun p => { p with walks := p.walks.map (fun x => if x.id = j.2 then { x with req := none } else x) })).nextWalkOf j.1) q.2)
/-- FAULT_SERVICE_DECLINE: each joined walk ends as one that met V = 0 with SVC = 0. -/
def execFaultServiceDecline (die req : Nat) (s : State) : Out :=
  let q := s.takeReq die req
  .next (q.1.foldl (fun t j => match (t.port j.1).walks.find? (fun w => w.id == j.2) with
    | some w => t.endWalk j.1 w none
    | none => t) q.2)
/-- REISSUE: the walk or service of the strand's missing instruction has ended; it issues again at its next turn. -/
def execReissue (sa : Nat) (s : State) : Out := .next (s.modStrand sa (fun m => { m with xwait := none }))

/-- TLBINV_PORT_ARRIVAL: the named entries leave a port; its walks in progress will start again (R212). -/
def execTlbinvPortArrival (port : Nat) (form : BitVec 2) (va : BitVec 64) (space : Nat) (s : State) : Out :=
  .next (s.modPort port (fun p =>
    let walks := p.walks.map (fun w => if w.running then { w with restart := true } else w)
    match form.toNat with
    | 0 => { p with walks := walks
                    base := p.base.filter (fun e => !(e.asid == space && e.vpn == va.toNat / 2 ^ 16))
                    large := p.large.filter (fun e => !(e.asid == space && e.vpn == va.toNat / 2 ^ 29)) }
    | 1 => { p with walks := walks
                    base := p.base.filter (fun e => e.asid != space)
                    large := p.large.filter (fun e => e.asid != space)
                    wcache := p.wcache.filter (fun e => e.asid != space) }
    | _ => { p with walks := walks, base := [], large := [], wcache := [] }))

end Sys2Proof.Machine
end

