-- ==== Sys2Proof/Machine/Order.lean ====
section
/-! DEFINITION. Outstanding operations: parts, completion, landing, confirmation, and the SC total order
(R67 to R71, R160, R165, R172, R234). -/

namespace Sys2Proof.Machine

/-- The operation has a load part (R160). -/
def OpWhat.loadPart : OpWhat → Bool
  | .load _ _ => true | .vload _ => true | .amo _ _ _ _ => true | .wide _ _ _ _ _ => true | .ringHold => true | _ => false
/-- The operation has a store part (R160). -/
def OpWhat.storePart : OpWhat → Bool
  | .store => true | .amo _ _ _ _ => true | .wide _ _ _ _ _ => true | .line _ => true | _ => false
/-- The kind of access that a walk for the operation is made for (R149 step 4). -/
def OpWhat.accKind (w : OpWhat) : AccKind :=
  if w.loadPart && w.storePart then .atomic else if w.storePart && (match w with | .line _ => false | _ => true) then .write
  else match w with | .codesync _ _ => .write | .context _ false _ => .write | _ => .read
/-- The operation takes a store-queue entry (R158, R171). -/
def OpWhat.queued : OpWhat → Bool | .store => true | .line _ => true | .marker => true | _ => false
/-- The operation has a memory part. -/
def OpWhat.mem (w : OpWhat) : Bool := w.loadPart || w.storePart

/-- The operation of instruction `q` that `p` accepts. -/
def Strand.op? (m : Strand) (q : Nat) (p : OpWhat → Bool) : Option Op := m.ops.find? (fun o => o.q == q && p o.what)
/-- Some operation older than `q` is one that `p` accepts. -/
def Strand.older (m : Strand) (q : Nat) (p : OpWhat → Bool) : Bool := m.ops.any (fun o => decide (o.q < q) && p o.what)
/-- Some operation older than `q` is trappable and unconfirmed. -/
def Strand.olderTrap (m : Strand) (q : Nat) : Bool := m.ops.any (fun o => decide (o.q < q) && o.trappable)
/-- The operations of `q` that `p` accepts have completed. -/
def Strand.dropOp (m : Strand) (q : Nat) (p : OpWhat → Bool) : Strand :=
  { m with ops := m.ops.filter (fun o => !(o.q == q && p o.what)) }
/-- Changes the operations of `q` that `p` accepts. -/
def Strand.modOp (m : Strand) (q : Nat) (p : OpWhat → Bool) (f : Op → Op) : Strand :=
  { m with ops := m.ops.map (fun o => if o.q == q && p o.what then f o else o) }
/-- Any operation. -/
def anyWhat : OpWhat → Bool := fun _ => true

/-- A later write to s[d] by instruction `q`: its old value is saved while an older operation can still trap (R70). -/
def Strand.landS (m : Strand) (q : Nat) (d : SReg) (v : Word) : Strand :=
  if d = 0 then m
  else (if m.olderTrap q then { m with undo := { q := q, reg := .s d, old := m.getS d } :: m.undo } else m).pokeS d v

/-- What instruction `q` ORs into FFLAGS and VSTAT reaches the checkpoints of younger operations too (R70, R95, R234). -/
def Strand.landFlags (m : Strand) (q : Nat) (cond : BitVec 5) (vs : BitVec 2) : Strand :=
  let up := fun (f : Flags) => { f with fflags := f.fflags ||| cond, vstat := f.vstat ||| vs }
  { m with flags := up m.flags
           ops := m.ops.map (fun o => if q < o.q then { o with flags := up o.flags } else o)
           held := m.held.map (fun h => if q < h.q then { h with flags := up h.flags } else h) }

/-- A shipped result lands: its destination is written under the merge mask and its COND collected (R234). -/
def Strand.landShip (m : Strand) (o : Op) (d : RegName) (r : ShipResult) : Strand :=
  let m1 := match d with
    | .s x => m.pokeS x (r.data.setWidth 64)
    | .v x => m.setV x ((m.getV x &&& ~~~r.mask) ||| (r.data &&& r.mask))
    | .k x => m.pokeK x (r.data.setWidth 16)
  (m1.landFlags o.q r.cond 0).dropOp o.q anyWhat

/-- The held results that no older unconfirmed operation keeps back land, oldest first (R234). -/
def Strand.landHeld (m : Strand) : Strand :=
  m.ops.foldl (fun x o =>
    match o.what, o.stage with
    | .ship d r, .held => if x.olderTrap o.q then x else x.landShip o d r
    | _, _ => x) m

/-- An acquire fence whose older load parts have returned is over (R171). -/
def Strand.endFences (m : Strand) : Strand :=
  { m with ops := m.ops.filter (fun o => match o.what with | .acqFence => m.older o.q OpWhat.loadPart | _ => true) }

/-- A store-queue attempt of a strand is already due. -/
def State.drainDue (s : State) (sa : Nat) : Bool :=
  s.agenda.any (fun e => match e.2 with | .storeQueueDrain x => x == sa | _ => false)
/-- The store queue of a strand is tried while it holds anything: at once, unless it is to be tried in the next cycle (R144, R152). -/
def State.poke (s : State) (sa : Nat) : State :=
  match s.strand? sa with
  | none => s
  | some m =>
    if m.ops.any (fun o => o.what.queued && o.stage != .away) && !s.drainDue sa then s.after 0 (.storeQueueDrain sa) else s

/-- Barrier arrivals that nothing older keeps back leave the strand (R176, R189). -/
def State.sendArrivals (s : State) (sa : Nat) : State :=
  match s.strand? sa with
  | none => s
  | some m =>
    m.ops.foldl (fun u o => match o.what, o.stage with
      | .barArrive _ n sync target, .waiting =>
        if m.olderTrap o.q || m.older o.q OpWhat.mem then u
        else match s.troupe? m.troupe, s.barrier? m.troupe n with
          | some t, some b =>
            let u1 := (u.modStrand sa (fun x => x.modOp o.q anyWhat (fun y => { y with stage := .away }))).modBar m.troupe n
              (fun x => { x with target := Tab.put x.target m.vcid target })
            let u2 := u1.after (t.barSpan b) (.barrierArrival m.troupe n m.vcid)
            if sync then u2 else u2.after (t.barReply b (saPkg sa)) (.barArriveResult sa o.q)
          | _, _ => u
      | _, _ => u) s

/-- After an operation completes or is confirmed: saved values that no confirmation needs are dropped, held results land, fences
end, taken entries are removed, arrivals leave, the oldest deliverable exception is taken (R70, R71, R176, R185, R234). -/
def State.settle (s : State) (sa : Nat) : State :=
  ((((s.modStrand sa (fun m => (m.prune.landHeld).endFences)).removeTaken sa).sendArrivals sa).deliver sa).poke sa

/-- CONFIRMATION (R69): the operation can no longer trap. -/
def State.confirm (s : State) (sa q : Nat) : State :=
  (s.modStrand sa (fun m => m.modOp q anyWhat (fun o => { o with trappable := false }))).settle sa
/-- The operation completes and leaves the strand. -/
def State.complete (s : State) (sa q : Nat) (p : OpWhat → Bool) : State :=
  let s1 : State := { s with scOps := s.scOps.filter (fun o => !(o.sa == sa && o.q == q)) }
  let tr := match s.strand? sa with | some m => m.troupe | none => 0
  ((s1.modStrand sa (fun m => m.dropOp q p)).settle sa).stir tr
/-- An open step goes on with the instruction that is to issue again. -/
def DebugState.reopen (d : DebugState) (q : Nat) : DebugState := { d with stepping := d.stepping.map (fun p => (p.1, q)) }
/-- REPLAY (R149 step 2): steps 1 to 4 of R71 without a trap; the next instruction is the missing one again, and the strand
parks in WAIT_XLATE for the walk of the page. -/
def State.replay (s : State) (m : Strand) (o : Op) (va : Nat) : State :=
  ((s.undo m o.q o.flags).modStrand m.sa (fun x => { x with pc := o.pc, xwait := some (m.asid, pageOf va), dbg := x.dbg.reopen x.nextQ })).startWalk
    m.port (.strand m.sa) o.what.accKind m.asid m.root va

/-! ### The SC total order (R172) -/

/-- The release time of an SC operation announced in a window. -/
def releaseTime (window : Nat) : Nat := 64 * (window + 1) + 24
/-- `a` precedes `b`: window, then die, cluster, core and slot, then program order. -/
def ScOp.before (a b : ScOp) : Bool :=
  decide (a.window < b.window) || (a.window == b.window && (decide (a.sa < b.sa) || (a.sa == b.sa && decide (a.q < b.q))))
/-- Two ranges of bytes share one. -/
def overlaps (a n b m : Nat) : Bool := decide (a < b + m) && decide (b < a + n)
/-- Two SC operations share a byte. -/
def ScOp.shares (a b : ScOp) : Bool := a.locs.any (fun x => b.locs.any (fun y => overlaps x.1 x.2 y.1 y.2))
/-- SC_ANNOUNCEMENT: the operation takes its place in this cycle's window. -/
def State.announce (s : State) (sa q : Nat) (locs : List (Nat × Nat)) : State :=
  let w := s.cycle / 64
  let s1 : State := { s with scOps := s.scOps ++ [{ window := w, sa := sa, q := q, locs := locs }] }
  s1.atCycle (releaseTime w) (.scReleaseTime sa q)
/-- The announced operation of a strand's instruction. -/
def State.scOp? (s : State) (sa q : Nat) : Option ScOp := s.scOps.find? (fun o => o.sa == sa && o.q == q)
/-- A controller holds the access: a preceding SC access shares a byte and is not yet performed. -/
def State.scHeld (s : State) (sa q : Nat) : Bool :=
  match s.scOp? sa q with
  | none => false
  | some o => s.scOps.any (fun x => x.before o && x.shares o)

/-- The bytes of an operation's accesses. -/
def Op.locs (o : Op) : List (Nat × Nat) := o.accs.filterMap (fun a => a.loc.map (fun l => (l, a.size)))
/-- What an access of an operation reaches: FLUSHL and INVL act on the whole line (R158). -/
def Op.reach (o : Op) (a : Access) : Access :=
  match o.what with
  | .line _ => { a with va := a.va / 128 * 128, loc := a.loc.map (fun l => l / 128 * 128), size := 128 }
  | _ => a
/-- Two accesses share a byte; while one of them is not yet translated, two global ones may share one if they do within a page. -/
def Access.shares (x y : Access) (glob : Bool) : Bool :=
  match x.loc, y.loc with
  | some l, some k => overlaps l x.size k y.size
  | _, _ => glob && overlaps (x.va % 65536) x.size (y.va % 65536) y.size
/-- Two operations of a strand share a byte, or may share one. -/
def Op.shares (a b : Op) : Bool := a.accs.any (fun x => b.accs.any (fun y => (a.reach x).shares (b.reach y) (a.kind == 1 && b.kind == 1)))

/-- An older load part of the strand shares a byte and has not bound its value, or an older FLUSHL or INVL of its line is not performed: accesses of
one location take effect in program order (R162, R163, R180). -/
def Strand.olderLoad (m : Strand) (o : Op) : Bool :=
  m.ops.any (fun x => decide (x.q < o.q) && (x.what.loadPart || (match x.what with | .line _ => true | _ => false)) && x.shares o)

end Sys2Proof.Machine
end

