-- ==== Sys2Proof/Machine/Channel.lean ====
section
/-! DEFINITION. Majors 0x17 to 0x19: channels, barriers and the inbox (R183 to R192). The waits before issue stand in
Hazards; an instruction whose wait is not over leaves the state as it is. -/

namespace Sys2Proof.Machine

/-- TRAPADDR of an unbound port or barrier. -/
def unboundCode (base n : Nat) : Word := BitVec.ofNat 64 (base + n)
/-- The word of a CHAN or BAR form. -/
def formA (major d a b minor aux : Nat) (c : Bool) : Word :=
  words (major * 2 ^ 26 + d * 2 ^ 21 + a * 2 ^ 16 + b * 2 ^ 11 + minor * 16 + aux * 2 + c.toNat) 0

/-- SEND and SENDV: one credit, one entry on its way (R184). -/
def send (w : Word) (vec : Bool) (data : VWord) (n : BitVec 3) (c : Bool) (s : State) : Out :=
  s.gate w false vcoreKind
    (match s.outBind s.me n.toNat with
     | none => s.trap .channelUnbound (unboundCode 0 n.toNat)
     | some b => if s.me.credits[n.toNat] = 0 then .next s else .next ((s.sendEntry b vec data).fin 4 c))
/-- SEND. -/
def execSend (a : SReg) (n : BitVec 3) (c : Bool) (s : State) : Out :=
  send (formA 0x17 0 a.toNat n.toNat 0 0 c) false ((s.me.getS a).setWidth 512) n c s
/-- SENDV. -/
def execSendv (a : VReg) (n : BitVec 3) (c : Bool) (s : State) : Out :=
  send (formA 0x17 0 a.toNat n.toNat 1 0 c) true (s.me.getV a) n c s

/-- The oldest untaken entry of a port is taken by the current instruction (R185). -/
def Strand.takeEntry (m : Strand) (n : BitVec 3) : Strand :=
  m.modPort n (modFirst (fun e => e.taken.isNone) (fun e => { e with taken := some m.nextQ }))
/-- The oldest untaken message is taken by the current instruction. -/
def Strand.takeMsg (m : Strand) : Strand :=
  { m with inbox := modFirst (fun e => e.taken.isNone) (fun e => { e with taken := some m.nextQ }) m.inbox }
/-- A consuming instruction: `f` writes its destinations, the entry is marked, and it is removed at once if nothing older
is unconfirmed (R185). -/
def consume (take f : Strand → Strand) (c : Bool) (s : State) : Out :=
  .next ((s.mod (fun m => (f (take m)).retire 4 c)).removeTaken s.me.sa)

/-- RECV and RECVV on a bound port that holds an untaken entry (R184). -/
def recv (w : Word) (n : BitVec 3) (f : PortEntry → Strand → Strand) (c : Bool) (s : State) : Out :=
  s.gate w false vcoreKind
    (match s.inBind s.me n.toNat with
     | none => s.trap .channelUnbound (unboundCode 0x10 n.toNat)
     | some _ => match untaken (s.me.inPort n) with
       | [] => .next s
       | e :: _ => consume (fun m => m.takeEntry n) (f e) c s)
/-- RECV: a vector entry yields its lanes 0 and 1. -/
def execRecv (d : SReg) (n : BitVec 3) (c : Bool) (s : State) : Out :=
  recv (formA 0x17 d.toNat 0 n.toNat 2 0 c) n (fun e m => m.setS d (e.data.setWidth 64)) c s
/-- RECVV: a word entry fills lanes 0 and 1 and clears the rest. -/
def execRecvv (d : VReg) (n : BitVec 3) (c : Bool) (s : State) : Out :=
  recv (formA 0x17 d.toNat 0 n.toNat 3 0 c) n
    (fun e m => m.setV d (if e.vec then e.data else (e.data.setWidth 64).setWidth 512)) c s
/-- TRYRECV never waits; with no entry it writes s[a] := 0 only. -/
def execTryrecv (d a : SReg) (n : BitVec 3) (c : Bool) (s : State) : Out :=
  let w := formA 0x17 d.toNat a.toNat n.toNat 4 0 c
  s.gate w false vcoreKind
    (match s.inBind s.me n.toNat with
     | none => s.trap .channelUnbound (unboundCode 0x10 n.toNat)
     | some _ => match untaken (s.me.inPort n) with
       | [] => .next (s.finS a 0 4 c)
       | e :: _ => consume (fun m => m.takeEntry n) (fun m => (m.setS d (e.data.setWidth 64)).setS a 1) c s)
/-- CHSTAT.in (R186). -/
def execChstatIn (d : SReg) (n : BitVec 3) (c : Bool) (s : State) : Out :=
  s.gate (formA 0x17 d.toNat 0 n.toNat 5 0 c) false vcoreKind
    (let es := untaken (s.me.inPort n)
     let head := match es with | e :: _ => e.vec | [] => false
     .next (s.finS d (BitVec.ofNat 64 (head.toNat * 512 + (s.inBind s.me n.toNat).isSome.toNat * 256 + es.length)) 4 c))
/-- CHSTAT.out (R186). -/
def execChstatOut (d : SReg) (n : BitVec 3) (c : Bool) (s : State) : Out :=
  s.gate (formA 0x17 d.toNat 0 n.toNat 5 1 c) false vcoreKind
    (.next (s.finS d (BitVec.ofNat 64 ((s.outBind s.me n.toNat).isSome.toNat * 256 + s.me.credits[n.toNat])) 4 c))

/-! ### Barriers -/

/-- The strand is a member of the barrier. -/
def Barrier.member (b : Barrier) (m : Strand) : Bool := b.members.contains m.vcid
/-- The strand has an arrival of barrier `n` that is still outstanding. -/
def Strand.arriving (m : Strand) (n : Nat) : Bool :=
  m.ops.any (fun o => match o.what with | .barArrive _ k _ _ => k == n && o.stage == .waiting | _ => false)
/-- BAR.ARRIVE and BAR.SYNC: the arrival is held at the strand and then sent to the home (R189). -/
def arrive (w : Word) (sync : Bool) (d : SReg) (n : BitVec 3) (c : Bool) (s : State) : Out :=
  let m := s.me
  s.gate w false vcoreKind
    (match s.barrier? m.troupe n.toNat with
     | none => s.trap .channelUnbound (unboundCode 0x20 n.toNat)
     | some b =>
       if b.member m = false then s.trap .channelUnbound (unboundCode 0x20 n.toNat)
       else if b.mustWait m.vcid (saPkg m.sa) || m.arriving n.toNat then .next s
       else
         let target := b.genAt (saPkg m.sa) + 1
         let o : Op := { q := m.nextQ, pc := m.pc, what := .barArrive d n.toNat sync target, dsts := [.s d], accs := [],
                         ord := 0, kind := 0, stage := .waiting, trappable := false, flags := m.flags, issued := s.cycle }
         .next ((s.mod (fun x => { x with ops := x.ops ++ [o] }.retire 4 c)).sendArrivals m.sa))
/-- BAR.ARRIVE. The scope orders only what its observers see (R166). -/
def execBarArrive (d : SReg) (n sc : BitVec 3) (c : Bool) (s : State) : Out :=
  arrive (formA 0x18 d.toNat 0 n.toNat 0 sc.toNat c) false d n c s
/-- BAR.SYNC. -/
def execBarSync (d : SReg) (n sc : BitVec 3) (c : Bool) (s : State) : Out :=
  arrive (formA 0x18 d.toNat 0 n.toNat 2 sc.toNat c) true d n c s
/-- BAR.WAIT: once the target has passed in the own cluster, s[d] is the generation seen there (R189). -/
def execBarWait (d a : SReg) (n sc : BitVec 3) (c : Bool) (s : State) : Out :=
  let m := s.me
  s.gate (formA 0x18 d.toNat a.toNat n.toNat 1 sc.toNat c) false vcoreKind
    (match s.barrier? m.troupe n.toNat with
     | none => s.trap .channelUnbound (unboundCode 0x20 n.toNat)
     | some b =>
       let g := b.genAt (saPkg m.sa)
       if passed g ((m.getS a).setWidth 16) then .next (s.finS d (zx g) 4 c) else .next s)
/-- M, ARRIVED and GEN as held at the home (R189). -/
def Barrier.stat (b : Barrier) : Word :=
  BitVec.ofNat 64 (b.members.length % 2 ^ 16 * 2 ^ 32 + b.arrived.length % 2 ^ 16 * 2 ^ 16 + b.gen.toNat)
/-- BAR.STAT: read at the home in the issue cycle, or L cycles later from another cluster. -/
def execBarStat (d : SReg) (n : BitVec 3) (c : Bool) (s : State) : Out :=
  let m := s.me
  s.gate (formA 0x18 d.toNat 0 n.toNat 3 0 c) false vcoreKind
    (match s.troupe? m.troupe, s.barrier? m.troupe n.toNat with
     | some t, some b =>
       if t.barHome b = saPkg m.sa then .next (s.finS d b.stat 4 c)
       else
         let o : Op := { q := m.nextQ, pc := m.pc, what := .barStat d n.toNat 0, dsts := [.s d], accs := [], ord := 0,
                         kind := 0, stage := .waiting, trappable := false, flags := m.flags, issued := s.cycle }
         .next ((s.mod (fun x => { x with ops := x.ops ++ [o] }.retire 4 c)).after (routeLatency (t.barHome b) (saPkg m.sa))
           (.barStatResult m.sa m.nextQ))
     | _, _ => s.trap .channelUnbound (unboundCode 0x20 n.toNat))
/-- BAR_STAT_RESULT: at c + L the home is read; at c + 2L the value is written. -/
def execBarStatResult (sa q : Nat) (s : State) : Out :=
  match s.strand? sa with
  | none => .next s
  | some m => match m.op? q anyWhat with
    | none => .next s
    | some o => match o.what, o.stage with
      | .barStat d n _, .waiting =>
        let v : Word := match s.barrier? m.troupe n with | some b => b.stat | none => 0
        .next ((s.modStrand sa (fun x => x.modOp q anyWhat (fun y => { y with what := .barStat d n v, stage := .away }))).after
          (s.cycle - o.issued) (.barStatResult sa q))
      | .barStat d _ v, _ => .next ((s.modStrand sa (fun x => x.landS q d v)).complete sa q anyWhat)
      | _, _ => .next s
/-- BAR_ARRIVE_RESULT: the destination is the target. -/
def execBarArriveResult (sa q : Nat) (s : State) : Out :=
  match s.strand? sa with
  | none => .next s
  | some m => match m.op? q anyWhat with
    | none => .next s
    | some o => match o.what with
      | .barArrive d _ false t => .next ((s.modStrand sa (fun x => x.landS q d (zx t))).complete sa q anyWhat)
      | _ => .next s
/-- A BAR.SYNC whose target has passed in the strand's cluster ends at the strand's turn; its destination is ready 1 cycle
later (R190). -/
def State.endSync (s : State) (sa : Nat) : State :=
  match s.strand? sa with
  | none => s
  | some m =>
    match m.ops.find? (fun o => match o.what with | .barArrive _ _ true _ => true | _ => false) with
    | none => s
    | some o => match o.what with
      | .barArrive d n _ t =>
        match s.barrier? m.troupe n with
        | none => s
        | some b =>
          if o.stage == .away && passed (b.genAt (saPkg sa)) t then
            ((s.modStrand sa (fun x => let y := x.landS o.q d (zx t)
                                       { y with fixed := { q := o.q, reg := .s d, due := s.cycle + 1, fflags := false, vstat := false } :: y.fixed })).complete sa o.q anyWhat)
          else s
      | _ => s

/-! ### The inbox (R192) -/

/-- INBOX.WAIT: takes the oldest untaken message. -/
def execInboxWait (d : SReg) (c : Bool) (s : State) : Out :=
  match s.me.inbox.filter (fun e => e.taken.isNone) with
  | [] => .next s
  | e :: _ => consume (fun m => m.takeMsg) (fun m => m.setS d e.data) c s
/-- INBOX.POLL: 0 when the inbox holds no untaken message. -/
def execInboxPoll (d : SReg) (c : Bool) (s : State) : Out :=
  match s.me.inbox.filter (fun e => e.taken.isNone) with
  | [] => .next (s.finS d 0 4 c)
  | e :: _ => consume (fun m => m.takeMsg) (fun m => m.setS d e.data) c s

end Sys2Proof.Machine
end

