-- ==== Sys2Proof/Machine/Float.lean ====
section
/-! DEFINITION. Number formats, exact values, rounding and the floating-point operations (R91 to R93, R99 to R101,
R106 to R116, R237 to R242). Arithmetic is exact on integers times powers of two; only `roundTo` rounds. -/

namespace Sys2Proof.Machine

/-- A floating-point format (R91). -/
structure Fmt where
  ebits : Nat
  mbits : Nat
  /-- E4M3: no infinities, one NaN magnitude (R92) -/
  e43 : Bool
deriving DecidableEq, Repr

def fp64 : Fmt := { ebits := 11, mbits := 52, e43 := false }
def fp32 : Fmt := { ebits := 8, mbits := 23, e43 := false }
def fp16 : Fmt := { ebits := 5, mbits := 10, e43 := false }
def bf16 : Fmt := { ebits := 8, mbits := 7, e43 := false }
def e5m2 : Fmt := { ebits := 5, mbits := 2, e43 := false }
def e4m3 : Fmt := { ebits := 4, mbits := 3, e43 := true }

/-- The exponent bias. -/
def Fmt.bias (f : Fmt) : Nat := 2 ^ (f.ebits - 1) - 1
/-- The width in bits. -/
def Fmt.width (f : Fmt) : Nat := 1 + f.ebits + f.mbits
/-- The sign bit's weight. -/
def Fmt.signBit (f : Fmt) : Nat := 2 ^ (f.ebits + f.mbits)
/-- The default NaN (R91, R93). -/
def Fmt.nan (f : Fmt) : Nat :=
  if f.e43 then 0x7F else (2 ^ f.ebits - 1) * 2 ^ f.mbits + 2 ^ (f.mbits - 1)
/-- Infinity of a sign. -/
def Fmt.inf (f : Fmt) (neg : Bool) : Nat := (if neg then f.signBit else 0) + (2 ^ f.ebits - 1) * 2 ^ f.mbits
/-- Zero of a sign. -/
def Fmt.zero (f : Fmt) (neg : Bool) : Nat := if neg then f.signBit else 0
/-- The largest finite magnitude's encoding. -/
def Fmt.largest (f : Fmt) : Nat :=
  if f.e43 then 0x7E else (2 ^ f.ebits - 1) * 2 ^ f.mbits - 1
/-- The exponent of the smallest normal. -/
def Fmt.emin (f : Fmt) : Int := 1 - (f.bias : Int)

/-- What an encoding means (R92): a finite non-zero value is (−1)^neg · m · 2^e. -/
inductive FVal where
  | nan (signaling : Bool)
  | inf (neg : Bool)
  | zero (neg : Bool)
  | fin (neg : Bool) (m : Nat) (e : Int)
deriving DecidableEq, Repr

/-- The mantissa and exponent fields. -/
def Fmt.manF (f : Fmt) (b : Nat) : Nat := b % 2 ^ f.mbits
def Fmt.expF (f : Fmt) (b : Nat) : Nat := b / 2 ^ f.mbits % 2 ^ f.ebits
def Fmt.negF (f : Fmt) (b : Nat) : Bool := b / f.signBit % 2 == 1
/-- A non-zero encoding with exponent field 0. -/
def Fmt.isSub (f : Fmt) (b : Nat) : Bool := f.expF b == 0 && f.manF b != 0

/-- Decodes an encoding (R92). -/
def Fmt.value (f : Fmt) (b : Nat) : FVal :=
  let m := f.manF b
  let e := f.expF b
  let s := f.negF b
  if e = 0 then (if m = 0 then .zero s else .fin s m (f.emin - f.mbits))
  else if e = 2 ^ f.ebits - 1 ∧ f.e43 = false then
    (if m = 0 then .inf s else .nan (m / 2 ^ (f.mbits - 1) % 2 == 0))
  else if f.e43 = true ∧ e = 2 ^ f.ebits - 1 ∧ m = 2 ^ f.mbits - 1 then .nan false
  else .fin s (2 ^ f.mbits + m) ((e : Int) - f.bias - f.mbits)

/-- A source as an instruction reads it: with FTZ a subnormal reads as the zero of its sign (R103). -/
def Fmt.source (f : Fmt) (ftz : Bool) (b : Nat) : FVal :=
  if ftz && f.isSub b then .zero (f.negF b) else f.value b

/-- The exception conditions in FFLAGS positions (R74). -/
def condNV : BitVec 5 := 16
def condDZ : BitVec 5 := 8
def condOF : BitVec 5 := 4
def condUF : BitVec 5 := 2
def condNX : BitVec 5 := 1

/-- A result and the conditions it raised. -/
structure FRes where
  bits : Nat
  cond : BitVec 5
deriving DecidableEq, Repr

/-- The rounding modes of R99. -/
inductive RMode where
  | rne | rtz | rdn | rup | rna
  /-- stochastic with the generator's new state -/
  | sr (r : Nat)
deriving DecidableEq, Repr

/-- A magnitude cut at the quantum 2^qe: the multiple below it, and what is left over as a part of `den`;
`sticky` says that something below the last bit is left too. -/
structure Cut where
  lo : Nat
  rem : Nat
  den : Nat
  sticky : Bool
deriving DecidableEq, Repr

/-- Cuts m · 2^e (plus less than one unit of 2^e when `sticky`) at 2^qe. -/
def cutAt (m : Nat) (e : Int) (sticky : Bool) (qe : Int) : Cut :=
  if qe ≤ e then { lo := m * 2 ^ (e - qe).toNat, rem := 0, den := 1, sticky := sticky }
  else
    let sh := (qe - e).toNat
    { lo := m / 2 ^ sh, rem := m % 2 ^ sh, den := 2 ^ sh, sticky := sticky }

/-- The cut is exact. -/
def Cut.exact (c : Cut) : Bool := c.rem == 0 && !c.sticky

/-- Does the mode choose the multiple above (R99, R101)? -/
def Cut.up (c : Cut) (mode : RMode) (neg : Bool) : Bool :=
  if c.exact then false
  else
    match mode with
    | .rtz => false
    | .rdn => neg
    | .rup => !neg
    | .rne => decide (c.den < 2 * c.rem) || (2 * c.rem == c.den && (c.sticky || c.lo % 2 == 1))
    | .rna => decide (c.den ≤ 2 * c.rem)
    | .sr r => decide (r * c.den < c.rem * 2 ^ 32)

/-- The chosen multiple. -/
def Cut.round (c : Cut) (mode : RMode) (neg : Bool) : Nat := if c.up mode neg then c.lo + 1 else c.lo

/-- The encoding of the magnitude n · 2^qe, which the format holds. -/
def Fmt.encodeMag (f : Fmt) (n : Nat) (qe : Int) : Nat :=
  if n < 2 ^ f.mbits then n
  else
    let two := n = 2 ^ (f.mbits + 1)
    let n1 := if two then 2 ^ f.mbits else n
    let q1 := if two then qe + 1 else qe
    (q1 + f.mbits + f.bias).toNat * 2 ^ f.mbits + (n1 - 2 ^ f.mbits)

/-- n · 2^a < 2^b. -/
def below (n : Nat) (a b : Int) : Bool :=
  if a ≤ b then decide (n < 2 ^ (b - a).toNat) else decide (n * 2 ^ (a - b).toNat < 1)

/-- The magnitude n · 2^qe exceeds the largest finite value. -/
def Fmt.tooLarge (f : Fmt) (n : Nat) (qe : Int) : Bool :=
  let top : Int := if f.e43 then (8 : Int) - f.mbits else (f.bias : Int) - f.mbits
  let max : Nat := if f.e43 then 14 else 2 ^ (f.mbits + 1) - 1
  if top ≤ qe then decide (max < n * 2 ^ (qe - top).toNat) else decide (max * 2 ^ (top - qe).toNat < n)

/-- Rounds the exact value (−1)^neg · m · 2^e, m > 0, into a format (R99, R101, R103): overflow by mode, tininess
after rounding at full precision, one rounding of the delivered value. -/
def roundTo (mode : RMode) (f : Fmt) (ftz : Bool) (neg : Bool) (m : Nat) (e : Int) (sticky : Bool) : FRes :=
  let sgn := if neg then f.signBit else 0
  let qe := e + (Nat.log2 m + 1 : Nat) - (f.mbits + 1 : Nat)
  let c := cutAt m e sticky qe
  let n := c.round mode neg
  if f.tooLarge n qe then
    let toInf := match mode with
      | .rtz => false
      | .rdn => neg
      | .rup => !neg
      | _ => true
    { bits := sgn + (if toInf && !f.e43 then f.inf false else f.largest), cond := condOF ||| condNX }
  else if n ≠ 0 ∧ below n qe f.emin = true then
    if ftz then { bits := sgn, cond := condUF ||| condNX }
    else
      let c2 := cutAt m e sticky (f.emin - f.mbits)
      let n2 := c2.round mode neg
      { bits := sgn + f.encodeMag n2 (f.emin - f.mbits),
        cond := if c2.exact then 0 else condUF ||| condNX }
  else { bits := sgn + f.encodeMag n qe, cond := if c.exact then 0 else condNX }

/-- The default NaN with NV, or without. -/
def Fmt.nanRes (f : Fmt) (nv : Bool) : FRes := { bits := f.nan, cond := if nv then condNV else 0 }

/-- An exact signed integer times 2^e, rounded; an exact zero takes the sign `z`. -/
def roundInt (mode : RMode) (f : Fmt) (ftz : Bool) (v : Int) (e : Int) (z : Bool) : FRes :=
  if v = 0 then { bits := f.zero z, cond := 0 } else roundTo mode f ftz (decide (v < 0)) v.natAbs e false

/-- A finite value as a signed integer. -/
def signed (neg : Bool) (m : Nat) : Int := if neg then -(m : Int) else m

/-- The exact sum of two signed dyadics, over the smaller exponent. -/
def addExact (a : Int) (ea : Int) (b : Int) (eb : Int) : Int × Int :=
  if ea ≤ eb then (a + b * 2 ^ (eb - ea).toNat, ea) else (a * 2 ^ (ea - eb).toNat + b, eb)

/-- The sign of a zero sum (R99): the common sign, else + except under RDN. -/
def zeroSign (mode : RMode) (a b : Bool) : Bool := if a = b then a else mode == .rdn

/-- A signaling NaN. -/
def FVal.signaling : FVal → Bool | .nan true => true | _ => false
/-- Any NaN. -/
def FVal.isNan : FVal → Bool | .nan _ => true | _ => false
/-- The sign of a value; a NaN has none. -/
def FVal.neg : FVal → Bool
  | .nan _ => false | .inf s => s | .zero s => s | .fin s _ _ => s
/-- The value with its sign inverted. -/
def FVal.negate : FVal → FVal
  | .nan q => .nan q | .inf s => .inf (!s) | .zero s => .zero (!s) | .fin s m e => .fin (!s) m e

/-- A value rounded into a format. -/
def roundVal (mode : RMode) (f : Fmt) (ftz : Bool) (x : FVal) : FRes :=
  match x with
  | .nan q => f.nanRes q
  | .inf s => { bits := f.inf s, cond := 0 }
  | .zero s => { bits := f.zero s, cond := 0 }
  | .fin s m e => roundTo mode f ftz s m e false

/-- x + y (R106). -/
def fAdd (mode : RMode) (f : Fmt) (ftz : Bool) (x y : FVal) : FRes :=
  match x, y with
  | .nan a, .nan b => f.nanRes (a || b)
  | .nan a, _ => f.nanRes a
  | _, .nan b => f.nanRes b
  | .inf a, .inf b => if a = b then { bits := f.inf a, cond := 0 } else f.nanRes true
  | .inf a, _ => { bits := f.inf a, cond := 0 }
  | _, .inf b => { bits := f.inf b, cond := 0 }
  | .zero a, .zero b => { bits := f.zero (zeroSign mode a b), cond := 0 }
  | .zero _, y => roundVal mode f ftz y
  | x, .zero _ => roundVal mode f ftz x
  | .fin a m e, .fin b n g =>
    let r := addExact (signed a m) e (signed b n) g
    roundInt mode f ftz r.1 r.2 (mode == .rdn)

/-- x × y (R106). -/
def fMul (mode : RMode) (f : Fmt) (ftz : Bool) (x y : FVal) : FRes :=
  let s := x.neg != y.neg
  match x, y with
  | .nan a, .nan b => f.nanRes (a || b)
  | .nan a, _ => f.nanRes a
  | _, .nan b => f.nanRes b
  | .inf _, .zero _ => f.nanRes true
  | .zero _, .inf _ => f.nanRes true
  | .inf _, _ => { bits := f.inf s, cond := 0 }
  | _, .inf _ => { bits := f.inf s, cond := 0 }
  | .zero _, _ => { bits := f.zero s, cond := 0 }
  | _, .zero _ => { bits := f.zero s, cond := 0 }
  | .fin _ m e, .fin _ n g => roundTo mode f ftz s (m * n) (e + g) false

/-- x × y + z with one rounding (R112): 0 × ∞ raises NV even with a quiet NaN addend. -/
def fFma (mode : RMode) (f : Fmt) (ftz : Bool) (x y z : FVal) : FRes :=
  let s := x.neg != y.neg
  let nan := x.isNan || y.isNan || z.isNan
  let snan := x.signaling || y.signaling || z.signaling
  let bad := match x, y with
    | .inf _, .zero _ => true
    | .zero _, .inf _ => true
    | _, _ => false
  if bad then f.nanRes true
  else if nan then f.nanRes snan
  else
    let p : FVal := match x, y with
      | .inf _, _ => .inf s
      | _, .inf _ => .inf s
      | .fin _ m e, .fin _ n g => .fin s (m * n) (e + g)
      | _, _ => .zero s
    fAdd mode f ftz p z

/-- x ÷ y (R238). -/
def fDiv (mode : RMode) (f : Fmt) (ftz : Bool) (x y : FVal) : FRes :=
  let s := x.neg != y.neg
  match x, y with
  | .nan a, .nan b => f.nanRes (a || b)
  | .nan a, _ => f.nanRes a
  | _, .nan b => f.nanRes b
  | .inf _, .inf _ => f.nanRes true
  | .zero _, .zero _ => f.nanRes true
  | .inf _, _ => { bits := f.inf s, cond := 0 }
  | _, .inf _ => { bits := f.zero s, cond := 0 }
  | .zero _, _ => { bits := f.zero s, cond := 0 }
  | .fin _ _ _, .zero _ => { bits := f.inf s, cond := condDZ }
  | .fin _ m e, .fin _ n g =>
    let k := f.mbits + 4 + Nat.log2 n
    let t := m * 2 ^ k
    roundTo mode f ftz s (t / n) (e - g - (k : Int)) (t % n != 0)

/-- The integer square root, bit by bit from 2^(k − 1) down. -/
def isqrt (n : Nat) : Nat → Nat → Nat
  | 0, r => r
  | k + 1, r =>
    let t := r + 2 ^ k
    isqrt n k (if t * t ≤ n then t else r)

/-- √x (R238). -/
def fSqrt (mode : RMode) (f : Fmt) (ftz : Bool) (x : FVal) : FRes :=
  match x with
  | .nan a => f.nanRes a
  | .zero s => { bits := f.zero s, cond := 0 }
  | .inf s => if s then f.nanRes true else { bits := f.inf false, cond := 0 }
  | .fin s m e =>
    if s then f.nanRes true
    else
      let k := 2 * f.mbits + 8
      let odd := e % 2 ≠ 0
      let m1 := m * 2 ^ (2 * k + (if odd then 1 else 0))
      let e1 := (e - (if odd then 1 else 0)) / 2 - (k : Int)
      let r := isqrt m1 (Nat.log2 m1 / 2 + 1) 0
      roundTo mode f ftz false r e1 (r * r != m1)

/-- x < y for values that are no NaN. -/
def fLess (x y : FVal) : Bool :=
  match x, y with
  | .nan _, _ => false
  | _, .nan _ => false
  | .inf a, .inf b => a && !b
  | .inf a, _ => a
  | _, .inf b => !b
  | .zero _, .zero _ => false
  | .zero _, .fin b _ _ => !b
  | .fin a _ _, .zero _ => a
  | .fin a m e, .fin b n g =>
    let r := addExact (signed a m) e (- signed b n) g
    decide (r.1 < 0)

/-- x = y for values that are no NaN; the zeros are equal. -/
def fEqual (x y : FVal) : Bool := !x.isNan && !y.isNan && !fLess x y && !fLess y x

/-- The comparisons of R108: a NaN compares false; NV for a signaling NaN, or for any NaN when `loud`. -/
def fCompare (p : FVal → FVal → Bool) (loud : Bool) (x y : FVal) : FRes :=
  let nan := x.isNan || y.isNan
  { bits := if !nan && p x y then 1 else 0,
    cond := if (x.signaling || y.signaling) || (loud && nan) then condNV else 0 }

/-- minimumNumber and, with `max`, maximumNumber (R107): −0 is less than +0; a chosen source is delivered unchanged, a
flushed one as the zero it reads as. -/
def fMinMax (f : Fmt) (max : Bool) (ftz : Bool) (a b : Nat) : FRes :=
  let x := f.source ftz a
  let y := f.source ftz b
  let flush (v : Nat) : Nat := if ftz && f.isSub v then f.zero (f.negF v) else v
  let nv := if x.signaling || y.signaling then condNV else 0
  match x.isNan, y.isNan with
  | true, true => { bits := f.nan, cond := nv }
  | true, false => { bits := flush b, cond := nv }
  | false, true => { bits := flush a, cond := nv }
  | false, false =>
    let less := fLess x y || (fEqual x y && x.neg && !y.neg)
    { bits := if less != max then flush a else flush b, cond := nv }

/-- FCLASS (R109). -/
def fClass (f : Fmt) (b : Nat) : Nat :=
  let s := f.negF b
  match f.value b with
  | .nan q => if q then 2 ^ 8 else 2 ^ 9
  | .inf _ => if s then 2 ^ 0 else 2 ^ 7
  | .zero _ => if s then 2 ^ 3 else 2 ^ 4
  | .fin _ _ _ => if f.isSub b then (if s then 2 ^ 2 else 2 ^ 5) else (if s then 2 ^ 1 else 2 ^ 6)

/-- FRCPE: the 7-bit reciprocal estimate (R110). -/
def fRcpe (f : Fmt) (x : FVal) : FRes :=
  match x with
  | .nan q => f.nanRes q
  | .inf s => { bits := f.zero s, cond := 0 }
  | .zero s => { bits := f.inf s, cond := condDZ }
  | .fin s m e =>
    let l := Nat.log2 m
    let i := (m * 128 / 2 ^ l) % 128
    let d := 257 + 2 * i
    let g := (2 * 65536 + d) / (2 * d) - 128
    let ex := - (e + (l : Int)) - 1
    if (f.bias : Int) < ex then { bits := f.inf s, cond := condOF ||| condNX }
    else if ex < f.emin then { bits := f.zero s, cond := condUF ||| condNX }
    else { bits := (if s then f.signBit else 0) + (ex + f.bias).toNat * 2 ^ f.mbits + g * 2 ^ (f.mbits - 7), cond := 0 }

/-- FRSQE: the 7-bit reciprocal square root estimate (R111); g is found as the largest n with
(2n − 1)² · u ≤ 2^18. -/
def fRsqe (f : Fmt) (x : FVal) : FRes :=
  match x with
  | .nan q => f.nanRes q
  | .zero s => { bits := f.inf s, cond := condDZ }
  | .inf s => if s then f.nanRes true else { bits := f.zero false, cond := 0 }
  | .fin s m e =>
    if s then f.nanRes true
    else
      let l := Nat.log2 m
      let ex := e + (l : Int)
      let q := ex / 2
      let u := (2 * ((m * 64 / 2 ^ l) % 64) + 129) * (if ex % 2 = 0 then 1 else 2)
      let ns := (List.range 129).filter (fun k => decide ((2 * (k + 128) - 1) * (2 * (k + 128) - 1) * u ≤ 2 ^ 25))
      let g := ns.getLastD 0
      { bits := (-q - 1 + f.bias).toNat * 2 ^ f.mbits + g * 2 ^ (f.mbits - 7), cond := 0 }

/-- A float-to-float conversion (R114). -/
def fConvert (mode : RMode) (dst : Fmt) (ftz : Bool) (x : FVal) : FRes :=
  match x with
  | .nan q => dst.nanRes q
  | .inf s =>
    if dst.e43 then { bits := (if s then dst.signBit else 0) + dst.largest, cond := condOF ||| condNX }
    else { bits := dst.inf s, cond := 0 }
  | .zero s => { bits := dst.zero s, cond := 0 }
  | .fin s m e => roundTo mode dst ftz s m e false

/-- A float-to-integer conversion into [lo, hi] (R115): the integer result and its conditions. -/
def fToInt (mode : RMode) (lo hi : Int) (x : FVal) : Int × BitVec 5 :=
  match x with
  | .nan _ => (0, condNV)
  | .inf s => (if s then lo else hi, condNV)
  | .zero _ => (0, 0)
  | .fin s m e =>
    let c := cutAt m e false 0
    let v := signed s (c.round mode s)
    if v < lo then (lo, condNV) else if hi < v then (hi, condNV)
    else (v, if c.exact then 0 else condNX)

/-- An integer-to-float conversion (R116). -/
def intToF (mode : RMode) (f : Fmt) (v : Int) : FRes := roundInt mode f false v 0 false

/-- The rounding mode of a code of FCTL.RM or of an aux field; stochastic acts as RNE (R99, R100, R105). -/
def rmode (code : Nat) : RMode :=
  match code with
  | 1 => .rtz
  | 2 => .rdn
  | 3 => .rup
  | 4 => .rna
  | _ => .rne
/-- The rounding field: 0b111 takes FCTL.RM (R105). -/
def roundCode (aux : BitVec 3) (fctl : BitVec 10) : Nat := if aux = 7 then fctl.toNat % 8 else aux.toNat
/-- The mode of a form that rounds but does not narrow. -/
def modeOf (aux : BitVec 3) (fctl : BitVec 10) : RMode := rmode (roundCode aux fctl)
/-- FCTL.FTZ. -/
def ftzOf (fctl : BitVec 10) : Bool := fctl.getLsbD 8

/-- The next state of the stochastic-rounding generator (R101). -/
def srNext (g : BitVec 32) : BitVec 32 :=
  let a := g ^^^ (g <<< 13)
  let b := a ^^^ (a >>> 17)
  b ^^^ (b <<< 5)

end Sys2Proof.Machine
end

