-- ==== Sys2Proof/Machine/Buffer.lean ====
section
/-! DEFINITION. Where a strand's bytes come from and go: its own queued stores, the task buffer, and memory
(R162, R293, R294, R296). -/

namespace Sys2Proof.Machine

/-- The task whose buffer takes the strand's global stores: it runs speculatively or non-speculatively (R293). -/
def State.bufTask (s : State) (m : Strand) : Option (Nat × Task) :=
  match s.taskOf m with
  | some (id, k) => if k.state == .running || k.state == .nonspec then some (id, k) else none
  | none => none

/-- The granule base of a location. -/
def granuleBase (loc : Nat) : Nat := loc / 64 * 64
/-- The byte a task's entries mask at a location. -/
def Task.byte? (k : Task) (loc : Nat) : Option Byte :=
  match k.buffer.find? (fun g => g.loc == granuleBase loc) with
  | none => none
  | some g => if g.mask.getLsbD (loc % 64) then some (g.data.extractLsb' (8 * (loc % 64)) 8) else none
/-- Writes a byte into a task's entries; in private memory its strand's core will have it (R293). -/
def Task.putByte (k : Task) (owner : Option Nat) (loc : Nat) (b : Byte) : Task :=
  let i := loc % 64
  let set := fun (g : Granule) => { g with
    owner := owner
    data := (g.data &&& ~~~((255 : BitVec 512) <<< (8 * i))) ||| (b.setWidth 512 <<< (8 * i))
    mask := g.mask ||| ((1 : BitVec 64) <<< i) }
  if k.buffer.any (fun g => g.loc == granuleBase loc) then
    { k with buffer := k.buffer.map (fun g => if g.loc == granuleBase loc then set g else g) }
  else { k with buffer := k.buffer ++ [set { loc := granuleBase loc, data := 0, mask := 0 }] }
/-- Writes the low `n` bytes of a value into a task's entries. -/
def Task.putValue (k : Task) (owner : Option Nat) (loc : Nat) : Nat → Nat → Task
  | 0, _ => k
  | n + 1, v => (k.putByte owner loc (BitVec.ofNat 8 (v % 256))).putValue owner (loc + 1) n (v / 256)
/-- The granules that an operation's accesses would add to a task's entries. -/
def Task.newGranules (k : Task) (o : Op) : Nat :=
  ((o.locs.map (fun l => granuleBase l.1)).eraseDups.filter (fun g => !k.buffer.any (fun e => e.loc == g))).length

/-- The hash multipliers of the read signature (R294). -/
def sigMul : List Nat := [0x9E3779B97F4A7C15, 0xC2B2AE3D27D4EB4F, 0x165667B19E3779F9, 0xD6E8FEB86659FD93]
/-- The four hash positions of a granule. -/
def sigBits (loc : Nat) : List Nat := sigMul.map (fun c => loc / 64 * c % 2 ^ 64 / 2 ^ 53)
/-- The granule added to a signature. -/
def sigAdd (sig : BitVec 2048) (loc : Nat) : BitVec 2048 := (sigBits loc).foldl (fun g b => g ||| ((1 : BitVec 2048) <<< b)) sig
/-- The granule hits a signature: all four bits are set. -/
def sigHit (sig : BitVec 2048) (loc : Nat) : Bool := (sigBits loc).all (fun b => sig.getLsbD b)

/-- Where an access lies: its location, or before its confirmation the one that the port's buffer gives its address. -/
def State.placeOf (s : State) (m : Strand) (a : Access) : Option Nat :=
  match a.loc with
  | some l => some l
  | none => ((s.port m.port).find m.asid a.va).map (fun l => l.addr a.va)
/-- The byte that those of the strand's own older stores that `p` accepts supply at a location; of one store the higher lane counts (R159, R162). -/
def State.storeByte (s : State) (m : Strand) (p : Op → Bool) (q loc : Nat) : Option Byte :=
  let hit := fun (a : Access) => match s.placeOf m a with
    | some l => decide (l ≤ loc) && decide (loc < l + a.size)
    | none => false
  match (m.ops.filter (fun o => decide (o.q < q) && o.what == .store && p o && o.accs.any hit)).getLast? with
  | none => none
  | some o => match (o.accs.filter hit).getLast? with
    | none => none
    | some a => (s.placeOf m a).map (fun l => BitVec.ofNat 8 (a.data / 2 ^ (8 * (loc - l))))

/-- The byte that the strand's own older stores supply at a location, confirmed or not, in the queue or on their way from it. -/
def State.queuedByte (s : State) (m : Strand) (q loc : Nat) : Option Byte := s.storeByte m (fun _ => true) q loc

/-- The byte that is no longer memory's: queued by the strand, or masked by its task. -/
def State.ownByte (s : State) (m : Strand) (q kind loc : Nat) : Option Byte :=
  match s.queuedByte m q loc with
  | some b => some b
  | none => if kind = 1 then (match s.bufTask m with | some (_, k) => k.byte? loc | none => none) else none
/-- The `n` bytes that a load of instruction `q` binds; `priv` says that they lie in private memory. -/
def State.loadBytes (s : State) (m : Strand) (q kind : Nat) (priv : Bool) (loc : Nat) : Nat → Nat
  | 0 => 0
  | n + 1 => ((s.ownByte m q kind loc).getD (s.seen m.sa priv loc)).toNat + 256 * s.loadBytes m q kind priv (loc + 1) n
/-- The value a load binds; a poisoned byte from memory raises MACHINE_CHECK and the value is undefined (R205, R391). -/
def State.bind (s : State) (m : Strand) (q kind : Nat) (priv : Bool) (loc n : Nat) : Nat × State :=
  match s.poisoned loc n (fun p => (s.ownByte m q kind p).isSome) with
  | none => (s.loadBytes m q kind priv loc n, s)
  | some p =>
    let s1 := if s.dirtyPoison.contains (p, m.sa) then s.modStrand m.sa (fun x => { x with lost := true }) else s
    (freeBytes s.freeCtr n, (s1.machineCheck m.sa (poisonAddr p)).bump (n + 1))

/-- A global load of a task adds to its signature the granules of the bytes it reads from committed memory: those that neither the task's entries
mask nor an older store in the store queue supplies; a store on its way to the entries has left the queue (R294). -/
def State.signRead (s : State) (m : Strand) (q : Nat) (locs : List (Nat × Nat)) : State :=
  match s.bufTask m with
  | none => s
  | some (id, k) =>
    let bytes := locs.flatMap (fun l => (List.range l.2).map (fun i => l.1 + i))
    let gs := ((bytes.filter (fun b => (s.storeByte m (fun o => o.stage != .away) q b).isNone && (k.byte? b).isNone)).map granuleBase).eraseDups
    s.modTask m.troupe id (fun k => { k with sig := gs.foldl sigAdd k.sig })

/-- The largest die crossing count from the origin cluster to any cluster of the troupe (R297). -/
def Troupe.reach (t : Troupe) : Nat := crossings t.origin (t.clusterAt (t.clusters - 1))
/-- The commit interval of a troupe without its granules: 16 cycles in one cluster, else 64 + 8·h (R296, R301). -/
def Troupe.span (t : Troupe) : Nat := if t.clusters ≤ 1 then 16 else 64 + 8 * t.reach
/-- A task becomes irrevocable: its buffer is committed first (R296). -/
def State.beginIrrevocable (s : State) (tr id : Nat) : State :=
  match s.troupe? tr with
  | none => s
  | some t => match Tab.get? t.tasks id with
    | none => s
    | some k =>
      if k.committing || k.doomed then s
      else (s.modTask tr id (fun x => { x with committing := true })).after (t.span + k.buffer.length) (.irrevocableCommit tr id)

/-- The cycle in which the commit of a task's buffer that is under way ends. -/
def State.commitEnd (s : State) (tr id : Nat) : Nat :=
  match s.agenda.find? (fun e => match e.2 with | .irrevocableCommit a b => a == tr && b == id | _ => false) with
  | some e => e.1
  | none => s.cycle
/-- The uncontended latency of a local tier (R14, R142). -/
def localLatency (m : Strand) (kind addr : Nat) : Nat :=
  match kind with
  | 2 => 4
  | 3 =>
    if 0x300000 ≤ addr then (if m.kind == .heavy then 14 else 22)
    else if m.kind == .heavy then 22
    else
      let n := addr / 65536
      let c := saCore m.sa
      14 + 2 * ((absDiff (c / 8) (n / 8) + absDiff (c % 8) (n % 8)) / 3)
  | _ => 36
/-- The request that a lane joins: its 128-byte line, or its 64-byte block of a bank (R159). -/
def laneBlock (kind : Nat) (a : Access) : Nat := if kind = 1 then a.loc.getD 0 / 128 else a.va / 64
/-- The bank or slice of a lane's request (R142, R148, R152); a core scratchpad has none that is contended. -/
def laneBank (kind : Nat) (a : Access) : Nat :=
  match kind with
  | 1 => l2Slice (a.loc.getD 0)
  | 3 => if 0x300000 ≤ a.va then 48 else a.va / 65536
  | _ => a.va / 64 % 64
/-- The earlier requests of the same instruction to the bank of a lane's request (R159). -/
def laneDelay (o : Op) (a : Access) : Nat :=
  if o.kind = 2 then 0
  else
    let b := laneBlock o.kind a
    ((((o.accs.takeWhile (fun x => laneBlock o.kind x != b)).filter (fun x => laneBank o.kind x == laneBank o.kind a)).map
      (laneBlock o.kind)).eraseDups).length
/-- The latency of one access from the cycle in which its operation issues or leaves; it takes three free values. A private one takes
that of the caches that hold its line (R151, R155). -/
def State.accessTime (s : State) (m : Strand) (o : Op) (a : Access) : Nat :=
  let loc := a.loc.getD 0
  if isPrivate (o.kind == 1) a.region then s.privateTime m.sa loc (o.what.loadPart && o.what.storePart)
  else if o.kind = 1 then levelLatency (saDie m.sa) loc a.region
    (!(o.what.loadPart && o.what.storePart) && (o.what.loadPart || a.region == .priv)) s.freeCtr
  else localLatency m o.kind a.va
/-- The larger of two numbers. -/
def larger (x y : Nat) : Nat := if x < y then y else x
/-- The latency of an operation's accesses: the largest of them, 3 more for a strided or indexed V-MEM form (R159); a global load of a task
takes at least the 14 cycles of its task buffer (R293). -/
def State.latency (s : State) (m : Strand) (o : Op) : Nat :=
  let n :=
    if o.strided then (o.accs.map (fun a => s.accessTime m o a + laneDelay o a)).foldl larger 0 + 3
    else (o.accs.map (s.accessTime m o)).foldl larger 0
  if o.kind = 1 ∧ o.what.storePart = false ∧ (s.bufTask m).isSome = true then larger n 14 else n

/-- The confirmed operation goes on: an SC access is announced, a store waits in the queue, a load or an atomic is on its
way (R68, R144, R168, R172). -/
def State.launch (s : State) (sa q : Nat) : State :=
  match s.strand? sa with
  | none => s
  | some m => match m.op? q OpWhat.mem with
    | none => s
    | some o =>
      let s1 := s.modStrand sa (fun x => x.modOp q OpWhat.mem (fun y => { y with
        stage := if o.what.queued || o.ord = 3 then .waiting else .away }))
      let s2 := if o.ord = 3 then s1.announce sa q o.locs else s1
      if o.what.queued then s2.poke sa
      else if o.ord = 3 then s2
      else
        match o.what with
        | .amo _ _ _ _ => (s2.bump 3).atCycle (o.issued + s2.latency m o + 4) (.atomicAtController sa q)
        | _ => (s2.bump 3).atCycle (o.issued + s2.latency m o) (.loadDataReturn sa q)

end Sys2Proof.Machine
end

