-- ==== Sys2Proof/Machine/MemAccess.lean ====
section
/-! DEFINITION. Loads, stores, atomics, fences, line operations and vector memory access at issue: majors 0x13 to
0x16 and 0x28 (R143, R144, R153 to R159, R170, R171). -/

namespace Sys2Proof.Machine

/-- A memory operation joins the outstanding operations and its instruction retires. -/
def Strand.issueOp (m : Strand) (cycle : Nat) (what : OpWhat) (dsts : List RegName) (accs : List Access) (ord : BitVec 2)
    (kind n : Nat) (c : Bool) (strided : Bool := false) : Strand :=
  let o : Op := { q := m.nextQ, pc := m.pc, what := what, dsts := dsts, accs := accs, ord := ord, kind := kind,
                  stage := if kind = 1 then .unconfirmed else .waiting, trappable := kind == 1, flags := m.flags, issued := cycle,
                  strided := strided }
  { m with ops := m.ops ++ [o] }.retire n c

/-- The current strand issues a memory operation: a global one is translated 10 cycles later, another is confirmed at
once (R69, R144, R149). An L1D may return a load's data before its confirmation, but not a task's, whose buffer takes 14 cycles (R293). -/
def State.issueMem (s : State) (what : OpWhat) (dsts : List RegName) (accs : List Access) (ord : BitVec 2) (kind : Nat) (c : Bool)
    (strided : Bool := false) : State :=
  let q := s.me.nextQ
  let s1 := s.mod (fun m => m.issueOp s.cycle what dsts accs ord kind 4 c strided)
  let s2 := match what with
    | .load _ _ => if ord = 3 ∨ (s.bufTask s.me).isSome = true then s1 else s1.after 6 (.loadDataReturn s.me.sa q)
    | _ => s1
  if kind = 1 then s2.after 10 (.translationConfirm s.me.sa q) else s1.launch s.me.sa q

/-- An access that passed the segment check. -/
def accessAt (m : Strand) (g : Seg) (lane addr size data : Nat) : Access :=
  { lane := lane, va := addr, size := size, loc := if g.kind = 1 then none else some (localLoc m g.kind addr), region := .priv, data := data }

/-- The locations of global accesses whose translations hit, for the read signature (R294). -/
def State.hitLocs (s : State) (m : Strand) (as : List Access) : List (Nat × Nat) :=
  as.filterMap (fun a => ((s.port m.port).find m.asid a.va).map (fun l => (l.addr a.va, a.size)))
/-- A load of a task signs the granules it reads from committed memory, at its issue (R294). -/
def State.signLoad (s : State) (what : OpWhat) (kind : Nat) (as : List Access) : State :=
  if what.loadPart && kind == 1 then s.signRead s.me s.me.nextQ (s.hitLocs s.me as) else s

/-- A scalar access: the check of R143, then the operation. -/
def memScalar (seg : SegIx) (off : Word) (size : Nat) (rd wr : Bool) (what : OpWhat) (dsts : List RegName) (data : Nat)
    (ord : BitVec 2) (c : Bool) (s : State) : Out :=
  let g := s.me.getSeg seg
  match segCheck s.me g rd wr off size size with
  | .bad cause addr => s.trap cause addr
  | .ok addr =>
    let as := [accessAt s.me g 0 addr size data]
    .next ((s.signLoad what g.kind as).issueMem what dsts as ord g.kind c)

/-- LD (R153). -/
def execLd (t a : SReg) (seg : SegIx) (ord : BitVec 2) (w : BitVec 3) (i : BitVec 7) (c : Bool) (s : State) : Out :=
  let size := 2 ^ (w.toNat % 4)
  memScalar seg (s.me.getS a + sx i * BitVec.ofNat 64 size) size true false (.load t (!w.getLsbD 2)) [.s t] 0 ord c s
/-- ST (R153). -/
def execSt (t a : SReg) (seg : SegIx) (ord : BitVec 2) (w : BitVec 3) (i : BitVec 7) (c : Bool) (s : State) : Out :=
  let size := 2 ^ (w.toNat % 4)
  memScalar seg (s.me.getS a + sx i * BitVec.ofNat 64 size) size false true .store [] ((s.me.getS t).toNat % 2 ^ (8 * size)) ord c s

/-- An AMO: its operand and compare value are cut to the size (R154). -/
def amo (op : AmoOp) (signed : Bool) (t a : SReg) (seg : SegIx) (ord : BitVec 2) (sz : Bool) (b : SReg) (c : Bool) (s : State) : Out :=
  let size := if sz then 8 else 4
  memScalar seg (s.me.getS a) size true true (.amo t op ((s.me.getS t).toNat % 2 ^ (8 * size)) signed) [.s t]
    ((s.me.getS b).toNat % 2 ^ (8 * size)) ord c s
/-- AMOADD. -/
def execAmoadd (t a : SReg) (seg : SegIx) (ord : BitVec 2) (sz : Bool) (b : SReg) (c : Bool) (s : State) : Out := amo .add true t a seg ord sz b c s
/-- AMOSWAP. -/
def execAmoswap (t a : SReg) (seg : SegIx) (ord : BitVec 2) (sz : Bool) (b : SReg) (c : Bool) (s : State) : Out := amo .swap true t a seg ord sz b c s
/-- AMOCAS. -/
def execAmocas (t a : SReg) (seg : SegIx) (ord : BitVec 2) (sz : Bool) (b : SReg) (c : Bool) (s : State) : Out := amo .cas true t a seg ord sz b c s
/-- AMOAND. -/
def execAmoand (t a : SReg) (seg : SegIx) (ord : BitVec 2) (sz : Bool) (b : SReg) (c : Bool) (s : State) : Out := amo .and true t a seg ord sz b c s
/-- AMOOR. -/
def execAmoor (t a : SReg) (seg : SegIx) (ord : BitVec 2) (sz : Bool) (b : SReg) (c : Bool) (s : State) : Out := amo .or true t a seg ord sz b c s
/-- AMOXOR. -/
def execAmoxor (t a : SReg) (seg : SegIx) (ord : BitVec 2) (sz : Bool) (b : SReg) (c : Bool) (s : State) : Out := amo .xor true t a seg ord sz b c s
/-- AMOMIN. -/
def execAmomin (t a : SReg) (seg : SegIx) (ord : BitVec 2) (sz : Bool) (b : SReg) (c : Bool) (s : State) : Out := amo .min true t a seg ord sz b c s
/-- AMOMAX. -/
def execAmomax (t a : SReg) (seg : SegIx) (ord : BitVec 2) (sz : Bool) (b : SReg) (c : Bool) (s : State) : Out := amo .max true t a seg ord sz b c s
/-- AMOMINN. -/
def execAmominn (t a : SReg) (seg : SegIx) (ord : BitVec 2) (sz : Bool) (b : SReg) (c : Bool) (s : State) : Out := amo .minn false t a seg ord sz b c s
/-- AMOMAXN. -/
def execAmomaxn (t a : SReg) (seg : SegIx) (ord : BitVec 2) (sz : Bool) (b : SReg) (c : Bool) (s : State) : Out := amo .maxn false t a seg ord sz b c s
/-- AMOFADD, on FP32 only. -/
def execAmofadd (t a : SReg) (seg : SegIx) (ord : BitVec 2) (b : SReg) (c : Bool) (s : State) : Out := amo .fadd false t a seg ord false b c s

/-- An operation without accesses that joins the outstanding ones beside the instruction's others. -/
def Strand.plainOp (m : Strand) (cycle : Nat) (what : OpWhat) (dsts : List RegName) : Strand :=
  let o : Op := { q := m.nextQ, pc := m.pc, what := what, dsts := dsts, accs := [], ord := 0, kind := 0,
                  stage := .waiting, trappable := false, flags := m.flags, issued := cycle }
  { m with ops := m.ops ++ [o] }

/-- FENCE: an acquire waits for older load parts, a release enters a marker into the store queue, an sc fence takes a
place in the SC total order and waits for its release time (R170 to R172). -/
def execFence (_p : BitVec 3) (k : BitVec 2) (c : Bool) (s : State) : Out :=
  let m := s.me
  let q := m.nextQ
  let acq := k = 0 ∨ k = 2
  let rel := k = 1 ∨ k = 2
  if k = 3 then
    .next ((s.mod (fun x => (x.plainOp s.cycle .scFence []).retire 4 c)).announce m.sa q [])
  else
    let s1 := if acq ∧ m.older q OpWhat.loadPart = true then s.mod (fun x => x.plainOp s.cycle .acqFence []) else s
    let s2 := if rel then (s1.mod (fun x => x.plainOp s.cycle .marker [])).after 1 (.releaseMarkerLeave m.sa q) else s1
    .next (s2.fin 4 c)

/-- A line address: the displacement counts 128-byte lines (R156). -/
def lineOff (a : Word) (i : BitVec 7) : Word := a + sx i * 128
/-- A private line is brought into the L1D and the L2, or the L2 alone; other copies differ in nothing from memory (R151, R157). -/
def State.prefetch (s : State) (sa : Nat) (region : Region) (n : Nat) (lv : BitVec 5) : State :=
  if region = .priv then (if lv = 0 then s.fillL1 sa n else if lv = 1 then s.fillL2 (saDie sa) n else s) else s
/-- PREF never traps; a failing check or translation ends it, and a translation miss starts a background walk (R157). -/
def execPref (lv : BitVec 5) (a : SReg) (seg : SegIx) (i : BitVec 7) (c : Bool) (s : State) : Out :=
  let m := s.me
  let g := m.getSeg seg
  match segCheck m g true false (lineOff (m.getS a) i) 1 1 with
  | .bad _ _ => .next (s.fin 4 c)
  | .ok va =>
    if g.kind ≠ 1 then .next (s.fin 4 c)
    else match (s.port m.port).find m.asid va with
      | some l =>
        if (l.check (portDie m.port) (portCluster m.port) true false).isSome then .next (s.fin 4 c)
        else .next (((s.modPort m.port (fun p => p.use m.asid va l)).prefetch m.sa l.region (l.addr va / 128) lv).fin 4 c)
      | none => .next ((s.fin 4 c).startWalk m.port (.background m.troupe) .read m.asid m.root va)
/-- FLUSHL and INVL: the checks of a load, then a store-queue entry; outside global memory they only check (R158). -/
def lineOp (drop : Bool) (a : SReg) (seg : SegIx) (i : BitVec 7) (c : Bool) (s : State) : Out :=
  let g := s.me.getSeg seg
  match segCheck s.me g true false (lineOff (s.me.getS a) i) 1 1 with
  | .bad cause addr => s.trap cause addr
  | .ok va =>
    if g.kind ≠ 1 then .next (s.fin 4 c)
    else .next (s.issueMem (.line drop) [] [accessAt s.me g 0 va 1 0] 0 1 c)
/-- FLUSHL. -/
def execFlushl (a : SReg) (seg : SegIx) (i : BitVec 7) (c : Bool) (s : State) : Out := lineOp false a seg i c s
/-- INVL. -/
def execInvl (a : SReg) (seg : SegIx) (i : BitVec 7) (c : Bool) (s : State) : Out := lineOp true a seg i c s

/-! ### Vector memory access (R159) -/

/-- The numbers of the active lanes. -/
def activeLanes (p : BitVec 16) : List Nat := (List.range 16).filter (fun j => p.getLsbD j)
/-- A 32-bit lane of a register. -/
def lane32 (v : VWord) (j : Nat) : Nat := (v.extractLsb' (32 * j) 32).toNat

/-- The lanes' checks in ascending order: the first failing lane's trap, or the accesses. -/
def laneChecks (m : Strand) (g : Seg) (rd wr : Bool) (off : Nat → Word) (data : Nat → Nat) : List Nat → (Cause × Word) ⊕ List Access
  | [] => .inr []
  | j :: r =>
    match segCheck m g rd wr (off j) 4 4 with
    | .bad cause addr => .inl (cause, addr)
    | .ok addr => match laneChecks m g rd wr off data r with
      | .inl t => .inl t
      | .inr as => .inr (accessAt m g j addr 4 (data j) :: as)

/-- A V-MEM form: A(0) of VLD and VST must be 64-byte aligned when a lane is active; no active lane accesses nothing. -/
def vmem (w : Word) (load base64 : Bool) (off : Nat → Word) (vt : VReg) (seg : SegIx) (k : KReg) (ord : BitVec 2) (c : Bool) (s : State) : Out :=
  let m := s.me
  let g := m.getSeg seg
  let ls := activeLanes (m.getK k)
  let a0 := g.base + off 0
  s.gate w false vcoreKind
    (if ls.isEmpty then .next (s.fin 4 c)
     else if base64 && a0.toNat % 64 != 0 then s.trap .misaligned a0
     else match laneChecks m g load (!load) off (fun j => lane32 (m.getV vt) j) ls with
       | .inl t => s.trap t.1 t.2
       | .inr as =>
         let what := if load then OpWhat.vload vt else .store
         .next ((s.signLoad what g.kind as).issueMem what (if load then [.v vt] else []) as ord g.kind c (!base64)))
/-- The word of format VM (R36). -/
def vmWord (vt : VReg) (a : SReg) (x : Nat) (seg : SegIx) (k : KReg) (ord : BitVec 2) (op : Nat) (c : Bool) : Word :=
  words (0x28 * 2 ^ 26 + vt.toNat * 2 ^ 22 + a.toNat * 2 ^ 17 + x * 2 ^ 12 + seg.toNat * 2 ^ 9 + k.toNat * 2 ^ 6 +
    ord.toNat * 16 + op * 2 + (if c then 1 else 0)) 0
/-- A(j) of VLD and VST. -/
def offUnit (m : Strand) (a : SReg) (x : BitVec 5) (j : Nat) : Word := m.getS a + sx x * 64 + BitVec.ofNat 64 (4 * j)
/-- A(j) of VLDS and VSTS. -/
def offStride (m : Strand) (a : SReg) (x : BitVec 5) (j : Nat) : Word := m.getS a + BitVec.ofNat 64 j * m.getS x
/-- A(j) of VGATHER and VSCATTER. -/
def offIndex (m : Strand) (a : SReg) (x : VReg) (j : Nat) : Word := m.getS a + BitVec.ofNat 64 (4 * lane32 (m.getV x) j)

/-- VLD. -/
def execVld (vt : VReg) (a : SReg) (x : BitVec 5) (seg : SegIx) (k : KReg) (ord : BitVec 2) (c : Bool) (s : State) : Out :=
  vmem (vmWord vt a x.toNat seg k ord 0 c) true true (offUnit s.me a x) vt seg k ord c s
/-- VST. -/
def execVst (vt : VReg) (a : SReg) (x : BitVec 5) (seg : SegIx) (k : KReg) (ord : BitVec 2) (c : Bool) (s : State) : Out :=
  vmem (vmWord vt a x.toNat seg k ord 1 c) false true (offUnit s.me a x) vt seg k ord c s
/-- VLDS. -/
def execVlds (vt : VReg) (a : SReg) (x : BitVec 5) (seg : SegIx) (k : KReg) (ord : BitVec 2) (c : Bool) (s : State) : Out :=
  vmem (vmWord vt a x.toNat seg k ord 2 c) true false (offStride s.me a x) vt seg k ord c s
/-- VSTS. -/
def execVsts (vt : VReg) (a : SReg) (x : BitVec 5) (seg : SegIx) (k : KReg) (ord : BitVec 2) (c : Bool) (s : State) : Out :=
  vmem (vmWord vt a x.toNat seg k ord 3 c) false false (offStride s.me a x) vt seg k ord c s
/-- VGATHER. -/
def execVgather (vt : VReg) (a : SReg) (x : VReg) (seg : SegIx) (k : KReg) (ord : BitVec 2) (c : Bool) (s : State) : Out :=
  vmem (vmWord vt a x.toNat seg k ord 4 c) true false (offIndex s.me a x) vt seg k ord c s
/-- VSCATTER. -/
def execVscatter (vt : VReg) (a : SReg) (x : VReg) (seg : SegIx) (k : KReg) (ord : BitVec 2) (c : Bool) (s : State) : Out :=
  vmem (vmWord vt a x.toNat seg k ord 5 c) false false (offIndex s.me a x) vt seg k ord c s

end Sys2Proof.Machine
end

