-- ==== Sys2Proof/Machine/Rings.lean ====
section
/-! DEFINITION. Operand rings: geometry, counts and occupied slots (R252 to R255). -/

namespace Sys2Proof.Machine

/-- The slot tile area in bytes. -/
def Ring.size (r : Ring) : Nat := 2 ^ (15 + r.cfg.toNat / 2 ^ 40 % 16)
/-- The number of slots; 0 disables the ring. -/
def Ring.slots (r : Ring) : Nat := r.cfg.toNat / 2 ^ 32 % 256
/-- The operand-store offset of slot 0. -/
def Ring.base (r : Ring) : Nat := r.cfg.toNat % 2 ^ 24
/-- The slot stride: tile area and scale vector. -/
def Ring.stride (r : Ring) : Nat := r.size + 256
/-- The operand-store offset of the slot of a count. -/
def Ring.slotAt (r : Ring) (count : BitVec 32) : Nat := r.base + (if r.slots = 0 then 0 else count.toNat % r.slots) * r.stride
/-- The slots published and not popped. -/
def Ring.occupancy (r : Ring) : Nat := (r.tail - r.head).toNat
/-- The slots published and not claimed. -/
def Ring.available (r : Ring) : Nat := (r.tail - r.claim).toNat
/-- Slots popped in this cycle: to a write that waits they are free from the next one (R275). -/
def Ring.fresh (r : Ring) (cycle : Nat) : Nat := if r.popAt = cycle then r.popped else 0
/-- `n` bytes at an operand-store offset touch a slot that is occupied, or was until this cycle. -/
def Ring.holds (r : Ring) (cycle off n : Nat) : Bool :=
  (List.range (r.occupancy + r.fresh cycle)).any (fun i =>
    overlaps off n (r.slotAt (r.head - BitVec.ofNat 32 (r.fresh cycle) + BitVec.ofNat 32 i)) r.stride)
/-- The operand store's first offset in the cluster shared window (R142). -/
def operandStore : Nat := 0x300000
/-- The location of a heavy vcore's save area. -/
def Troupe.saveArea (t : Troupe) (vcid : Nat) : Nat :=
  let lean := t.field 0x00C 1 * t.field 0x00D 1
  let per := lean + t.field 0x00F 1
  let hc := t.field 0x00F 1
  t.msave + 0x201000 * (if per = 0 then 0 else vcid / per * hc + (vcid % per - lean))
/-- A ring in a matrix save area (R274). -/
def State.savedRing (s : State) (base i : Nat) : Ring :=
  let a := base + 0x200000 + 32 * i
  let head := BitVec.ofNat 32 (s.read (a + 8) 4)
  let tail := BitVec.ofNat 32 (s.read (a + 12) 4)
  { cfg := BitVec.ofNat 64 (s.read a 8), head := head, tail := tail, claim := head, reserved := tail }
/-- The rings of the switched-out heavy vcores of a cluster: their slots stay in its operand store (R274). -/
def State.awayRings (s : State) (pkg : Nat) : List Ring :=
  s.troupes.flatMap (fun t => (t.2.place.filter (fun p => t.2.out.contains p.1 && t.2.live p.1 && saPkg p.2 == pkg && saCore p.2 == 48)).flatMap
    (fun p => (List.range 16).map (s.savedRing (t.2.saveArea p.1))))
/-- The rings of a cluster's heavy vcores, in their slots or switched out. -/
def State.ringsOf (s : State) (pkg : Nat) : List Ring :=
  (s.strands.filter (fun m => m.kind == .heavy && saPkg m.sa == pkg && m.run != .vacant)).flatMap (fun m => m.rings.toList) ++ s.awayRings pkg
/-- A write of `n` bytes at an operand-store offset of a cluster meets an occupied slot of a configured ring (R255). -/
def State.ringHeld (s : State) (pkg off n : Nat) : Bool := (s.ringsOf pkg).any (fun r => r.slots != 0 && r.holds s.cycle off n)
/-- A store of a strand waits at the operand-store controller. -/
def State.ringWait (s : State) (m : Strand) (o : Op) : Bool :=
  o.kind == 3 && o.accs.any (fun a => decide (operandStore ≤ a.va) && s.ringHeld (saPkg m.sa) (a.va - operandStore) a.size)

end Sys2Proof.Machine
end

