-- ==== Sys2Proof/Machine/MemEvents.lean ====
section
/-! DEFINITION. The steps of memory operations after issue: confirmation, data return, the store queue, performance,
atomics at their controller, and the SC total order (R149 to R172, R255, R293 to R296). -/

namespace Sys2Proof.Machine

/-- What a translation of the operation asks of a page: RD, W (R150, R327, R377). -/
def OpWhat.rights : OpWhat → Bool × Bool
  | .store => (false, true)
  | .amo _ _ _ _ => (true, true)
  | .wide _ _ _ _ _ => (true, true)
  | .codesync _ _ => (false, true)
  | .context _ ld _ => (ld, !ld)
  | _ => (true, false)

/-- The outcomes of an operation's lanes in ascending order: the first that misses or fails decides (R159). -/
def laneXlate (s : State) (m : Strand) (rd wr : Bool) : List Access → (Option Cause × Nat) ⊕ List Access
  | [] => .inr []
  | a :: r =>
    match s.xlate m.port (.strand m.sa) m.asid a.va rd wr with
    | .miss => .inl (none, a.va)
    | .fail c => .inl (some c, a.va)
    | .hit l => match laneXlate s m rd wr r with
      | .inl x => .inl x
      | .inr as => .inr ({ a with loc := some (l.addr a.va), region := l.region } :: as)
/-- The buffer entries that the accesses used become the most recent (R396). -/
def State.useAll (s : State) (m : Strand) (as : List Access) : State :=
  as.foldl (fun t a => match (t.port m.port).find m.asid a.va with
    | some l => t.modPort m.port (fun p => p.use m.asid a.va l)
    | none => t) s

/-- TRANSLATION_CONFIRM: 10 cycles after issue a global access hits and is confirmed or traps, or it misses and replays. -/
def execTranslationConfirm (sa q : Nat) (s : State) : Out :=
  match s.strand? sa with
  | none => .next s
  | some m => match m.ops.find? (fun o => o.q == q && o.stage == .unconfirmed) with
    | none => .next s
    | some o =>
      match laneXlate s m o.what.rights.1 o.what.rights.2 o.accs with
      | .inl (none, va) => .next (s.replay m o va)
      | .inl (some c, va) =>
        .next ((s.modPort m.port (fun p => p.forget (.strand sa))).except sa
          { q := q, pc := o.pc, cause := c, addr := BitVec.ofNat 64 va, info := 0, flags := o.flags })
      | .inr as =>
        let s0 := if o.what.loadPart then s.signRead m q (as.filterMap (fun a => a.loc.map (fun l => (l, a.size)))) else s
        let s1 := (s0.useAll m as).modStrand sa (fun x => x.modOp q anyWhat (fun y => { y with accs := as, trappable := false, stage := .waiting }))
        let s2 := match o.what with
          | .context _ _ _ => (s1.bump 3).atCycle (o.issued + 24 + s1.latency m { o with accs := as }) (.contextTransferResult sa q)
          | .wpset _ _ _ _ => s1.atCycle (o.issued + 96) (.watchArmResult sa q)
          | .codesync _ len =>
            s1.after ((as.map (fun (a : Access) => llcLatency (saDie sa) (a.loc.getD 0))).foldl (fun x y => if x < y then y else x) 0 +
              96 + (len + 4095) / 4096) (.codesyncCompletion sa q)
          | .loaded => s1.complete sa q (· == OpWhat.loaded)
          | _ => s1.launch sa q
        .next (s2.settle sa)

/-! ### Loads -/

/-- Another page lies over the bytes, with another REGION: loads of them return undefined values (R160). -/
def State.aliased (s : State) (loc size : Nat) (region : Region) : Bool :=
  s.leaves.any (fun l => l.region != region && decide (l.pa < loc + size) && decide (loc < l.pa + if l.large then 2 ^ 29 else 2 ^ 16))
/-- The value that one access of a load part binds; the strand's own task buffer supplies bytes for `kind` 1 alone, `glob` says whether the access
is a global one. -/
def State.bindAccess (s : State) (m : Strand) (q kind loc : Nat) (a : Access) (glob : Bool) : Nat × State :=
  let b := s.bind m q kind (isPrivate glob a.region) loc a.size
  if glob && s.aliased loc a.size a.region then
    (freeBytes b.2.freeCtr a.size, b.2.bump a.size)
  else b
/-- The accesses of a load bind their values in ascending lane order. -/
def bindAll (m : Strand) (q kind : Nat) : List Access → State → List (Nat × Nat) × State
  | [], s => ([], s)
  | a :: r, s =>
    match a.loc with
    | none => bindAll m q kind r s
    | some l =>
      let b := (s.fetchLines m.sa (isPrivate (kind == 1) a.region) l a.size).bindAccess m q kind l a (kind == 1)
      let t := bindAll m q kind r b.2
      ((a.lane, b.1) :: t.1, t.2)
/-- The accesses that an operation makes at the slices: one of each 128-byte line that it touches (R159). -/
def Op.requests (o : Op) : List (List Access) :=
  ((o.accs.map (laneBlock 1)).eraseDups).map (fun n => o.accs.filter (fun a => laneBlock 1 a == n))
/-- The armed watches meet the slice accesses of a global operation: those of the lines that `how` says reach a slice; the size of one is that of
the bytes it moves (R375). -/
def State.watchOp (s : State) (sa : Nat) (o : Op) (rd wr : Bool) (how : Nat → Region → Option Reach) : State :=
  if o.kind = 1 then
    o.requests.foldl (fun t g => match g with
      | [] => t
      | a :: _ => match how (laneBlock 1 a) a.region with
        | none => t
        | some r => t.watchSet (g.filterMap (fun x => x.loc.map (fun l => (l, x.size)))) ((g.map (·.size)).sum) rd wr a.region r (saDie sa) 1
            (watchLoc sa) 0) s
  else s
/-- How a load of a line reaches the slices: not at all where the core's L1D holds the private line (R151, R375). -/
def State.loadReach (s : State) (sa n : Nat) (region : Region) : Option Reach :=
  if region == .priv then (if (s.inL1 sa n).isSome then none else some (.fill (s.inL2 (saDie sa) n).isSome)) else some .load
/-- A vector with some 32-bit lanes replaced. -/
def putLanes (v : VWord) (ls : List (Nat × Nat)) : VWord :=
  ls.foldl (fun x p => (x &&& ~~~((0xFFFFFFFF : BitVec 512) <<< (32 * p.1))) ||| (BitVec.ofNat 512 (p.2 % 2 ^ 32) <<< (32 * p.1))) v
/-- The destination of a load is written (R153, R159). -/
def Strand.putLoad (m : Strand) (o : Op) (vals : List (Nat × Nat)) : Strand :=
  match o.what with
  | .load d sg =>
    let n := 8 * ((o.accs.map (·.size)).headD 8)
    let v := (vals.map (·.2)).headD 0
    m.landS o.q d (if sg then BitVec.ofInt 64 (sextN v n) else BitVec.ofNat 64 v)
  | .vload d => m.setV d (putLanes (m.getV d) vals)
  | _ => m
/-- A load part completes when its data returns (R160), unless its controller holds it (R172) or an older load part of the same bytes has not
completed (R162, R163). -/
def loadReturn (sa q : Nat) (s : State) : State :=
  match s.strand? sa with
  | none => s
  | some m => match m.ops.find? (fun o => o.q == q && o.what.loadPart && !o.what.storePart && o.what != .ringHold && o.stage == .away) with
    | none => s
    | some o =>
      if s.scHeld sa q then s.after 1 (.scHeldAccessPerform sa q)
      else if m.olderLoad o then s.after 1 (.loadDataReturn sa q)
      else
        let b := bindAll m q o.kind o.accs s
        ((b.2.watchOp sa o true false (s.loadReach sa)).modStrand sa (fun x => x.putLoad o b.1)).complete sa q OpWhat.mem
/-- The destination of a load that can still trap: its old value is saved for its own trap too (R70, R71). -/
def Strand.putEarly (m : Strand) (o : Op) (vals : List (Nat × Nat)) : Strand :=
  match o.what with
  | .load d _ =>
    let x := m.putLoad o vals
    if d = 0 ∨ m.olderTrap o.q = true then x else { x with undo := { q := o.q, reg := .s d, old := m.getS d } :: x.undo }
  | _ => m
/-- Data that the L1D returns 6 cycles after issue, before the translation is confirmed (R14, R69); whether the L1D holds a line that is not private
is free. -/
def earlyReturn (sa q : Nat) (s : State) : State :=
  match s.strand? sa with
  | none => s
  | some m => match m.ops.find? (fun o => o.q == q && o.stage == .unconfirmed && o.what.loadPart) with
    | none => s
    | some o => match laneXlate s m true false o.accs with
      | .inl _ => s
      | .inr as =>
        let o1 : Op := { o with accs := as }
        if as.any (fun a => a.region == .priv && (s.inL1 sa (a.loc.getD 0 / 128)).isNone) = true ∨
            (Config.freeBool s.freeCtr = false ∧ as.any (fun a => a.region != .priv) = true) ∨ m.olderLoad o1 = true ∨ o1.locs.any (fun l => (s.poisoned l.1 l.2 (fun _ => false)).isSome) = true ∨
            as.any (fun a => s.aliased (a.loc.getD 0) a.size a.region) = true then s.bump 1
        else
          let vals := o1.accs.map (fun a => (a.lane, s.loadBytes m q 1 (a.region == .priv) (a.loc.getD 0) a.size))
          ((s.bump 1).modStrand sa (fun x => (x.putEarly o1 vals).modOp q anyWhat (fun y => { y with what := .loaded, dsts := [] }))).stir m.troupe

/-! ### Stores -/

/-- A store of an irrevocable task is checked against the signatures of later tasks, from the cycle it is performed (R296). -/
def State.checkStore (s : State) (m : Strand) (kind : Nat) (locs : List (Nat × Nat)) : State :=
  if kind ≠ 1 then s
  else match s.taskOf m, s.troupe? m.troupe with
    | some (id, k), some t =>
      if k.state == .irrev then
        ((locs.map (fun l => granuleBase l.1)).eraseDups).foldl (fun u g => u.after (t.span + 1) (.irrevocableStoreCheck m.troupe id k.t k.unit g)) s
      else s
    | _, _ => s
/-- The bytes of a store reach the task buffer, or memory. -/
def State.putStore (s : State) (m : Strand) (o : Op) : State :=
  match o.kind, s.bufTask m with
  | 1, some (id, _) =>
    s.modTask m.troupe id (fun k => o.accs.foldl (fun x a => match a.loc with
      | some l => x.putValue (if a.region = .priv then some m.sa else none) l a.size a.data
      | none => x) k)
  | _, _ =>
    let s1 := o.accs.foldl (fun t a => match a.loc with
      | some l => t.store m.sa (isPrivate (o.kind == 1) a.region) l a.size a.data
      | none => t) s
    (s1.watchOp m.sa o false true (fun _ _ => some .store)).checkStore m o.kind o.locs
/-- The write-back of a line that is dirty in a core's L1D or its die's L2 meets the armed watches (R375). -/
def State.watchBack (s : State) (sa n : Nat) (dirty : Bool) : State :=
  if dirty then s.watchAll (128 * n) 128 false true .priv .back (saDie sa) 1 (watchLoc sa) else s
/-- The dirty private lines of some ranges are written back as FLUSHL does (R327). -/
def State.flushRanges (s : State) (sa : Nat) (ranges : List (Nat × Nat)) : State :=
  (s.dirtyLines sa ranges).foldl (fun t n => (t.flushLine sa n).watchBack sa n true) s
/-- FLUSHL or, with `drop`, INVL of a line; the copies of a line that is not private never differ from memory (R151, R158). -/
def State.lineDone (s : State) (sa loc : Nat) (region : Region) (drop : Bool) : State :=
  if region = .priv then
    (if drop then s.dropLine sa (loc / 128) else s.flushLine sa (loc / 128)).watchBack sa (loc / 128) (s.unwrittenLine sa (loc / 128))
  else s
/-- A store part is performed, unless its controller or an occupied slot holds it. -/
def storePerform (sa q : Nat) (s : State) : State :=
  match s.strand? sa with
  | none => s
  | some m => match m.ops.find? (fun o => o.q == q && o.what.storePart && !o.what.loadPart && o.stage == .away) with
    | none => s
    | some o =>
      if s.scHeld sa q then s.after 1 (.scHeldAccessPerform sa q)
      else if s.ringWait m o then s.after 1 (.ringSlotWriteResume sa q)
      else match o.what with
        | .line drop =>
          (o.accs.foldl (fun t a => match a.loc with
            | some l => t.lineDone sa l a.region drop
            | none => t) s).complete sa q OpWhat.mem
        | _ => (s.putStore m o).complete sa q OpWhat.mem
/-- STORE_PERFORMED. -/
def execStorePerformed (sa q : Nat) (s : State) : Out := .next (storePerform sa q s)

/-- The granules of the task's stores on their way to its buffer, and of one more store, that it does not hold yet. -/
def freshGranules (m : Strand) (k : Task) (o : Op) : Nat :=
  let locs := (m.ops.filter (fun x => x.q == o.q || (x.what == .store && x.kind == 1 && x.stage == .away))).flatMap Op.locs
  (((locs.map (fun l => granuleBase l.1)).eraseDups).filter (fun g => !k.buffer.any (fun e => e.loc == g))).length
/-- The store at the head of the queue may leave it (R165, R168, R172, R293). -/
def State.mayLeave (s : State) (m : Strand) (o : Op) : Bool :=
  o.stage == .waiting && !m.olderTrap o.q &&
  !(decide (2 ≤ o.ord.toNat) && m.older o.q OpWhat.mem) &&
  (match s.scOp? m.sa o.q with | some x => decide (releaseTime x.window ≤ s.cycle) | none => true) &&
  !m.ops.any (fun x => decide (x.q < o.q) && x.what.mem && x.shares o) &&
  !m.ops.any (fun x => x.what == .store && x.stage == .away && s.ringWait m x)
/-- The time a store takes from the queue to its performance (R144, R151, R158, R293). -/
def State.storeTime (s : State) (m : Strand) (o : Op) : Nat :=
  match o.what with
  | .line _ =>
    let loc := (o.locs.map (·.1)).headD 0
    if o.accs.any (fun a => a.region == .priv) = true ∧ s.unwrittenLine m.sa (loc / 128) = true then llcLatency (saDie m.sa) loc else 0
  | _ => if o.kind = 1 ∧ (s.bufTask m).isSome = true then 14 else s.latency m o
/-- STORE_QUEUE_DRAIN: the oldest entry leaves if it may, one in a cycle (R152); a store that needs a 65th granule waits until its
task is non-speculative and then makes it irrevocable first. -/
def execStoreQueueDrain (sa : Nat) (s : State) : Out :=
  match s.strand? sa with
  | none => .next s
  | some m => match m.ops.find? (fun o => o.what.queued && o.stage != .away) with
    | none => .next s
    | some o =>
      let again := s.after 1 (.storeQueueDrain sa)
      if o.what == .marker || s.mayLeave m o = false then .next again
      else
        let full : Option (Nat × Task) := match s.bufTask m with
          | some (id, k) => if o.kind = 1 ∧ 64 < k.buffer.length + freshGranules m k o ∧ o.what = .store then some (id, k) else none
          | none => none
        match full with
        | some (id, k) =>
          if k.state == .nonspec then .next ((s.beginIrrevocable m.troupe id).after 1 (.storeQueueDrain sa)) else .next again
        | none =>
          .next ((((s.bump 3).modStrand sa (fun x => x.modOp o.q OpWhat.mem (fun y => { y with stage := .away }))).after
            (s.storeTime m o) (.storePerformed sa o.q)).after 1 (.storeQueueDrain sa))
/-- RELEASE_MARKER_LEAVE: older load parts have completed and older store parts have been performed (R171). -/
def execReleaseMarkerLeave (sa q : Nat) (s : State) : Out :=
  match s.strand? sa with
  | none => .next s
  | some m => match m.op? q (· == .marker) with
    | none => .next s
    | some _ =>
      if m.olderTrap q || m.older q OpWhat.mem then .next (s.after 1 (.releaseMarkerLeave sa q))
      else .next (s.complete sa q (· == .marker))

/-! ### Atomics (R154, R155) -/

/-- The new value of an atomic on `n`-bit values. -/
def AmoOp.new (op : AmoOp) (n old v cmp : Nat) : Nat :=
  match op with
  | .add => (old + v) % 2 ^ n
  | .swap => v
  | .cas => if old = cmp then v else old
  | .and => old &&& v
  | .or => old ||| v
  | .xor => old ^^^ v
  | .min => if sextN v n < sextN old n then v else old
  | .max => if sextN old n < sextN v n then v else old
  | .minn => if v < old then v else old
  | .maxn => if old < v then v else old
  | .fadd => (fAdd .rne fp32 false (fp32.value old) (fp32.value v)).bits
/-- An atomic performs its read and write as one step at its controller; an older release marker keeps its store part back (R171). -/
def atomicPerform (sa q : Nat) (s : State) : State :=
  match s.strand? sa with
  | none => s
  | some m => match m.ops.find? (fun o => o.q == q && o.stage == .away) with
    | none => s
    | some o => match o.what, o.accs with
      | .amo d op cmp sg, a :: _ =>
        if s.scHeld sa q then s.after 1 (.scHeldAccessPerform sa q)
        else if s.ringWait m o then s.after 1 (.ringSlotWriteResume sa q)
        else if m.olderTrap q || m.older q (· == .marker) || (decide (2 ≤ o.ord.toNat) && m.older q OpWhat.mem) ||
            m.ops.any (fun x => decide (x.q < q) && x.what.mem && x.shares o) then s.after 1 (.atomicAtController sa q)
        else
          let l := a.loc.getD 0
          let n := 8 * a.size
          let priv := isPrivate (o.kind == 1) a.region
          let b := (s.recall sa priv l a.size).bindAccess m q 0 l a (o.kind == 1)
          let s1 := b.2.writeBelow sa priv l a.size (op.new n b.1 a.data cmp)
          let s2 := if o.kind = 1 then s1.watchAll l a.size true true a.region .slice (saDie sa) 1 (watchLoc sa) else s1
          let v : Word := if sg then BitVec.ofInt 64 (sextN b.1 n) else BitVec.ofNat 64 b.1
          ((s2.checkStore m o.kind o.locs).modStrand sa (fun x => x.landS q d v)).complete sa q OpWhat.mem
      | _, _ => s
/-- ATOMIC_AT_CONTROLLER. -/
def execAtomicAtController (sa q : Nat) (s : State) : Out := .next (atomicPerform sa q s)

/-! ### The SC total order (R172) and waiting writes (R255) -/

/-- SC_RELEASE_TIME: the operation leaves its strand once its older accesses are done. -/
def execScReleaseTime (sa q : Nat) (s : State) : Out :=
  match s.strand? sa with
  | none => .next s
  | some m => match m.ops.find? (fun o => o.q == q && o.stage == .waiting && (o.ord == 3 || o.what == .scFence)) with
    | none => .next s
    | some o =>
      if o.what.queued then .next (s.poke sa)
      else if m.olderTrap q || m.older q OpWhat.mem then .next (s.after 1 (.scReleaseTime sa q))
      else if o.what == .scFence then .next (s.complete sa q (· == .scFence))
      else
        let s1 := s.modStrand sa (fun x => x.modOp q OpWhat.mem (fun y => { y with stage := .away }))
        if o.what.storePart then .next ((s1.bump 3).after (s1.latency m o + 4) (.atomicAtController sa q))
        else .next ((s1.bump 3).after (s1.latency m o) (.loadDataReturn sa q))
/-- SC_HELD_ACCESS_PERFORM: an access that its controller held is tried again. -/
def execScHeldAccessPerform (sa q : Nat) (s : State) : Out :=
  match s.strand? sa with
  | none => .next s
  | some m => match m.op? q OpWhat.mem with
    | none => .next s
    | some o =>
      if o.what.loadPart && o.what.storePart then .next (atomicPerform sa q s)
      else if o.what.loadPart then .next (loadReturn sa q s)
      else .next (storePerform sa q s)
/-- RING_SLOT_WRITE_RESUME: a write that an occupied slot held is tried again. -/
def execRingSlotWriteResume (sa q : Nat) (s : State) : Out :=
  match s.strand? sa with
  | none => .next s
  | some m => match m.op? q OpWhat.mem with
    | none => .next s
    | some o => if o.what.loadPart then .next (atomicPerform sa q s) else .next (storePerform sa q s)

end Sys2Proof.Machine
end

