-- ==== Sys2Proof/Machine/Quant.lean ====
section
/-! DEFINITION. The narrow formats: packed ternary (R95, R134) and the 4-bit block family (R96 to R98). -/

namespace Sys2Proof.Machine

/-- The five weights of a packed-ternary byte by multiply and shift, and whether the byte is invalid (R134). -/
def trits (b : Nat) : List Int × Bool :=
  if 243 ≤ b then ([0, 0, 0, 0, 0], true)
  else
    let q1 := b * 21846 / 65536
    let q2 := b * 7282 / 65536
    let q3 := b * 2428 / 65536
    let q4 := b * 810 / 65536
    let q5 := b * 270 / 65536
    ([(b : Int) - 3 * q1 - 1, (q1 : Int) - 3 * q2 - 1, (q2 : Int) - 3 * q3 - 1, (q3 : Int) - 3 * q4 - 1,
      (q4 : Int) - 3 * q5 - 1], false)

/-- Eight times the magnitude of a 4-bit code of a type (R96). -/
def codeMag (ty code : Nat) : Nat :=
  let i := code % 8
  match ty % 4 with
  | 0 => 8 * (if code / 8 % 2 = 1 then 8 - i else i)
  | 1 => match i with | 0 => 0 | 1 => 4 | 2 => 8 | 3 => 12 | 4 => 16 | 5 => 24 | 6 => 32 | _ => 48
  | 2 => if i = 0 then 0 else 2 ^ (i - 1)
  | _ => match i with | 0 => 0 | 1 => 8 | 2 => 16 | 3 => 24 | 4 => 32 | 5 => 48 | 6 => 64 | _ => 96
/-- The sign of a code; every type has it in bit 3, and its zero of type 0 is +0. -/
def codeNeg (code : Nat) : Bool := code / 8 % 2 == 1
/-- Eight times a code's value. -/
def codeVal (ty code : Nat) : Int := signed (codeNeg code) (codeMag ty code)

/-- A single decoded code under its scale byte (R97). -/
def codeDecode (scale code : Nat) : FVal :=
  let m := codeMag (scale / 64) code
  if m = 0 then .zero (codeNeg code)
  else if scale % 64 = 63 then .inf (codeNeg code)
  else .fin (codeNeg code) m ((scale % 64 : Nat) - 35 : Int)

/-- The sum of the products of two lists of codes, in units of 1/64, and whether every product is −0 (R98). -/
def codeDot (ta tb : Nat) : List (Nat × Nat) → Int × Bool
  | [] => (0, true)
  | (a, b) :: r =>
    let t := codeDot ta tb r
    (codeVal ta a * codeVal tb b + t.1,
     t.2 && (codeMag ta a * codeMag tb b == 0) && (codeNeg a != codeNeg b))

/-- C of R98 from S in units of 1/64, the two scale bytes, and whether a zero S is −0. -/
def blockC (s64 : Int) (ea eb : Nat) (negZero : Bool) : FVal :=
  if ea % 64 = 63 ∨ eb % 64 = 63 then (if s64 = 0 then .nan false else .inf (decide (s64 < 0)))
  else if s64 = 0 then .zero negZero
  else .fin (decide (s64 < 0)) s64.natAbs (((ea % 64 + eb % 64 : Nat) : Int) - 70)

end Sys2Proof.Machine
end

