-- ==== Sys2Proof/Machine/Matrix.lean ====
section
/-! DEFINITION. Major 0x34 and the matrix array: operand tiles, the sequencer, retirement and the save area (R251 to
R275). -/

namespace Sys2Proof.Machine

/-! ### Tiles and accumulator cells (R251, R252) -/

/-- How the elements of an operand are packed. -/
inductive Elem where
  | float (f : Fmt) | code4 | int8 | ternary
deriving DecidableEq, Repr

/-- The operands of an MMA minor (R259). -/
def mmaElems (fmt : Nat) : Elem × Elem :=
  match fmt with
  | 0 => (.float fp16, .float fp16)
  | 1 => (.float bf16, .float bf16)
  | 2 => (.float e4m3, .float e4m3)
  | 3 => (.float e4m3, .float e5m2)
  | 4 => (.float e5m2, .float e4m3)
  | 5 => (.float e5m2, .float e5m2)
  | 6 => (.code4, .code4)
  | 7 => (.int8, .int8)
  | 8 => (.ternary, .int8)
  | 9 => (.float fp32, .float fp32)
  | _ => (.float fp64, .float fp64)
/-- The row pitch in bytes. -/
def Elem.pitch : Elem → Nat
  | .float f => 32 * f.width
  | .code4 => 128
  | .int8 => 256
  | .ternary => 64
/-- The bytes of a tile of 256 rows. -/
def Elem.tile (e : Elem) : Nat := 256 * e.pitch
/-- The form works on FP64 cells. -/
def isWide (fmt : Nat) : Bool := fmt == 10

/-- Row `r` of a tile as one number. -/
def tileRow (s : State) (base : Nat) (e : Elem) (r : Nat) : Nat := s.read (base + r * e.pitch) e.pitch
/-- The scale byte of row `r` of a slot. -/
def scaleByte (s : State) (base size r : Nat) : Nat := s.read (base + size + r) 1
/-- The location of the slot of a count in a strand's ring. -/
def slotLoc (m : Strand) (r : Ring) (count : BitVec 32) : Nat := clusterLoc (saPkg m.sa) (operandStore + r.slotAt count)

/-- A cell of 32 bits. -/
def Strand.cell32 (m : Strand) (acc i j : Nat) : Nat := (Tab.getD m.accs (65536 * acc + 256 * i + j) 0).toNat
/-- A cell of 64 bits of the pair that `acc` begins. -/
def Strand.cell64 (m : Strand) (acc i j : Nat) : Nat :=
  let k := 65536 * acc + 512 * i + 2 * j
  (Tab.getD m.accs k 0).toNat + (Tab.getD m.accs (k + 1) 0).toNat * 2 ^ 32
/-- A cell of a form. -/
def Strand.cell (m : Strand) (wide : Bool) (acc i j : Nat) : Nat := if wide then m.cell64 acc i j else m.cell32 acc i j
/-- The cells of keys in [lo, hi) become `new`, which is listed by rising key; a cell of +0 is not listed. -/
def putCells (t : Tab (BitVec 32)) (lo hi : Nat) (new : List (Nat × Nat)) : Tab (BitVec 32) :=
  List.filter (fun p => decide (p.1 < lo)) t ++
    (new.filter (fun p => p.2 % 2 ^ 32 != 0)).map (fun p => (p.1, BitVec.ofNat 32 p.2)) ++
    List.filter (fun p => decide (hi ≤ p.1)) t
/-- Rows [i, i + n) of an accumulator become `rows`. -/
def Strand.putRows (m : Strand) (wide : Bool) (acc i : Nat) (rows : List (List Nat)) : Strand :=
  let w := if wide then 512 else 256
  let base := 65536 * acc + w * i
  let cells := rows.flatMap (fun r => if wide then r.flatMap (fun v => [v % 2 ^ 32, v / 2 ^ 32]) else r)
  { m with accs := putCells m.accs base (base + w * rows.length) (cells.zipIdx.map (fun p => (base + p.2, p.1))) }

/-! ### The cell updates (R260 to R263) -/

/-- The exact sum of a k-group so far: its conditions, infinities, dyadic sum, and whether every term is −0. -/
structure GroupSum where
  nan : Bool
  nv : Bool
  pinf : Bool
  ninf : Bool
  sum : Int
  e : Int
  negz : Bool
deriving DecidableEq, Repr

/-- One more term of a k-group. -/
def GroupSum.add (g : GroupSum) (x y : FVal) : GroupSum :=
  let sg := x.neg != y.neg
  let inf : GroupSum := { g with pinf := g.pinf || !sg, ninf := g.ninf || sg, negz := false }
  match x, y with
  | .nan a, .nan b => { g with nan := true, nv := g.nv || a || b, negz := false }
  | .nan a, _ => { g with nan := true, nv := g.nv || a, negz := false }
  | _, .nan b => { g with nan := true, nv := g.nv || b, negz := false }
  | .inf _, .zero _ => { g with nan := true, nv := true, negz := false }
  | .zero _, .inf _ => { g with nan := true, nv := true, negz := false }
  | .inf _, _ => inf
  | _, .inf _ => inf
  | .zero _, _ => { g with negz := g.negz && sg }
  | _, .zero _ => { g with negz := g.negz && sg }
  | .fin _ a ea, .fin _ b eb =>
    let t := addExact g.sum g.e (signed sg (a * b)) (ea + eb)
    { g with sum := t.1, e := t.2, negz := false }
/-- P of a k-group, and whether it raises NV. -/
def GroupSum.value (g : GroupSum) : FVal × Bool :=
  if g.nan then (.nan false, g.nv || (g.pinf && g.ninf))
  else if g.pinf && g.ninf then (.nan false, true)
  else if g.pinf then (.inf false, g.nv)
  else if g.ninf then (.inf true, g.nv)
  else if g.sum = 0 then (.zero g.negz, g.nv)
  else (.fin (decide (g.sum < 0)) g.sum.natAbs g.e, g.nv)

/-- The 16 steps of a floating-point cell (R260); rounding is RNE and nothing is flushed. -/
def floatCell (cellF : Fmt) (a b : Fmt) (rowA rowB acc : Nat) : Nat × BitVec 5 :=
  (List.range 16).foldl (fun x g =>
    let p := ((List.range 16).foldl (fun t k =>
      let i := 16 * g + k
      t.add (a.value (rowA / 2 ^ (a.width * i) % 2 ^ a.width)) (b.value (rowB / 2 ^ (b.width * i) % 2 ^ b.width)))
      ({ nan := false, nv := false, pinf := false, ninf := false, sum := 0, e := 0, negz := true } : GroupSum)).value
    let r := fAdd .rne cellF false (cellF.value x.1) p.1
    (r.bits, x.2 ||| r.cond ||| (if p.2 then condNV else 0))) (acc, 0)
/-- The one step of a 4-bit block cell (R98, R261). -/
def codeCell (rowA rowB sa sb acc : Nat) : Nat × BitVec 5 :=
  let d := codeDot (sa / 64) (sb / 64) ((List.range 256).map (fun k => (rowA / 16 ^ k % 16, rowB / 16 ^ k % 16)))
  let c := blockC d.1 sa sb d.2
  let x := fp32.value acc
  let r := fAdd .rne fp32 false x c
  (r.bits, if x.isNan || c.isNan then 0 else r.cond)
/-- A signed byte of a row. -/
def byteInt (row k : Nat) : Int := sextN (row / 256 ^ k % 256) 8
/-- The 256 weights of a packed-ternary row, and whether a byte is invalid (R134, R262). -/
def rowTrits (row : Nat) : List Int × Bool :=
  let bs := (List.range 52).map (fun i => trits (row / 256 ^ i % 256))
  ((bs.flatMap (·.1)).take 256, bs.any (·.2))
/-- The new value of a cell from a row of A, a row of B, their scale bytes and the old value. -/
def newCell (fmt : Nat) (rowA rowB sa sb acc : Nat) : Nat × BitVec 5 :=
  match mmaElems fmt with
  | (.float a, .float b) => floatCell (if isWide fmt then fp64 else fp32) a b rowA rowB acc
  | (.code4, _) => codeCell rowA rowB sa sb acc
  | (.ternary, _) =>
    let d := ((rowTrits rowA).1.zipIdx).foldl (fun (t : Int) p => t + p.1 * byteInt rowB p.2) 0
    (cutInt 32 (sextN acc 32 + d), 0)
  | _ =>
    let d := (List.range 256).foldl (fun (t : Int) k => t + byteInt rowA k * byteInt rowB k) 0
    (cutInt 32 (sextN acc 32 + d), 0)
where
  /-- An integer modulo 2^n. -/
  cutInt (n : Nat) (v : Int) : Nat := (v % (2 ^ n : Nat)).toNat

/-- MSTAT positions of conditions, TBAD and CLIP (R270). -/
def mstatOfCond (c : BitVec 5) : BitVec 7 := c.setWidth 7 &&& ~~~8
def mstatClip : BitVec 7 := 32
def mstatTbad : BitVec 7 := 64

/-- Rows [i0, i0 + n) of accumulator d from the A slot at `la` and the B slot at `lb`, with what they OR into MSTAT. -/
def mulRows (s : State) (m : Strand) (d fmt : Nat) (zero : Bool) (la sizeA lb sizeB i0 n : Nat) : Strand × BitVec 7 :=
  let es := mmaElems fmt
  let bRows := (List.range 256).map (fun j => (tileRow s lb es.2 j, scaleByte s lb sizeB j))
  let rows := (List.range n).map (fun k =>
    let i := i0 + k
    let a := tileRow s la es.1 i
    let sa := scaleByte s la sizeA i
    let cells := bRows.zipIdx.map (fun b => newCell fmt a b.1.1 sa b.1.2 (if zero then 0 else m.cell (isWide fmt) d i b.2))
    let bad : BitVec 7 := if es.1 == .ternary && (rowTrits a).2 then mstatTbad else 0
    (cells.map (·.1), cells.foldl (fun c x => c ||| mstatOfCond x.2) bad))
  (m.putRows (isWide fmt) d i0 (rows.map (·.1)), rows.foldl (fun c r => c ||| r.2) 0)

/-! ### Starting an operation (R257 to R269) -/

/-- D of an MMA format at full width (R258). -/
def mmaTime (fmt : Nat) : Nat :=
  match fmt with
  | 0 => 256 | 1 => 256 | 6 => 64 | 9 => 1024 | 10 => 16384 | _ => 128
/-- The element bytes of a FMT (R268). -/
def maccBytes (fmt : Nat) : Nat := match fmt with | 0 => 4 | 1 => 2 | 2 => 2 | 3 => 1 | 4 => 1 | _ => 8
/-- The narrow format of a FMT; none where the bits are stored as they are. -/
def maccFmt (fmt : Nat) : Option Fmt :=
  match fmt with | 1 => some fp16 | 2 => some bf16 | 3 => some e4m3 | 4 => some e5m2 | _ => none

/-- The accumulators an operation writes or reads. -/
def MatWhat.accs : MatWhat → List Nat
  | .mma d _ _ f _ _ _ => if isWide f then [d.toNat, d.toNat + 1] else [d.toNat]
  | .mmag d _ _ f _ _ _ _ _ _ => if isWide f then [d.toNat, d.toNat + 1] else [d.toNat]
  | .mzero d => [d.toNat]
  | .maccst d _ _ _ _ _ f _ => if f = 5 then [d.toNat, d.toNat + 1] else [d.toNat]
  | .maccld d _ _ _ _ _ f => if f = 5 then [d.toNat, d.toNat + 1] else [d.toNat]
/-- MACCST and MACCLD wait for the strand's older accesses (R268, R269). -/
def MatWhat.transfer : MatWhat → Bool
  | .maccst _ _ _ _ _ _ _ _ => true | .maccld _ _ _ _ _ _ _ => true | _ => false
/-- An MMA, or an MMAG with groups, whose D squall mode doubles (R258, R266, R273). -/
def MatWhat.multiplies : MatWhat → Bool | .mma _ _ _ _ _ _ _ => true | .mmag _ _ _ _ _ _ _ g _ _ => g != 0 | _ => false
/-- MACCST waits for the retirement of every earlier operation on its accumulator. -/
def MatWhat.store : MatWhat → Bool | .maccst _ _ _ _ _ _ _ _ => true | _ => false

/-- The head of a strand's queue is ready (R257). -/
def headReady (m : Strand) (o : MatOp) : Bool :=
  o.entered.isSome && !m.ops.any (fun x => x.q == o.q && x.what == .ringHold) && (matNeeds o.what).all (fun p => !ringShort m p.1 p.2) &&
  (!o.what.store || !m.mq.any (fun x => x.started.isSome && x.q != o.q && x.what.accs.any (fun a => o.what.accs.contains a))) &&
  (!o.what.transfer || !m.older o.q OpWhat.mem)
/-- The heavy strands of a cluster, by number. -/
def State.heavies (s : State) (cl : Nat) : List Strand :=
  (List.range 4).filterMap (fun n =>
    match s.strand? (mkSa (pcDie cl) (pcIndex cl) 48 n) with
    | some m => if m.kind == .heavy then some m else none
    | none => none)
/-- The ready head that entered its queue earliest, ties to the lower heavy-strand number. -/
def State.nextHead (s : State) (cl : Nat) : Option (Strand × MatOp) :=
  (s.heavies cl).foldl (fun best m =>
    match m.mq.find? (fun o => o.started.isNone) with
    | none => best
    | some o =>
      if headReady m o = false then best
      else match best with
        | none => some (m, o)
        | some b => if o.entered.getD 0 < b.2.entered.getD 0 then some (m, o) else best) none
/-- Some strand of the cluster holds an operation that has not started. -/
def State.matWaiting (s : State) (cl : Nat) : Bool := (s.heavies cl).any (fun m => m.mq.any (fun o => o.started.isNone))
/-- The sequencer looks for a head to start. -/
def State.pokeSeq (s : State) (cl : Nat) (n : Nat) : State :=
  if s.matWaiting cl && !s.agenda.any (fun e => match e.2 with | .sequencerStart c => c == cl && e.1 == s.cycle + n | _ => false) then
    s.after n (.sequencerStart cl)
  else s

/-- Changes a matrix operation of a strand. -/
def Strand.modMat (m : Strand) (q : Nat) (f : MatOp → MatOp) : Strand :=
  { m with mq := m.mq.map (fun o => if o.q == q then f o else o) }
/-- Changes a ring of the strand. -/
def Strand.setRing (m : Strand) (r : RingIx) (g : Ring) : Strand := { m with rings := m.rings.set r.toNat g }
/-- The claim counts advance past the slots that an operation will pop (R254). -/
def Strand.claim (m : Strand) (pops : List (RingIx × Nat)) : Strand :=
  pops.foldl (fun x p =>
    let g := x.rings[p.1.toNat]
    x.setRing p.1 { g with claim := g.claim + BitVec.ofNat 32 p.2 }) m
/-- HEAD advances past them at retirement. -/
def Strand.pop (m : Strand) (cycle : Nat) (pops : List (RingIx × Nat)) : Strand :=
  pops.foldl (fun x p =>
    let g := x.rings[p.1.toNat]
    x.setRing p.1 { g with head := g.head + BitVec.ofNat 32 p.2, popAt := cycle, popped := g.fresh cycle + p.2 }) m
/-- The slots that an operation pops. -/
def MatWhat.pops : MatWhat → List (RingIx × Nat)
  | .mma _ a b _ _ ka kb => if a = b then [(a, if ka then 0 else 2)] else [(a, if ka then 0 else 1), (b, if kb then 0 else 1)]
  | .mmag _ a b _ _ ka _ g rows _ =>
    let n := ((rows.take g).filter (fun r => decide (0 < r))).length
    if a = b then [(a, n + if ka then 0 else 1)] else [(a, if ka then 0 else 1), (b, n)]
  | _ => []
/-- The groups of an MMAG that have rows: first row, rows below 256, whether it ran past row 255, and its B slot. -/
def groups (start b : Nat) : List Nat → List (Nat × Nat × Bool × Nat)
  | [] => []
  | r :: rest =>
    if r = 0 then groups start b rest
    else (start, (if start + r < 256 then start + r else 256) - start, decide (256 < start + r), b) :: groups (start + r) (b + 1) rest
/-- The results of an arithmetic operation: the accumulators, what it ORs into MSTAT, and D at full width in eighths. -/
def matCompute (s : State) (m : Strand) (w : MatWhat) : Strand × BitVec 7 × Nat :=
  match w with
  | .mma d a b f zero _ _ =>
    let ra := m.rings[a.toNat]
    let rb := m.rings[b.toNat]
    let cb := if a = b then rb.claim + 1 else rb.claim
    let r := mulRows s m d.toNat f zero (slotLoc m ra ra.claim) ra.size (slotLoc m rb cb) rb.size 0 256
    (r.1, r.2, 8 * mmaTime f)
  | .mmag d a b f zero _ _ g rows clip =>
    let ra := m.rings[a.toNat]
    let rb := m.rings[b.toNat]
    let cb := if a = b then rb.claim + 1 else rb.claim
    let gs := groups 0 0 (rows.take g)
    let r := gs.foldl (fun (t : Strand × BitVec 7 × Nat) p =>
      let x := mulRows s t.1 d.toNat f zero (slotLoc m ra ra.claim) ra.size (slotLoc m rb (cb + BitVec.ofNat 32 p.2.2.2)) rb.size
        p.1 p.2.1
      (x.1, t.2.1 ||| x.2 ||| (if p.2.2.1 then mstatClip else 0), t.2.2 + (if p.2.1 ≤ 32 then 1 else (p.2.1 + 31) / 32) * mmaTime f))
      (m, if clip then mstatClip else 0, 0)
    (r.1, r.2.1, if g = 0 then 64 else r.2.2)
  | .mzero d => ({ m with accs := putCells m.accs (65536 * d.toNat) (65536 * d.toNat + 65536) [] }, 0, 64)
  | .maccld d seg off stride first count f =>
    let eb := maccBytes f
    let row := fun (r : Nat) => s.read (localLoc m seg.kind (seg.base.toNat + off + r * stride)) (256 * eb)
    let conv := fun (v : Nat) => match maccFmt f with
      | none => ({ bits := v, cond := 0 } : FRes)
      | some g => fConvert .rne fp32 false (g.value v)
    let rows := (List.range count).map (fun r => (List.range 256).map (fun j => conv (row r / 2 ^ (8 * eb * j) % 2 ^ (8 * eb))))
    (m.putRows (f == 5) d.toNat first (rows.map (fun r => r.map (·.bits))),
     rows.foldl (fun c r => r.foldl (fun c x => c ||| mstatOfCond x.cond) c) 0,
     8 * (count * eb + localLatency m seg.kind (seg.base.toNat + off)))
  | .maccst _ _ _ _ _ _ _ _ => (m, 0, 0)

/-- The pages of a MACCST row at a VA of `n` bytes: byte of the row, VA, length. -/
def rowPages (va n : Nat) : List (Nat × Nat × Nat) :=
  let n0 := 65536 - va % 65536
  if n ≤ n0 then [(0, va, n)] else [(0, va, n0), (n0, va + n0, n - n0)]
/-- The translations of one row: its pieces, or the VA that misses, or a failure. -/
def rowXlate (s : State) (m : Strand) (cl row : Nat) : List (Nat × Nat × Nat) → (Option Nat) ⊕ List RowPiece
  | [] => .inr []
  | (b, va, n) :: r =>
    match s.xlate m.port (.matrix cl) m.asid va false true with
    | .miss => .inl (some va)
    | .fail _ => .inl none
    | .hit l => match rowXlate s m cl row r with
      | .inl x => .inl x
      | .inr ps => .inr ({ row := row, off := b, loc := l.addr va, len := n, region := l.region } :: ps)
/-- The write latency of the tier that a MACCST's rows go to, for its first written row. -/
def storeTier (m : Strand) (seg : Seg) (addr : Nat) (pieces : List RowPiece) (s : State) : Nat :=
  if seg.kind = 1 then
    match pieces with
    | p :: _ => tierLatency (saDie m.sa) p.loc (match (s.port m.port).find m.asid addr with | some l => l.region | none => .priv) s.freeCtr
    | [] => 0
  else localLatency m seg.kind addr
/-- The rest of a MACCST's rows are translated in ascending order, up to a miss, which walks; when all are done or one
fails, its end is known (R268). -/
def storeRows (cl : Nat) (sa q : Nat) : Nat → State → State
  | 0, s => s
  | fuel + 1, s =>
    match s.strand? sa with
    | none => s
    | some m => match m.mq.find? (fun o => o.q == q) with
      | none => s
      | some o => match o.what with
        | .maccst _ seg off stride _ count f _ =>
          let eb := maccBytes f
          let addr := seg.base.toNat + off
          let finish := fun (status w : Nat) =>
            let walked := s.cycle - o.started.getD s.cycle
            let d := w * eb + (if w = 0 then 0 else storeTier m seg addr o.pieces s)
            let d1 := if d = 0 ∧ walked = 0 then 1 else d
            let s1 := (s.modStrand sa (fun x => x.modMat q (fun y => { y with status := status, ends := some (s.cycle + d1) }))).modCluster cl
              (fun c => { c with arrayFree := s.cycle + d1 })
            (((s1.modPort m.port (fun p => p.forget (.matrix cl))).after d1 (.matrixRetire cl)).pokeSeq cl d1).bump 2
          if count ≤ o.row then finish 0 count
          else
            let va := addr + o.row * stride
            let found := if seg.kind = 1 then rowXlate s m cl o.row (rowPages va (256 * eb))
              else .inr [{ row := o.row, off := 0, loc := localLoc m seg.kind va, len := 256 * eb }]
            match found with
            | .inr ps => storeRows cl sa q fuel (s.modStrand sa (fun x => x.modMat q (fun y =>
                { y with row := y.row + 1, pieces := y.pieces ++ ps })))
            | .inl none => finish 1 o.row
            | .inl (some miss) => s.startWalk m.port (.matrix cl) .write m.asid m.root miss
        | _ => s
/-- MACCST_WALK_END. -/
def execMaccstWalkEnd (cl : Nat) (s : State) : Out :=
  match (s.heavies cl).findSome? (fun m => (m.mq.find? (fun o => o.what.store && o.started.isSome && o.ends.isNone)).map (fun o => (m.sa, o.q))) with
  | none => .next s
  | some (sa, q) => .next (storeRows cl sa q 257 s)

/-! ### Retirement (R257, R268) -/

/-- The bytes of a row of a MACCST, and the conditions of its conversion. -/
def storeBytes (m : Strand) (d f row : Nat) : Nat × BitVec 7 :=
  let eb := maccBytes f
  (List.range 256).foldr (fun j t =>
    let v := m.cell (f == 5) d row j
    let r := match maccFmt f with
      | none => ({ bits := v, cond := 0 } : FRes)
      | some g => fConvert .rne g false (fp32.value v)
    (r.bits + 2 ^ (8 * eb) * t.1, t.2 ||| mstatOfCond r.cond)) (0, 0)
/-- The rows of a MACCST are written, private ones at the L2 of the strand's die, and its message is posted. -/
def storeEnd (s : State) (m : Strand) (o : MatOp) : State :=
  match o.what with
  | .maccst d seg _ _ first _ f tag =>
    let s1 := o.pieces.foldl (fun t p =>
      let b := storeBytes m d.toNat f (first + p.row)
      let t1 := t.writeBelow m.sa (isPrivate (seg.kind == 1) p.region) p.loc p.len (b.1 / 2 ^ (8 * p.off))
      if seg.kind = 1 then t1.watchAll p.loc p.len false true p.region .slice (saDie m.sa) 1 (watchLoc m.sa) else t1) s
    let conds := o.pieces.foldl (fun c p => c ||| (storeBytes m d.toNat f (first + p.row)).2) 0
    (s1.modStrand m.sa (fun x => x.orSticky s.cycle conds)).post 0 m.troupe m.vcid (mailWord 0 0 o.status 2 tag.toNat)
  | _ => s
/-- A MACCST row meets an occupied slot of the operand store (R255). -/
def storeHeld (s : State) (m : Strand) (o : MatOp) : Bool :=
  let lo := clusterLoc (saPkg m.sa) operandStore
  o.pieces.any (fun p => decide (lo ≤ p.loc) && decide (p.loc < clusterLoc (saPkg m.sa + 1) 0) &&
    s.ringHeld (saPkg m.sa) (p.loc - lo) p.len)
/-- One operation retires: its slots are popped, its conditions ORed into MSTAT, an invalid ternary byte into VSTAT too (R95), and it leaves the
queue. -/
def matRetire (s : State) (m : Strand) (o : MatOp) : State :=
  let s1 := if o.what.store then storeEnd s m o else s
  (s1.modStrand m.sa (fun x =>
    let y := ((x.pop s.cycle o.pops).orSticky s.cycle o.conds).landFlags o.q 0 (if o.conds.getLsbD 6 then 1 else 0)
    { y with mq := y.mq.filter (fun z => z.q != o.q) })).stir m.troupe
/-- A MACCST that an occupied slot keeps from its last write, or a full spill ring from its message, holds the array for another cycle (R194, R255,
R257). -/
def State.holdArray (s : State) (cl : Nat) (m : Strand) (o : MatOp) : State :=
  ((s.modStrand m.sa (fun x => x.modMat o.q (fun y => { y with ends := some (s.cycle + 1) }))).modCluster cl
    (fun c => { c with arrayFree := s.cycle + 1 })).after 1 (.matrixRetire cl)
/-- Every operation of a cluster whose end has come retires. -/
def State.retireDue (s : State) (cl : Nat) : State :=
  let due := (s.heavies cl).flatMap (fun m => (m.mq.filter (fun o => match o.ends with | some e => decide (e ≤ s.cycle) | none => false)).map
    (fun o => (m.sa, o)))
  due.foldl (fun t p => match t.strand? p.1 with
    | none => t
    | some m => if p.2.what.store && (storeHeld t m p.2 || t.mailFull m.troupe m.vcid) then t.holdArray cl m p.2 else matRetire t m p.2) s
/-- MATRIX_RETIRE. -/
def execMatrixRetire (cl : Nat) (s : State) : Out := .next ((s.retireDue cl).pokeSeq cl 0)

/-- SEQUENCER_START: the array, if free, takes the earliest ready head, and the power alarm decides its width (R257, R273). -/
def execSequencerStart (cl : Nat) (s0 : State) : Out :=
  let s := s0.retireDue cl
  let c := s.cluster cl
  let busy := (s.heavies cl).any (fun m => m.mq.any (fun o => o.started.isSome && o.ends.isNone))
  if busy then .next s
  else if s.cycle < c.arrayFree then .next (s.pokeSeq cl (c.arrayFree - s.cycle))
  else match s.nextHead cl with
    | none => .next (s.pokeSeq cl 1)
    | some (m, o) =>
      let s1 := s.modCluster cl (fun x => { x with
        squall := x.alarm
        sqentry := if x.alarm && !x.squall then x.sqentry + 1 else x.sqentry })
      if o.what.store then
        .next (storeRows cl m.sa o.q 257 (s1.modStrand m.sa (fun x => x.modMat o.q (fun y => { y with started := some s.cycle }))))
      else
        let r := matCompute s m o.what
        let full := r.2.2 / 8
        let d := if c.alarm && o.what.multiplies then 2 * full else full
        let s2 := s1.modStrand m.sa (fun _ => (r.1.claim o.what.pops).modMat o.q (fun y => { y with
          started := some s.cycle, ends := some (s.cycle + d + 16), pops := o.what.pops, conds := r.2.1 }))
        .next (((s2.modCluster cl (fun x => { x with arrayFree := s.cycle + d })).after (d + 16) (.matrixRetire cl)).pokeSeq cl d)

/-! ### The instructions -/

/-- The words of an MTX form (R256). -/
def mtxWord (d a b minor aux : Nat) (imm : Nat) (c : Bool) : Word :=
  words (0xD0000000 + d * 2 ^ 21 + a * 2 ^ 16 + b * 2 ^ 11 + minor * 16 + aux * 2 + c.toNat) imm
/-- TRAPADDR of a ring fault (R264). -/
def ringFault (r : RingIx) (reason : Nat) : Word := BitVec.ofNat 64 (r.toNat + reason * 256)
/-- A matrix operation enters the queue 2 cycles after issue. -/
def State.queueMat (s : State) (what : MatWhat) (c : Bool) : State :=
  let q := s.me.nextQ
  let o : MatOp := { q := q, what := what, entered := none, started := none, ends := none, pops := [], conds := 0,
                     row := 0, status := 0, pieces := [] }
  (s.mod (fun m => { m with mq := m.mq ++ [o] }.retire 8 c)).after 2 (.matrixQueueEntry s.me.sa q)
/-- Reasons 1, 2 and 5 of R264 for one ring of a form that needs `n` slots of it. -/
def ringCheck (m : Strand) (r : RingIx) (tile n : Nat) : Option Word :=
  let g := m.rings[r.toNat]
  if g.slots = 0 then some (ringFault r 1)
  else if g.size < tile then some (ringFault r 2)
  else if g.slots < n then some (ringFault r 5)
  else none
/-- MMA (R259). -/
def execMma (d : AccIx) (a b : RingIx) (fmt : BitVec 4) (zero keepa keepb c : Bool) (s : State) : Out :=
  let m := s.me
  let es := mmaElems fmt.toNat
  let imm := zero.toNat * 32 + keepa.toNat * 64 + keepb.toNat * 128
  s.gate (mtxWord d.toNat a.toNat b.toNat fmt.toNat 0 imm c) false heavyKind
    (match (if a = b then ringCheck m a (if es.1.tile < es.2.tile then es.2.tile else es.1.tile) 2
            else (ringCheck m a es.1.tile 1).or (ringCheck m b es.2.tile 1)) with
     | some addr => s.trap .ringFault addr
     | none => if 8 ≤ m.mq.length then .next s else .next (s.queueMat (.mma d a b fmt.toNat zero keepa keepb) c))
/-- The descriptor read of an MMAG: until it returns it can trap, and nothing younger issues (R264, R265). -/
def Strand.readDesc (m : Strand) (cycle kind loc : Nat) : Strand :=
  let a : Access := { lane := 0, va := 0, size := 40, loc := some loc, region := .priv, data := 0 }
  let o : Op := { q := m.nextQ, pc := m.pc, what := .ringHold, dsts := [], accs := [a], ord := 0, kind := kind, stage := .away,
                  trappable := true, flags := m.flags, issued := cycle }
  { m with ops := m.ops ++ [o] }
/-- MMAG: it enters the queue, and its group descriptor is read (R265). Of several faults it reports ring A's reason 1, 2 or 5, then ring B's, then that
of the segment (DESIGN CHOICE, entry 76 of the log). -/
def execMmag (d : AccIx) (a b : RingIx) (fmt : BitVec 4) (n : SegIx) (r : SReg) (zero keepa c : Bool) (s : State) : Out :=
  let m := s.me
  let es := mmaElems fmt.toNat
  let g := m.getSeg n
  let imm := r.toNat + zero.toNat * 32 + keepa.toNat * 64
  s.gate (mtxWord d.toNat a.toNat b.toNat (16 + fmt.toNat) n.toNat imm c) false heavyKind
    (match (if a = b then ringCheck m a (if es.1.tile < es.2.tile then es.2.tile else es.1.tile) 1
            else (ringCheck m a es.1.tile 1).or (ringCheck m b es.2.tile 0)) with
     | some addr => s.trap .ringFault addr
     | none =>
       if g.kind = 1 then s.trap .segRights (m.getS r)
       else match segCheck m g true false (m.getS r) 40 8 with
         | .bad cause addr => s.trap cause addr
         | .ok addr =>
           if 8 ≤ m.mq.length then .next s
           else .next (((s.mod (fun x => x.readDesc s.cycle g.kind (localLoc m g.kind addr))).queueMat
             (.mmag d a b fmt.toNat zero keepa (localLoc m g.kind addr) 0 [] false) c).after (localLatency m g.kind addr)
             (.loadDataReturn m.sa m.nextQ)))
/-- MZERO (R267). -/
def execMzero (d : AccIx) (c : Bool) (s : State) : Out :=
  s.gate (mtxWord d.toNat 0 0 0x20 0 0 c) false heavyKind
    (if 8 ≤ s.me.mq.length then .next s else .next (s.queueMat (.mzero d) c))
/-- MACCST and MACCLD: the fields of s[b] and the segment are checked (R268, R269). -/
def macc (w : Word) (load : Bool) (a b : SReg) (n : SegIx) (fmt : Nat) (what : Seg → Nat → Nat → Nat → Nat → MatWhat) (c : Bool)
    (s : State) : Out :=
  let m := s.me
  let g := m.getSeg n
  let y := (m.getS b).toNat
  let stride := y % 2 ^ 32
  let first := y / 2 ^ 32 % 256
  let count := y / 2 ^ 40 % 256 + 1
  let row := 256 * maccBytes fmt
  s.gate w false heavyKind
    (if stride % 64 ≠ 0 ∨ stride < row ∨ 256 < first + count then s.trap .illegal w
     else if load = true ∧ g.kind = 1 then s.trap .segRights (m.getS a)
     else match segCheck m g load (!load) (m.getS a) ((count - 1) * stride + row) 64 with
       | .bad cause addr => s.trap cause addr
       | .ok _ => if 8 ≤ m.mq.length then .next s else .next (s.queueMat (what g (m.getS a).toNat stride first count) c))
/-- MACCST. -/
def execMaccst (d : AccIx) (a b : SReg) (n : SegIx) (tag : BitVec 16) (fmt : BitVec 3) (c : Bool) (s : State) : Out :=
  macc (mtxWord d.toNat a.toNat b.toNat 0x21 n.toNat (tag.toNat + fmt.toNat * 2 ^ 16) c) false a b n fmt.toNat
    (fun g off st f k => .maccst d g off st f k fmt.toNat tag) c s
/-- MACCLD. -/
def execMaccld (d : AccIx) (a b : SReg) (n : SegIx) (fmt : BitVec 3) (c : Bool) (s : State) : Out :=
  macc (mtxWord d.toNat a.toNat b.toNat 0x22 n.toNat (fmt.toNat * 2 ^ 16) c) true a b n fmt.toNat
    (fun g off st f k => .maccld d g off st f k fmt.toNat) c s

/-- A ring configuration word that R253 refuses. -/
def badRing (v : Nat) : Bool :=
  let size := v / 2 ^ 40 % 16
  let slots := v / 2 ^ 32 % 256
  v / 2 ^ 44 != 0 || v / 2 ^ 24 % 256 != 0 || decide (4 < size) || decide (64 < slots) || v % 2 ^ 24 % 256 != 0 ||
    decide (2 ^ 24 < v % 2 ^ 24 + slots * (2 ^ (15 + size) + 256))
/-- MRINGCFG.set, once the matrix queue is empty and no reservation is open (R253, R282). -/
def execMringcfgSet (a : RingIx) (b : SReg) (c : Bool) (s : State) : Out :=
  let v := s.me.getS b
  let g := s.me.rings[a.toNat]
  s.gate (mtxWord 0 a.toNat b.toNat 0x23 0 0 c) false heavyKind
    (if s.me.mq.isEmpty = false ∨ g.reserved ≠ g.tail then .next s
     else if badRing v.toNat then s.trap .ringFault (ringFault a 3)
     else .next (s.mod (fun m => (m.setRing a { cfg := v, head := 0, tail := 0, claim := 0, reserved := 0 }).retire 8 c)))
/-- MRINGCFG.pub: TAIL advances by n (R255). -/
def execMringcfgPub (a : RingIx) (b : SReg) (c : Bool) (s : State) : Out :=
  let n := (s.me.getS b).toNat % 128
  let g := s.me.rings[a.toNat]
  s.gate (mtxWord 0 a.toNat b.toNat 0x23 1 0 c) false heavyKind
    (if g.slots = 0 then s.trap .ringFault (ringFault a 1)
     else if n = 0 ∨ 64 < n ∨ g.slots < g.occupancy + n then s.trap .ringFault (ringFault a 4)
     else .next ((s.mod (fun m => (m.setRing a { g with tail := g.tail + BitVec.ofNat 32 n, reserved := g.reserved + BitVec.ofNat 32 n }).retire 8 c)).pokeSeq
       (saPkg s.me.sa) 0))
/-- MRINGCFG.get. -/
def execMringcfgGet (d : SReg) (a : RingIx) (c : Bool) (s : State) : Out :=
  let g := s.me.rings[a.toNat]
  s.gate (mtxWord d.toNat a.toNat 0 0x23 2 0 c) false heavyKind (.next (s.finS d (g.tail ++ g.head) 8 c))
/-- Sticky bits are cleared; those that come in the same cycle stay. -/
def Strand.clearSticky (m : Strand) (k : BitVec 7) : Strand := { m with mstat := m.mstat &&& ~~~k }
/-- MSTAT: read, then the sticky bits set in s[a] are cleared (R271). -/
def execMstat (d a : SReg) (c : Bool) (s : State) : Out :=
  s.gate (mtxWord d.toNat a.toNat 0 0x24 0 0 c) false heavyKind
    (let v := mstatOf s s.me
     let k := s.me.getS a
     .next (s.mod (fun m => ((m.orSticky s.cycle 0).clearSticky (k.setWidth 7) |>.setS d v).retire 8 c)))
/-- MWAIT: the strand goes on when QDEPTH is n or less (R272). -/
def execMwait (n : BitVec 4) (c : Bool) (s : State) : Out :=
  s.gate (mtxWord 0 0 0 0x25 0 n.toNat c) false heavyKind (if n.toNat < s.me.mq.length then .next s else .next (s.fin 8 c))

/-- MATRIX_QUEUE_ENTRY. -/
def execMatrixQueueEntry (sa q : Nat) (s : State) : Out :=
  .next ((s.modStrand sa (fun x => x.modMat q (fun y => { y with entered := some s.cycle }))).pokeSeq (saPkg sa) 0)
/-- A group descriptor as it is captured: G at most 16, the rows, and whether G was above 16. -/
def MatWhat.capture (w : MatWhat) (x : Nat) : MatWhat :=
  match w with
  | .mmag d a b f zero keepa desc _ _ _ =>
    let g0 := x % 256
    let g := if g0 < 16 then g0 else 16
    .mmag d a b f zero keepa desc g ((List.range g).map (fun k => x / 2 ^ (64 + 16 * k) % 2 ^ 16)) (decide (16 < g0))
  | w => w
/-- The descriptor of an MMAG returns: it is captured, with the strand's own older stores in it (R162), and the slots it asks for are checked
(R264, R265). -/
def descReturn (sa q : Nat) (s : State) : State :=
  match s.strand? sa with
  | none => s
  | some m => match m.op? q (· == .ringHold), m.mq.find? (fun o => o.q == q) with
    | some h, some o =>
      if m.olderLoad h then s.after 1 (.loadDataReturn sa q)
      else
        let priv := isPrivate (h.kind == 1) ((h.accs.map (·.region)).headD .coherent)
        let l := (h.locs.map (·.1)).headD 0
        let r := (s.fetchLines m.sa priv l 40).bind m q h.kind priv l 40
        let w := o.what.capture r.1
        match (matNeeds w).find? (fun p => decide (m.rings[p.1.toNat].slots < p.2)) with
        | some p => (r.2.modStrand sa (fun x => { x with mq := x.mq.filter (fun y => y.q != q) })).except sa
            { q := q, pc := h.pc, cause := .ringFault, addr := ringFault p.1 5, info := 0, flags := h.flags }
        | none => ((r.2.modStrand sa (fun x => x.modMat q (fun y => { y with what := w }))).complete sa q (· == .ringHold)).pokeSeq (saPkg sa) 0
    | _, _ => s
/-- LOAD_DATA_RETURN: of a load, early or when it has been translated, or of an MMAG's descriptor. -/
def execLoadDataReturn (sa q : Nat) (s : State) : Out := .next (descReturn sa q (earlyReturn sa q (loadReturn sa q s)))

/-! ### The save area (R274) -/

/-- A heavy strand's accumulators, rings and sticky bits are written to its save area. -/
def State.saveMatrix (s : State) (m : Strand) (base : Nat) : State :=
  let s1 := s.clear base 0x200208
  let s2 := m.accs.foldl (fun t p => t.write (base + 4 * p.1) 4 p.2.toNat) s1
  let s3 := m.rings.toList.zipIdx.foldl (fun t p =>
    ((t.write (base + 0x200000 + 32 * p.2) 8 p.1.cfg.toNat).write (base + 0x200008 + 32 * p.2) 4 p.1.head.toNat).write
      (base + 0x20000C + 32 * p.2) 4 p.1.tail.toNat) s2
  s3.write (base + 0x200200) 8 (m.mstat ||| m.mstatNew.2).toNat
/-- The words of the accumulators that a save area lists. -/
def savedCells (mem : List Host.Cell) (base : Nat) : List Nat :=
  ((mem.filter (fun c => decide (base ≤ c.1) && decide (c.1 < base + 0x200000))).map (fun c => (c.1 - base) / 4)).eraseDups
/-- A heavy strand takes its accumulators, rings and sticky bits from its save area. -/
def State.loadMatrix (s : State) (m : Strand) (base : Nat) : Strand :=
  { m with
    accs := (savedCells s.mem base).map (fun k => (k, BitVec.ofNat 32 (s.read (base + 4 * k) 4)))
    rings := Vector.ofFn (fun i => s.savedRing base i.val)
    mstat := BitVec.ofNat 7 (s.read (base + 0x200200) 8) &&& stickyBits
    mstatNew := (0, 0) }

end Sys2Proof.Machine
end

