-- ==== Sys2Proof/Machine/Task.lean ====
section
/-! DEFINITION. Ordered speculative tasks: major 0x1B, the task units, the commit frontier, commits and aborts (R286 to
R313). -/

namespace Sys2Proof.Machine

/-! ### Keys and troupes -/

/-- FLAGS[0]: an ordered-task troupe (R286). -/
def Troupe.ordered (t : Troupe) : Bool := t.field 0x006 1 % 2 == 1
/-- Keys compare by T, then by I (R286). -/
def keyLess (a b : Word × BitVec 32) : Bool := decide (a.1.toNat < b.1.toNat) || (a.1 == b.1 && decide (a.2.toNat < b.2.toNat))
/-- The key of a task. -/
def taskKey (id : Nat) (k : Task) : Word × BitVec 32 := (k.t, BitVec.ofNat 32 id)
/-- The key published while no task is unfinished (R297). -/
def noKey : Word × BitVec 32 := (BitVec.allOnes 64, BitVec.allOnes 32)
/-- The least key of a list. -/
def minKey (l : List (Word × BitVec 32)) : Option (Word × BitVec 32) :=
  l.foldl (fun b k => match b with | none => some k | some x => if keyLess k x then some k else b) none
/-- A task is tracked (R288, R308). -/
def Task.tracked (k : Task) : Bool := k.state != .queued && k.state != .spilled
/-- The tasks of a unit. -/
def Troupe.unitTasks (t : Troupe) (unit : Nat) : List (Nat × Task) := List.filter (fun p => p.2.unit == unit) t.tasks
/-- The least key among a unit's tasks in a state that `p` accepts, with its spawn id. -/
def Troupe.lowest (t : Troupe) (unit : Nat) (p : TaskState → Bool) : Option (Nat × Task) :=
  (t.unitTasks unit).foldl (fun b x =>
    if p x.2.state = false then b
    else match b with
      | none => some x
      | some y => if keyLess (taskKey x.1 x.2) (taskKey y.1 y.2) then some x else b) none
/-- The greatest key among a unit's queued tasks. -/
def Troupe.highest (t : Troupe) (unit : Nat) : Option (Nat × Task) :=
  (t.unitTasks unit).foldl (fun b x =>
    if x.2.state != .queued then b
    else match b with
      | none => some x
      | some y => if keyLess (taskKey y.1 y.2) (taskKey x.1 x.2) then some x else b) none
/-- The number of a unit's tasks in a state. -/
def Troupe.count (t : Troupe) (unit : Nat) (st : TaskState) : Nat := ((t.unitTasks unit).filter (fun p => p.2.state == st)).length
/-- L_o of R292: from a cluster to the origin cluster. -/
def Troupe.toOrigin (t : Troupe) (cl : Nat) : Nat := if cl = t.origin then 16 else routeLatency cl t.origin
/-- L_u of R292: from the origin cluster to a unit. -/
def Troupe.toUnit (t : Troupe) (unit : Nat) : Nat :=
  if t.clusterAt unit = t.origin then 0 else routeLatency t.origin (t.clusterAt unit)

/-! ### The spill area (R292) -/

/-- The size of a unit's share. -/
def Troupe.share (t : Troupe) : Nat := t.field 0x128 8 / t.clusters / 64 * 64
/-- The physical address of a record of a unit's share. -/
def Troupe.record (t : Troupe) (unit slot : Nat) : Nat := t.field 0x120 8 + unit * t.share + 64 * slot
/-- A free record of a unit's share. -/
def Troupe.freeRecord (t : Troupe) (unit : Nat) : Option Nat :=
  (List.range (t.share / 64)).find? (fun i => !(t.unitTasks unit).any (fun p => p.2.slot == some i))
/-- The 64 bytes of a spilled task. -/
def Task.bytes (id : Nat) (k : Task) : List Byte :=
  natBytes 8 k.t.toNat ++ natBytes 4 id ++ natBytes 4 k.parent.toNat ++ natBytes 4 k.entry.toNat ++
  natBytes 4 (k.args.length + k.retries * 4 + k.rerun.toNat * 16) ++
  natBytes 8 (k.args[0]?.getD 0).toNat ++ natBytes 8 (k.args[1]?.getD 0).toNat ++ natBytes 8 (k.args[2]?.getD 0).toNat ++ natBytes 16 0
/-- The latency of the spill area, as seen from a unit's cluster; which level holds it is free (R151). -/
def Troupe.spillTime (t : Troupe) (unit ctr : Nat) : Nat := tierLatency (pcDie (t.clusterAt unit)) (t.field 0x120 8) .coherent ctr
/-- A fatal fault that no strand raised: its report goes to the launching die's stage manager (R221, R292, R307). -/
def State.fatalOf (s : State) (tr cl : Nat) (rec : FaultRec) : State :=
  match s.troupe? tr with
  | none => s
  | some t => (s.modTroupe tr (fun x => { x with reports := x.reports ++ [rec] })).after (diePath (pcDie cl) (saDie t.launcher)) (.fatalReport tr)
/-- The fault record of a task whose arrival finds the share full (R292). -/
def shareFull (cycle : Nat) (k : Task) : FaultRec :=
  let sp := k.spawner.getD (0xFFFFFFFF, 0, 0)
  { cycle := cycle, pc := sp.2.2, addr := k.t, vcid := sp.1, sa := sp.2.1, info := 0, cause := Cause.taskState.code, reason := 6 }
/-- The cycle in which a unit may start its next spill or read-back. -/
def Troupe.unitFree (t : Troupe) (unit cycle : Nat) : Nat :=
  let b := Tab.getD t.unitBusy unit 0
  if b < cycle then cycle else b
/-- A read-back is under way at a unit. -/
def State.refillDue (s : State) (tr unit : Nat) : Bool :=
  s.agenda.any (fun e => match e.2 with | .taskRefill a b => a == tr && b == unit | _ => false)
/-- A read-back starts when the unit's lowest key is spilled, or its queue holds 768 tasks or fewer (R292). -/
def State.pokeUnit (s : State) (tr unit : Nat) : State :=
  match s.troupe? tr with
  | none => s
  | some t => match t.lowest unit (fun x => x == .spilled) with
    | none => s
    | some sp =>
      let low := match t.lowest unit (fun x => x == .queued) with
        | none => true
        | some q => keyLess (taskKey sp.1 sp.2) (taskKey q.1 q.2)
      if (low || decide (t.count unit .queued ≤ 768)) && !s.refillDue tr unit then
        let at_ := t.unitFree unit s.cycle + t.spillTime unit s.freeCtr
        ((s.bump 2).modTroupe tr (fun x => { x with unitBusy := Tab.put x.unitBusy unit at_ })).atCycle at_ (.taskRefill tr unit)
      else s
/-- TASK_SPILL: with more than 1,024 queued, the highest key is written to the unit's share; a full share is a fatal fault that names the task
whose arrival found it so. -/
def State.spillTask (s : State) (tr unit cl : Nat) (arrived : Task) : State :=
  match s.troupe? tr with
  | none => s
  | some t =>
    if t.count unit .queued ≤ 1024 then s
    else match t.highest unit, t.freeRecord unit with
      | some (id, k), some slot =>
        let s1 := s.writeBytes (t.record unit slot) (k.bytes id)
        let s2 := s1.modTask tr id (fun x => { x with state := .spilled, slot := some slot })
        (s2.bump 2).modTroupe tr (fun x => { x with unitBusy := Tab.put x.unitBusy unit (t.unitFree unit s.cycle + t.spillTime unit s.freeCtr) })
      | some _, none => s.fatalOf tr cl (shareFull s.cycle arrived)
      | none, _ => s
/-- A task as it stands when it is queued. -/
def Task.queuedAnew (k : Task) : Task :=
  { k with state := .queued, worker := none, buffer := [], sig := 0, doomed := false, ending := none, committing := false, slot := none }
/-- A task is queued at its unit, which may have to spill, and may dispatch (R291, R292). -/
def State.queueTask (s : State) (tr id : Nat) (k : Task) : State :=
  let cl := match s.troupe? tr with | some t => t.clusterAt k.unit | none => 0
  let s1 := s.modTroupe tr (fun t => { t with tasks := Tab.put t.tasks id k.queuedAnew })
  (((s1.spillTask tr k.unit cl k).pokeUnit tr k.unit).after 0 (.taskDispatch tr k.unit)).stir tr
/-- A task leaves the troupe. -/
def State.dropTask (s : State) (tr id : Nat) : State := s.modTroupe tr (fun t => { t with tasks := Tab.del t.tasks id })
/-- With no task in any state and no pass running, the idle workers resume (R310). -/
def State.pokeWorkers (s : State) (tr : Nat) : State :=
  match s.troupe? tr with
  | none => s
  | some t => if t.tasks.isEmpty && t.spawns.isEmpty && !t.pass && !t.frames.isEmpty then s.after 0 (.workersResume tr) else s

/-! ### Spawns (R287, R292, R310) -/

/-- Changes the first spawn that `p` accepts. -/
def Troupe.modSpawn (t : Troupe) (p : Spawn → Bool) (f : Spawn → Spawn) : Troupe := { t with spawns := modFirst p f t.spawns }
/-- SPAWN_AT_ORIGIN: the spawn takes the next id and goes on to its unit; without an id the child is discarded. -/
def execSpawnAtOrigin (tr : Nat) (s : State) : Out :=
  match s.troupe? tr with
  | none => .next s
  | some t => match t.spawns.find? (fun p => p.id.isNone && decide (p.arrives ≤ s.cycle)) with
    | none => .next s
    | some p =>
      let mine := fun (x : Spawn) => x.sa == p.sa && x.q == p.q
      if 0xFFFFFFFF ≤ t.spawnCtr then .next (s.modTroupe tr (fun x => { x with spawns := x.spawns.filter (fun y => !mine y) }))
      else
        let id := t.spawnCtr
        let s1 := s.modTroupe tr (fun x => { x.modSpawn mine (fun y => { y with id := some id }) with spawnCtr := id + 1 })
        let s2 := s1.modStrand p.sa (fun m => m.modOp p.q anyWhat (fun o => match o.what with
          | .tspawn d _ => { o with what := .tspawn d (some id) }
          | _ => o))
        .next (s2.after (t.toUnit (id % t.clusters)) (.taskAccept tr id))
/-- TASK_ACCEPT: the task arrives at its unit, unless its parent was aborted meanwhile. -/
def execTaskAccept (tr id : Nat) (s : State) : Out :=
  match s.troupe? tr with
  | none => .next s
  | some t => match t.spawns.find? (fun p => p.id == some id) with
    | none => .next s
    | some p =>
      let s1 := s.modTroupe tr (fun x => { x with spawns := x.spawns.filter (fun y => y.id != some id) })
      if p.dead then .next (s1.pokeWorkers tr)
      else .next (s1.queueTask tr id
        { t := p.t, parent := p.parent, entry := p.entry, args := p.args, retries := 0, rerun := false, state := .queued,
          unit := id % t.clusters, worker := none, buffer := [], sig := 0, front := false, doomed := false, ending := none,
          slot := none, usedCores := [], committing := false, spawner := some (p.vcid, p.sa, p.pc) })
/-- TSPAWN_ID_RETURN: the spawn id reaches s[d]; without one the TSPAWN traps (R287, R310). -/
def execTspawnIdReturn (sa q : Nat) (s : State) : Out :=
  match s.strand? sa with
  | none => .next s
  | some m => match m.op? q anyWhat with
    | none => .next s
    | some o => match o.what with
      | .tspawn d (some id) => .next ((s.modStrand sa (fun x => x.landS q d (BitVec.ofNat 64 id))).complete sa q anyWhat)
      | .tspawn _ none => .next (s.except sa { q := q, pc := o.pc, cause := .taskState, addr := 3, info := 0, flags := o.flags })
      | _ => .next s
/-- TASK_REFILL: the lowest spilled key is read back into the queue. -/
def execTaskRefill (tr unit : Nat) (s : State) : Out :=
  match s.troupe? tr with
  | none => .next s
  | some t => match t.lowest unit (fun x => x == .spilled) with
    | none => .next s
    | some (id, k) =>
      let s1 := s.modTask tr id (fun x => { x with state := .queued, slot := none })
      .next (((s1.spillTask tr unit (t.clusterAt unit) k).pokeUnit tr unit).after 0 (.taskDispatch tr unit))

/-! ### Dispatch (R291) -/

/-- The strand is an idle worker that may take a task. -/
def Strand.idleWorker (m : Strand) (cycle : Nat) : Bool :=
  m.run == .idle && decide (m.readyAt ≤ cycle) && m.swap.isNone && m.dbg.stopReq.isNone && !m.dbg.stopped
/-- The idle workers of a cluster, by vcid. -/
def State.idleWorkers (s : State) (tr cl : Nat) : List Strand :=
  sortBy (fun a b => decide (a.vcid ≤ b.vcid))
    (s.strands.filter (fun m => m.troupe == tr && m.kind != .sm && saPkg m.sa == cl && m.idleWorker s.cycle))
/-- The worker that takes a task: after an error one of another core, where there is one, preferring a core it has not
used (R307). -/
def pickWorker (k : Task) (ws all : List Strand) : Option Strand :=
  match k.retries, k.usedCores with
  | 0, _ => ws.head?
  | _, [] => ws.head?
  | _, last :: _ =>
    match ws.find? (fun m => !k.usedCores.contains (m.sa / 32)) with
    | some m => some m
    | none => match ws.find? (fun m => m.sa / 32 != last) with
      | some m => some m
      | none => if all.any (fun m => m.sa / 32 != last) then none else ws.head?
/-- The state of R291. -/
def Strand.dispatched (m : Strand) (cycle id : Nat) (k : Task) (f : Frame) : Strand :=
  let arg := fun (i : Nat) => k.args[i]?.getD 0
  { m with
    run := .active
    pc := k.entry.setWidth 64
    regs := Vector.ofFn (fun i => match i.val with
      | 1 => arg 0 | 2 => arg 1 | 3 => arg 2 | 4 => k.t | 5 => BitVec.ofNat 64 id
      | 29 => f.s29 | 30 => f.s30 | 31 => f.s31 | _ => 0)
    vregs := Vector.replicate 16 0
    kregs := Vector.replicate 8 0
    fctl := f.fctl
    h := false
    flags := { fflags := 0, vstat := 0,
               srseed := if k.t.setWidth 32 ^^^ BitVec.ofNat 32 id = 0 then 1 else k.t.setWidth 32 ^^^ BitVec.ofNat 32 id }
    task := some id
    undo := []
    fixed := []
    cue := false
    block := none
    xwait := none
    readyAt := cycle + 24
    readyCls := .mem }
/-- No task of a lower key is left: every one has committed (R300). -/
def Troupe.allBelowDone (t : Troupe) (key : Word × BitVec 32) : Bool := !List.any t.tasks (fun p => keyLess (taskKey p.1 p.2) key)
/-- TASK_DISPATCH: the unit's lowest queued or spilled key goes to an idle worker of its cluster. -/
def execTaskDispatch (tr unit : Nat) (s : State) : Out :=
  match s.troupe? tr with
  | none => .next s
  | some t => match t.lowest unit (fun x => x == .queued || x == .spilled) with
    | none => .next s
    | some (id, k) =>
      if k.state == .spilled || decide (256 ≤ ((t.unitTasks unit).filter (fun p => p.2.tracked)).length) then .next (s.pokeUnit tr unit)
      else
        let all := s.strands.filter (fun m => m.troupe == tr && m.kind != .sm && saPkg m.sa == t.clusterAt unit &&
          (Tab.get? t.frames m.vcid).isSome)
        match pickWorker k (s.idleWorkers tr (t.clusterAt unit)) all with
        | none => .next s
        | some m => match Tab.get? t.frames m.vcid with
          | none => .next s
          | some f =>
            let free := t.front == taskKey id k && (k.front || !t.pass) && t.allBelowDone t.front
            let s1 := s.modTask tr id (fun x => { x with
              state := if free then .nonspec else .running, worker := some m.vcid, sig := 0, front := free
              usedCores := m.sa / 32 :: x.usedCores })
            .next (((s1.modStrand m.sa (fun x => x.dispatched s.cycle id k f)).pokeUnit tr unit).after 0 (.taskDispatch tr unit))
/-- WORKERS_RESUME: every idle worker goes on at WPC with its frame; every other register is 0 (R310): s, v and k
registers; FFLAGS, VSTAT and SRSEED stay as the last task left them (DESIGN CHOICE, entry 58 of the log). -/
def execWorkersResume (tr : Nat) (s : State) : Out :=
  match s.troupe? tr with
  | none => .next s
  | some t =>
    if t.tasks.isEmpty && t.spawns.isEmpty && !t.pass then
      let ws := s.strands.filter (fun m => m.troupe == tr && m.kind != .sm && m.run == .idle)
      .next (ws.foldl (fun u m => match Tab.get? t.frames m.vcid with
        | none => u
        | some f => (u.modStrand m.sa (fun x => { x with
            run := .active, pc := f.wpc, block := none, task := none
            regs := Vector.ofFn (fun i => match i.val with | 29 => f.s29 | 30 => f.s30 | 31 => f.s31 | _ => 0)
            vregs := Vector.replicate 16 0
            kregs := Vector.replicate 8 0
            fctl := f.fctl })).modTroupe tr (fun y => { y with frames := Tab.del y.frames m.vcid })) s)
    else .next s

/-! ### Aborts (R302, R303) -/

/-- The lowest timestamp that aborts of a pass requeue (R312). -/
def Troupe.noteRequeue (t : Troupe) (k : Task) : Troupe :=
  { t with requeued := match t.requeued with
    | none => some k.t
    | some x => if k.t.toNat < x.toNat then some k.t else some x }
/-- A requeue through an abort (R303 step 4, R312). -/
def State.requeue (s : State) (tr id : Nat) (k : Task) : State := (s.modTroupe tr (fun t => t.noteRequeue k)).queueTask tr id k
/-- A task that no strand runs any more is requeued, or deleted. -/
def State.endTask (s : State) (tr id : Nat) (k : Task) (remove : Bool) : State :=
  if remove then ((s.dropTask tr id).pokeUnit tr k.unit).pokeWorkers tr else s.requeue tr id k
/-- The tasks that a task spawned; those on their way are marked as dead. -/
def Troupe.children (t : Troupe) (id : Nat) : List (Nat × Task) :=
  List.filter (fun p => p.2.parent.toNat == id && p.1 != id && p.2.parent != BitVec.allOnes 32) t.tasks
/-- The spawns under way of a task are dead. -/
def Troupe.killSpawns (t : Troupe) (id : Nat) : Troupe :=
  { t with spawns := t.spawns.map (fun p => if p.parent.toNat = id then { p with dead := true } else p) }
/-- A strand runs the task now; an abort reaches a switched-out worker's task at the unit (R304). -/
def State.onStrand (s : State) (tr : Nat) (k : Task) : Bool :=
  (k.state == .running || k.state == .nonspec) && (match k.worker with | some v => (s.residentOf tr v).isSome | none => false)
/-- An abort, or with `remove` a removal, of a task and the removal of every task below it (R303). Its buffer and signature are gone at once. A task
that a strand runs stops by a notice, which travels from cluster `cl`; any other is requeued or deleted at once. -/
def abortDown (tr cl : Nat) : Nat → Nat → Bool → State → State
  | 0, _, _, s => s
  | fuel + 1, id, remove, s =>
    match s.troupe? tr with
    | none => s
    | some t => match Tab.get? t.tasks id with
      | none => s
      | some k =>
        if k.state == .irrev || ((k.state == .queued || k.state == .spilled) && !remove) then s
        else
          let s1 := (t.children id).foldl (fun u p => abortDown tr cl fuel p.1 true u) (s.modTroupe tr (fun x => x.killSpawns id))
          let home := t.clusterAt k.unit
          if s.onStrand tr k then
            (({ s1 with agenda := s1.agenda.filter (fun e => e.2 != Instr.irrevocableCommit tr id) }.modTask tr id (fun x =>
              { x with doomed := true, buffer := [], sig := 0, committing := false })).modTroupe tr (fun x =>
              if remove then x else x.noteRequeue k)).after (if cl = home then 16 else routeLatency cl home) (.abortNotice tr id remove)
          else s1.endTask tr id k remove
/-- An abort, or with `remove` a removal, is issued against a task from cluster `cl`. -/
def State.issueAbort (s : State) (tr id : Nat) (remove : Bool) (cl : Nat) : State :=
  abortDown tr cl (match s.troupe? tr with | some t => t.tasks.length + 1 | none => 0) id remove s
/-- The tasks that a task spawned are removed, those on their way among them (R303 step 3). -/
def State.removeChildren (s : State) (tr id : Nat) : State :=
  match s.troupe? tr with
  | none => s
  | some t =>
    let cl := match Tab.get? t.tasks id with | some k => t.clusterAt k.unit | none => t.origin
    (t.children id).foldl (fun u p => u.issueAbort tr p.1 true cl) (s.modTroupe tr (fun x => x.killSpawns id))
/-- ABORT_NOTICE: a running task's strand stops at its next turn; one that no strand runs any more ends (R303, R304). -/
def execAbortNotice (tr id : Nat) (remove : Bool) (s : State) : Out :=
  match s.troupe? tr with
  | none => .next s
  | some t => match Tab.get? t.tasks id with
    | none => .next s
    | some k =>
      if k.state == .irrev || (k.state == .nonspec && !k.doomed) then .next s
      else if (k.state == .queued || k.state == .spilled) && !remove then .next s
      else
        let s1 := s.removeChildren tr id
        if s.onStrand tr k then .next (s1.modTask tr id (fun x => { x with buffer := [], sig := 0, ending := some (remove || x.ending == some true) }))
        else .next (s1.endTask tr id k (remove || k.ending == some true))
/-- The strand of an aborted task stops at its turn: its operations and stores are discarded, its shipped instructions
squashed, and 24 cycles later it is idle (R303 step 2). -/
def State.stopAborted (s : State) (sa : Nat) : State :=
  match s.strand? sa with
  | none => s
  | some m => match s.taskOf m with
    | none => s
    | some (id, k) =>
      let s1 := ((s.squash m 0).dropSc sa).removeChildren m.troupe id
      let s2 := s1.modStrand sa (fun x => { x with
        run := .idle, task := none, h := false, ops := [], undo := [], held := [], fixed := [], cue := false, block := none
        xwait := none, forfeit := 0, readyAt := s.cycle + 24 })
      let s3 := (s2.modTask m.troupe id (fun x => { x with worker := none })).after 24
        (.abortNotice m.troupe id (k.ending == some true))
      s3.after 24 (.taskDispatch m.troupe k.unit)
/-- The tracked tasks above a key whose signature a granule hits are aborted (R301, R302). -/
def State.abortHits (s : State) (tr : Nat) (key : Word × BitVec 32) (granules : List Nat) (cl : Nat) : State :=
  match s.troupe? tr with
  | none => s
  | some t =>
    (t.tasks.filter (fun p => (p.2.state == .running || p.2.state == .stopped || p.2.state == .finished) && !p.2.doomed &&
      keyLess key (taskKey p.1 p.2) && granules.any (fun g => sigHit p.2.sig g))).foldl (fun u p => u.issueAbort tr p.1 false cl) s

/-! ### Commits (R296, R299 to R301) -/

/-- The masked bytes of a granule are written back under R151: private ones into the L1D of the core that wrote them (R293, R301). -/
def State.writeGranule (s : State) (cl : Nat) (g : Granule) : State :=
  let bytes := (List.range 64).filter (fun i => g.mask.getLsbD i)
  let s1 := bytes.foldl (fun t i => t.store (g.owner.getD 0) g.owner.isSome (g.loc + i) 1 (g.data.extractLsb' (8 * i) 8).toNat) s
  s1.watchGranule g.loc g.mask (pcDie cl) (pcDie cl + pcIndex cl * 8)
/-- A task's buffer is committed: its granules are written and later tasks that read them are aborted. -/
def State.commitBuffer (s : State) (tr id : Nat) (k : Task) (cl : Nat) : State :=
  (k.buffer.foldl (fun t g => t.writeGranule cl g) s).abortHits tr (taskKey id k) (k.buffer.map (·.loc)) cl
/-- The next task of a commit pass, or the end of the pass (R299). -/
def State.commitNext (s : State) (tr : Nat) : State :=
  match s.troupe? tr with
  | none => s
  | some t =>
    let fin := t.tasks.filter (fun p => !p.2.unfinished)
    let low := minKey ((t.tasks.filter (fun p => p.2.unfinished)).map (fun p => taskKey p.1 p.2))
    match minKey (fin.map (fun p => taskKey p.1 p.2)) with
    | none => (s.modTroupe tr (fun x => { x with committing := none })).after 0 (.commitPassEnd tr)
    | some key =>
      let ok := keyLess key t.front && (match low with | some l => keyLess key l | none => true)
      if ok then
        let n := match Tab.get? t.tasks key.2.toNat with | some k => k.buffer.length | none => 0
        (s.modTroupe tr (fun x => { x with committing := some key.2.toNat })).after (t.span + n) (.taskCommit tr)
      else (s.modTroupe tr (fun x => { x with committing := none })).after 0 (.commitPassEnd tr)
/-- TASK_COMMIT. -/
def execTaskCommit (tr : Nat) (s : State) : Out :=
  match s.troupe? tr with
  | none => .next s
  | some t => match t.committing with
    | none => .next s
    | some id => match Tab.get? t.tasks id with
      | none => .next (s.commitNext tr)
      | some k =>
        if k.unfinished then .next (s.commitNext tr)
        else .next ((((s.commitBuffer tr id k (t.clusterAt k.unit)).dropTask tr id).after 0 (.taskDispatch tr k.unit)).commitNext tr)
/-- A publication: the key is read by CFRONT, and a commit pass starts (R297, R299). -/
def State.publish (s : State) (tr : Nat) (key : Word × BitVec 32) : State :=
  (s.modTroupe tr (fun t => { t with front := key, pass := true, requeued := none, sampled := none, publishDue := false })).commitNext tr
/-- FRONTIER_SAMPLE: the lowest unfinished key of the troupe, published 32 + 8·h cycles later (R297). -/
def execFrontierSample (tr : Nat) (s : State) : Out :=
  match s.troupe? tr with
  | none => .next s
  | some t =>
    let key := (minKey ((t.tasks.filter (fun p => p.2.unfinished)).map (fun p => taskKey p.1 p.2))).getD noKey
    let s1 := (s.modTroupe tr (fun x => { x with sampled := some key })).after (32 + 8 * t.reach) (.frontierPublish tr)
    .next (if t.tasks.isEmpty && t.front == noKey then s1 else s1.after 128 (.frontierSample tr))
/-- FRONTIER_PUBLISH: a pass that still runs delays the publication until it ends. -/
def execFrontierPublish (tr : Nat) (s : State) : Out :=
  match s.troupe? tr with
  | none => .next s
  | some t => match t.sampled with
    | none => .next s
    | some key => if t.pass then .next (s.modTroupe tr (fun x => { x with publishDue := true })) else .next (s.publish tr key)
/-- The task becomes non-speculative: a running one by notice, a stopped one is queued for its re-run, a waiting one when
it is dispatched (R300, R306). -/
def State.makeFront (s : State) (tr id : Nat) (k : Task) : State :=
  let s1 := s.modTask tr id (fun x => { x with front := true })
  if k.doomed || k.ending.isSome then s1
  else match k.state with
    | .running => s1.after 16 (.nonspecNotice tr id)
    | .stopped => (s1.removeChildren tr id).queueTask tr id { k with front := true, rerun := true }
    | _ => s1
/-- COMMIT_PASS_END. The task of the published key stays speculative where the pass requeued a lower key, so that R300's premise, that every lower key has
committed, fails (DESIGN CHOICE, entry 58 of the log). -/
def execCommitPassEnd (tr : Nat) (s : State) : Out :=
  match s.troupe? tr with
  | none => .next s
  | some t =>
    if t.pass = false ∨ t.committing.isSome = true then .next s
    else
      let s1 := s.modTroupe tr (fun x => { x with pass := false })
      let s2 := match Tab.get? t.tasks t.front.2.toNat with
        | some k => if taskKey t.front.2.toNat k == t.front && t.allBelowDone t.front then s1.makeFront tr t.front.2.toNat k else s1
        | none => s1
      match t.publishDue, t.sampled with
      | true, some key => .next (s2.publish tr key)
      | _, _ => .next (s2.pokeWorkers tr)
/-- NONSPEC_NOTICE. -/
def execNonspecNotice (tr id : Nat) (s : State) : Out :=
  match s.troupe? tr with
  | none => .next s
  | some t => match Tab.get? t.tasks id with
    | none => .next s
    | some k =>
      if k.doomed || k.ending.isSome then .next s
      else match k.state with
        | .running => .next (s.modTask tr id (fun x => { x with state := .nonspec }))
        | .stopped => .next (s.makeFront tr id k)
        | _ => .next s
/-- What a report that no strand raised puts into a fault record: the spec gives only its REASON. -/
def State.requestRec (s : State) (t : Troupe) : FaultRec :=
  let f := fun (n : Nat) => Config.freeWord (s.freeCtr + n)
  { cycle := s.cycle, pc := f 0, addr := f 1, vcid := (f 2).toNat, sa := (f 3).toNat, info := (f 4).setWidth 24,
    cause := (f 5).setWidth 8, reason := if t.quietRecs.isEmpty then 6 else 5 }
/-- An error in a task: an irrevocable one's worker takes MACHINE_CHECK, with TRAPADDR 0 since nothing with a physical address was struck (R199);
another is aborted and runs again, three times at most (R307). -/
def State.taskError (s : State) (tr id : Nat) (lost : Bool) : State :=
  match s.troupe? tr with
  | none => s
  | some t => match Tab.get? t.tasks id with
    | none => s
    | some k =>
      let cl := t.clusterAt k.unit
      match k.state with
      | .queued => s
      | .spilled => s
      | .irrev => match k.worker.bind (s.residentOf tr) with
        | none => s
        | some m => (s.modStrand m.sa (fun x => { x with lost := x.lost || lost })).machineCheck m.sa 0
      | _ =>
        if 3 ≤ k.retries then s.fatalOf tr cl { s.requestRec t with reason := 4 }
        else (s.modTask tr id (fun x => { x with retries := x.retries + 1 })).issueAbort tr id false cl
/-- IRREVOCABLE_COMMIT: the buffer is committed as one step, and the task is irrevocable from now on (R296). -/
def execIrrevocableCommit (tr id : Nat) (s : State) : Out :=
  match s.troupe? tr with
  | none => .next s
  | some t => match Tab.get? t.tasks id with
    | none => .next s
    | some k =>
      if k.state != .nonspec || !k.committing then .next s
      else .next ((s.commitBuffer tr id k (t.clusterAt k.unit)).modTask tr id (fun x => { x with
        state := .irrev, buffer := [], sig := 0, committing := false }))
/-- IRREVOCABLE_STORE_CHECK: the aborts of one store of an irrevocable task are issued, although the task may have ended since (R296). -/
def execIrrevocableStoreCheck (tr id : Nat) (key : Word) (unit granule : Nat) (s : State) : Out :=
  match s.troupe? tr with
  | none => .next s
  | some t => .next (s.abortHits tr (key, BitVec.ofNat 32 id) [granule] (t.clusterAt unit))

/-! ### Major 0x1B (R309 to R313) -/

/-- The words of a TASK form. -/
def taskWord (d a b minor aux imm : Nat) (c : Bool) : Word :=
  words (0x6C000000 + d * 2 ^ 21 + a * 2 ^ 16 + b * 2 ^ 11 + minor * 16 + aux * 2 + c.toNat) imm
/-- The troupe of a strand, if it is an ordered-task troupe. -/
def State.orderedOf (s : State) (m : Strand) : Option Troupe :=
  match s.troupe? m.troupe with | some t => if t.ordered then some t else none | none => none
/-- TSPAWN (R310). -/
def execTspawn (d a b : SReg) (n : BitVec 3) (entry : BitVec 32) (c : Bool) (s : State) : Out :=
  let m := s.me
  s.gate (taskWord d.toNat a.toNat b.toNat 0 n.toNat entry.toNat c) false vcoreKind
    (match s.orderedOf m with
     | none => s.trap .taskState 1
     | some t => match s.taskOf m with
       | none => s.trap .taskState 2
       | some (id, k) =>
         let ts := m.getS a
         if ts.toNat < k.t.toNat then s.trap .taskTimestamp ts
         else
           let lo := t.toOrigin (saPkg m.sa)
           let sp : Spawn := { sa := m.sa, q := m.nextQ, vcid := m.vcid, pc := m.pc, t := ts, parent := BitVec.ofNat 32 id,
                               entry := entry, args := (List.range n.toNat).map (fun i => m.getS (b + BitVec.ofNat 5 i)),
                               arrives := s.cycle + lo, id := none, dead := false }
           let o : Op := { q := m.nextQ, pc := m.pc, what := .tspawn d none, dsts := [.s d], accs := [], ord := 0, kind := 0,
                           stage := .away, trappable := true, flags := m.flags, issued := s.cycle }
           let s1 := (s.modTroupe m.troupe (fun x => { x with spawns := x.spawns ++ [sp] })).mod
             (fun x => { x with ops := x.ops ++ [o] }.retire 8 c)
           .next ((s1.after lo (.spawnAtOrigin m.troupe)).after (2 * lo) (.tspawnIdReturn m.sa m.nextQ)))
/-- The strand becomes idle in the next cycle, ready for a dispatch (R310). -/
def Strand.idleNext (m : Strand) (cycle : Nat) : Strand :=
  { m.retire 8 false with run := .idle, task := none, h := false, block := none, readyAt := cycle + 1 }
/-- Nothing of the strand is outstanding. -/
def Strand.quietNow (m : Strand) (cycle : Nat) : Bool := m.ops.isEmpty && m.held.isEmpty && (m.pendingFixed cycle).isEmpty
/-- TDONE: ends the task, or makes the strand an idle worker; outside a task it waits as inside one until nothing is outstanding (R290, R310, entry
72 of the log). -/
def execTdone (c : Bool) (s : State) : Out :=
  let m := s.me
  let tr := m.troupe
  s.gate (taskWord 0 0 0 1 0 0 c) false vcoreKind
    (match s.orderedOf m with
     | none => s.trap .taskState 1
     | some t =>
       if m.h then s.trap .taskState 5
       else
         let unit := (List.range t.clusters).find? (fun u => t.clusterAt u == saPkg m.sa)
         let wake := fun (u : State) => match unit with | some x => u.after 1 (.taskDispatch tr x) | none => u
         match s.taskOf m with
         | none => if m.quietNow s.cycle = false then .next s else
           let f : Frame := { s29 := m.getS 29, s30 := m.getS 30, s31 := m.getS 31, fctl := m.fctl, wpc := m.pc + 8 }
           let s1 := (s.modTroupe tr (fun x => { x with frames := Tab.put x.frames m.vcid f })).mod (fun x => x.idleNext s.cycle)
           .next (wake (s1.pokeWorkers tr))
         | some (id, k) =>
           if m.quietNow s.cycle && !t.spawns.any (fun p => p.parent.toNat == id && !p.dead) then
             let s1 := s.mod (fun x => x.idleNext s.cycle)
             let s2 := if k.state == .irrev then s1.dropTask tr id
               else s1.modTask tr id (fun x => { x with state := .finished, worker := none })
             .next (wake (s2.pokeWorkers tr))
           else .next s)
/-- done(t) of R312; outside an ordered-task troupe it always holds. -/
def State.tasksDone (s : State) (m : Strand) (ts : Word) : Bool :=
  match s.orderedOf m with
  | none => true
  | some t =>
    (decide (ts.toNat < t.front.1.toNat) || t.front == noKey) && !t.pass &&
      (match t.requeued with | none => true | some x => decide (ts.toNat < x.toNat))
/-- TTS.poll. -/
def execTtsPoll (d a : SReg) (c : Bool) (s : State) : Out :=
  s.gate (taskWord d.toNat a.toNat 0 2 0 0 c) false vcoreKind
    (.next (s.finS d (ofBool (s.tasksDone s.me (s.me.getS a))) 8 c))
/-- TTS.wait: inside a task for its own timestamp or a later one it raises TASK_STATE. -/
def execTtsWait (a : SReg) (c : Bool) (s : State) : Out :=
  let ts := s.me.getS a
  s.gate (taskWord 0 a.toNat 0 2 1 0 c) false vcoreKind
    (match s.taskOf s.me with
     | some (_, k) =>
       if k.t.toNat ≤ ts.toNat then s.trap .taskState 4
       else if s.tasksDone s.me ts then .next (s.fin 8 c) else .next s
     | none => if s.tasksDone s.me ts then .next (s.fin 8 c) else .next s)
/-- TKEY (R311); outside an ordered-task troupe it raises TASK_STATE (R289). -/
def execTkey (d : SReg) (which : BitVec 3) (c : Bool) (s : State) : Out :=
  s.gate (taskWord d.toNat 0 0 3 0 which.toNat c) false vcoreKind
    (match s.orderedOf s.me with
     | none => s.trap .taskState 1
     | some _ =>
       let v : Word := match s.taskOf s.me with
         | none => BitVec.allOnes 64
         | some (id, k) => match which.toNat with
           | 0 => k.t
           | 1 => BitVec.ofNat 64 id
           | 5 => zx k.parent
           | 6 => BitVec.ofNat 64 k.retries
           | n => k.args[n - 2]?.getD 0
       .next (s.finS d v 8 c))
/-- TIRREV: a non-speculative task begins to commit its buffer, unless a store has begun that commit; the next instruction waits for its end (R313). -/
def execTirrev (c : Bool) (s : State) : Out :=
  s.gate (taskWord 0 0 0 4 0 0 c) false vcoreKind
    (match s.orderedOf s.me with
     | none => s.trap .taskState 1
     | some _ => match s.taskOf s.me with
       | none => .next (s.fin 8 c)
       | some (id, k) => match k.state with
         | .irrev => .next (s.fin 8 c)
         | .nonspec =>
           let s1 := s.beginIrrevocable s.me.troupe id
           .next ((s1.mod (fun m => { m with readyAt := s1.commitEnd s.me.troupe id, readyCls := .mem })).fin 8 c)
         | _ => .next s)

end Sys2Proof.Machine
end

