-- ==== Sys2Proof/Machine/Traps.lean ====
section
/-! DEFINITION. Major 0x39 and the delivery of traps (R199 to R209). -/

namespace Sys2Proof.Machine

/-- TRAP raises SYSCALL with its code (R208). -/
def execTrap (n : BitVec 12) (_c : Bool) (s : State) : Out := s.trap .syscall (zx n)
/-- BRK raises BREAKPOINT with its code; a claimed strand stops instead, with PC at the BRK (R208, R374). -/
def execBrk (n : BitVec 12) (_c : Bool) (s : State) : Out :=
  if s.me.dbg.claimed then .next (s.mod (fun m => { m with dbg := { m.dbg with stopReq := some 4, brk := n } }))
  else s.trap .breakpoint (zx n)
/-- TRET (R209). -/
def execTret (c : Bool) (s : State) : Out :=
  let w := words (0xE4004000 + c.toNat) 0
  s.gate w true anyKind (if s.me.h = false then s.trap .illegal w else .next (s.mod (fun m => m.tret s.cycle c)))

/-- TRAP_DELIVERY: the oldest held exception, once every older trappable operation is confirmed (R71, R201, R305). -/
def execTrapDelivery (sa : Nat) (s : State) : Out := .next (s.deliver sa)

/-- The asynchronous cause that a strand takes next: a MACHINE_CHECK, else outside a handler a WATCHPOINT, or on strand 0
of a stage manager the first quiescence report whose troupe still lives (R203, R206). -/
def State.asyncNext (s : State) (m : Strand) : Option (Cause × Word) :=
  match m.async.find? (fun a => a.1 == .machineCheck) with
  | some a => some a
  | none =>
    if m.h then none
    else match m.async.find? (fun a => a.1 != .troupeQuiescent || (s.troupe? a.2.toNat).isSome) with
      | some a => some a
      | none =>
        if m.kind == .sm && saSlot m.sa == 0 then
          ((s.die (saDie m.sa)).quiescent.find? (fun t => (s.troupe? t).isSome)).map (fun t => (.troupeQuiescent, BitVec.ofNat 64 t))
        else none
/-- A strand takes an asynchronous trap; while something that it has issued can still trap, it keeps what the trap replaced. -/
def Strand.asyncTaken (m x : Strand) (cause : Cause) (addr : Word) : Strand :=
  { x with
    drain := true
    dbg := x.dbg.reopen x.nextQ
    entry := if m.window && x.run != .dead then
        some { q := m.nextQ, cause := cause, addr := addr, trapPc := m.trapPc, trapCause := m.trapCause, trapAddr := m.trapAddr, trapInfo := m.trapInfo }
      else none }
/-- A MACHINE_CHECK has lost the context of a task that is not irrevocable: the task runs again instead (R205, R307). -/
def State.retried (s : State) (m : Strand) (cause : Cause) : Option Nat :=
  if cause == .machineCheck && m.lost then
    (match s.taskOf m with | some (id, k) => if k.state == .irrev then none else some id | none => none)
  else none
/-- ASYNC_TRAP_DELIVERY: at a boundary where no precise exception is held; TRAPPC is the oldest instruction that has
not issued, of a parked strand its PARK, which runs anew after the TRET (entry 55 of the log). The handler's first instruction waits until every
issued one has completed. A step that is open goes on with the handler's first instruction (R203, R373). -/
def execAsyncTrapDelivery (sa : Nat) (s : State) : Out :=
  match s.strand? sa with
  | none => .next s
  | some m =>
    if m.held.isEmpty then
      match s.asyncNext m with
      | none => .next s
      | some (cause, addr) =>
        let s1 :=
          if cause = .troupeQuiescent then
            s.modDie (saDie sa) (fun d => { d with quiescent :=
              (d.quiescent.dropWhile (fun t => (s.troupe? t).isNone)).drop 1 })
          else s.modStrand sa (fun x => { x with async := dropFirst (fun a => a == (cause, addr)) x.async })
        match s.retried m cause with
        | some id => .next ((s1.modStrand sa (fun x => { x with lost := false })).taskError m.troupe id true)
        | none => .next ((s1.vector sa m.pc cause addr 0 (cause == .machineCheck && m.lost)).modStrand sa (fun x => m.asyncTaken x cause addr))
    else .next s

end Sys2Proof.Machine
end

