-- ==== Sys2Proof/Machine/System.lean ====
section
/-! DEFINITION. Major 0x38: segments, TLBINV, parking and waking, saved contexts, SLOTSWAP, held ranges, SLOTCTL and
HALT (R210 to R220). -/

namespace Sys2Proof.Machine

/-- The word of a SYS form. -/
def sysWord (d a b minor aux : Nat) (c : Bool) : Word := formA 0x38 d a b minor aux c

/-! ### Slots and vcores -/

/-- The kind of strand that an SADDR names, where a slot lies (R11, R16, R211). -/
def slotKind (sa : Nat) : Option Kind :=
  if 2 ^ 18 ≤ sa then none
  else if saCluster sa = 15 then (if saCore sa = 63 then some .sm else none)
  else if 12 ≤ saCluster sa then none
  else if saCore sa < 48 then (if saSlot sa < 16 then some .lean else none)
  else if saCore sa = 48 ∧ saSlot sa < 4 then some .heavy
  else none
/-- The rotation width of a lean core: that of its slots, 4 before anything was placed on it. -/
def State.coreWidth (s : State) (sa : Nat) : Nat :=
  match s.strands.find? (fun m => m.kind == .lean && m.sa / 32 == sa / 32) with | some m => m.width | none => 4
/-- The turns that fell in a slot before a cycle; on a heavy core the cycles that were offered to it, all but `other` (R72, R226). -/
def slotTurns (m : Strand) (cycle other : Nat) : Nat :=
  match m.kind with
  | .lean => if saSlot m.sa < m.width then (cycle + m.width - 1 - saSlot m.sa) / m.width else 0
  | .sm => (cycle + 31 - saSlot m.sa) / 32
  | .heavy => cycle - other
/-- A slot that never held a vcore: all its turns counted VACANT (R72). -/
def State.unlisted (s : State) (m : Strand) : Strand :=
  { m with census := { m.census with vacant := slotTurns m s.cycle (Tab.getD (s.cluster (saPkg m.sa)).unoffered (saSlot m.sa) 0) } }
/-- The slot at an SADDR, listed or still as it was at reset. -/
def State.slotAt (s : State) (sa : Nat) : Option Strand :=
  match s.strand? sa, slotKind sa with
  | some m, _ => some m
  | none, none => none
  | none, some .lean => some (s.unlisted (Strand.fresh sa .lean (s.coreWidth sa)))
  | none, some .heavy => some (s.unlisted (Strand.fresh sa .heavy 0))
  | none, some .sm => some (s.unlisted (Strand.fresh sa .sm 32))
/-- The slot holds a context or is about to. -/
def Strand.occupied (m : Strand) : Bool := m.run != .vacant || m.swap.isSome
/-- A lean or heavy slot that its core has. -/
def Strand.real (m : Strand) : Bool := match m.kind with | .lean => decide (saSlot m.sa < m.width) | .heavy => true | .sm => false
/-- The slot without its occupant; enable, counters and the debugger's claim stay with it. -/
def Strand.emptied (m : Strand) : Strand :=
  { Strand.fresh m.sa m.kind m.width with enabled := m.enabled, census := m.census, dbg := { (Strand.fresh m.sa m.kind m.width).dbg with claimed := m.dbg.claimed } }

/-- The slot that a vcore has left by HALT: its registers, accumulators and rings stand as they are until another vcore takes the slot (R220,
R354, R367). -/
def Strand.left (m : Strand) : Strand :=
  { m.emptied with regs := m.regs, vregs := m.vregs, kregs := m.kregs, flags := m.flags, fctl := m.fctl, accs := m.accs, rings := m.rings,
                   mstat := m.mstat, mstatNew := m.mstatNew }

/-- The SADDR of the heavy slot that a CPYRING names (R282). -/
def CpyCmd.target (k : CpyCmd) : Nat := mkSa (saDie k.sa) (saCluster k.sa) 48 (k.dst.toNat / 16 % 4)
/-- The vcore of a heavy slot leaves it: the reservations of its rings lapse, and their commands judge their target again (R282, entry 74 of the
log). -/
def State.lapse (s : State) (sa : Nat) : State :=
  s.modDie (saDie sa) (fun d => { d with engines := d.engines.map (fun e => (e.1, { e.2 with
    running := e.2.running.map (fun r => if r.cmd.target == sa then { r with slot := none } else r) })) })

/-- A turn of the strand at or after a cycle (R65, R338); a heavy strand is offered every cycle. -/
def Strand.nextTurn (m : Strand) (c : Nat) : Nat :=
  let w := match m.kind with | .lean => m.width | .heavy => 1 | .sm => 32
  if w = 0 then c else c + (saSlot m.sa % w + w - c % w) % w

/-- The key of the current task of a vcore, with its spawn id: TKEY and TKEYID of its context. -/
def State.taskOfVcore (s : State) (m : Strand) : Word × Nat :=
  match s.taskOf m with | some (id, k) => (k.t, id) | none => (BitVec.allOnes 64, 0xFFFFFFFF)
/-- BARARR of a vcore (R215). -/
def Troupe.bararr (t : Troupe) (vcid : Nat) : Nat :=
  (List.range 8).foldl (fun x n => match Tab.get? t.bars n with
    | some b => if b.arrived.contains vcid then x + 2 ^ n else x
    | none => x) 0
/-- The record of a strand's context as it stands now. -/
def State.recordOf (s : State) (m : Strand) : List Byte :=
  let k := s.taskOfVcore m
  m.context k.1 k.2 (match s.troupe? m.troupe with | some t => t.bararr m.vcid | none => 0)
/-- The record of a vcore wherever it is. -/
def State.vcoreRecord (s : State) (tr vcid : Nat) : List Byte :=
  match s.residentOf tr vcid with
  | some m => s.recordOf m
  | none => match s.cacheOf (cidOf tr vcid) with
    | some c => ((s.cluster c).cached (cidOf tr vcid)).getD []
    | none => match s.troupe? tr with
      | some t => memBytes s.mem (t.slot vcid) ctxSize
      | none => []
/-- A switched-out context of a live troupe. -/
def State.knownCid (s : State) (cid : Nat) : Bool :=
  match s.troupe? (cid / 2 ^ 32) with
  | none => false
  | some t => t.out.contains (cid % 2 ^ 32) && t.live (cid % 2 ^ 32)
/-- A context is resident in a slot, or on its way into one. -/
def State.residentCid (s : State) (cid : Nat) : Bool :=
  s.strands.any (fun m => m.run != .vacant && m.kind != .sm && m.cid == cid) ||
  s.strands.any (fun m => match m.swap with | some r => r.cid == some cid && m.run == .vacant | none => false)
/-- A request to restore a context holds some slot, vacant or not: no other may restore it (R18). -/
def State.claimedCid (s : State) (cid : Nat) : Bool := s.strands.any (fun m => m.swap.any (fun r => r.cid == some cid))
/-- A context enters a cluster's cache; beyond 256 the least recently used goes to its backing slot (R214). -/
def State.cachePut (s : State) (cl cid : Nat) (bs : List Byte) : State :=
  let all := (cid, bs) :: (s.cluster cl).tcc.filter (fun e => e.1 != cid)
  let s1 := s.modCluster cl (fun c => { c with tcc := all.take 256 })
  (all.drop 256).foldl (fun t e => match t.troupe? (e.1 / 2 ^ 32) with
    | some tr => t.writeBytes (tr.slot (e.1 % 2 ^ 32)) e.2
    | none => t) s1
/-- A context leaves every cache. -/
def State.cacheDrop (s : State) (cid : Nat) : State :=
  match s.cacheOf cid with
  | some c => s.modCluster c (fun x => { x with tcc := x.tcc.filter (fun e => e.1 != cid) })
  | none => s

/-! ### Held ranges of core scratchpads (R217) -/

/-- The KIND 2 ranges among segment registers: offset and length. -/
def kind2 (gs : List Seg) : List (Nat × Nat) :=
  (gs.filter (fun g => g.kind == 2 && g.length != 0)).map (fun g => (g.base.toNat, g.length))
/-- The segment registers in a saved context. -/
def recordSegs (bs : List Byte) : List Seg := (List.range 8).map (fun i => ctxSeg bs (0x070 + 16 * i))
/-- The segment registers of a vcore, resident or not. -/
def State.vcoreSegs (s : State) (tr vcid : Nat) : List Seg :=
  match s.residentOf tr vcid with
  | some m => m.segs.toList
  | none => recordSegs (s.vcoreRecord tr vcid)
/-- The ranges held on a lean core, given by the SADDR of its slot 0: troupe, offset, length. -/
def State.heldRanges (s : State) (core : Nat) : List (Nat × Nat × Nat) :=
  s.troupes.flatMap (fun t => (t.2.homes.filter (fun h => h.2 == core && t.2.live h.1)).flatMap (fun h =>
    (kind2 (s.vcoreSegs t.1 h.1)).map (fun r => (t.1, r))))
/-- A range overlaps one held on the core for a vcore of another troupe. -/
def State.rangeClash (s : State) (core tr : Nat) (rs : List (Nat × Nat)) : Bool :=
  (s.heldRanges core).any (fun h => h.1 != tr && rs.any (fun r => overlaps r.1 r.2 h.2.1 h.2.2))
/-- What is left of a range without the bytes of another. -/
def cutRange (r h : Nat × Nat) : List (Nat × Nat) :=
  if overlaps r.1 r.2 h.1 h.2 = false then [r]
  else [(r.1, h.1 - r.1), (h.1 + h.2, r.1 + r.2 - (h.1 + h.2))].filter (fun x => x.2 != 0)
/-- What is left of ranges without the bytes of others. -/
def cutRanges (rs hs : List (Nat × Nat)) : List (Nat × Nat) := hs.foldl (fun l h => l.flatMap (fun r => cutRange r h)) rs
/-- Bytes that nobody holds any more begin to be cleared at 256 bytes per cycle, after what their core still clears. -/
def State.releaseRanges (s : State) (core : Nat) (rs : List (Nat × Nat)) : State :=
  let free := cutRanges rs ((s.heldRanges core).map (·.2))
  let cl := saPkg core
  free.foldl (fun t r =>
    let busy := ((t.cluster cl).clearing.filter (fun x => x.1 == saCore core)).foldl (fun n x => n + (x.2.2 + 255) / 256) 0
    (t.modCluster cl (fun x => { x with clearing := x.clearing ++ [(saCore core, r)] })).after (busy + (r.2 + 255) / 256)
      (.scratchpadClearEnd (coreNumber core))) s
/-- SCRATCHPAD_CLEAR_END: the oldest range of the core that is being cleared is zero now, but for bytes that are held again. -/
def execScratchpadClearEnd (core : Nat) (s : State) : Out :=
  let cl := core / 64
  match (s.cluster cl).clearing.find? (fun x => x.1 == core % 64) with
  | none => .next s
  | some x =>
    let slot0 := mkSa (pcDie cl) (pcIndex cl) (core % 64) 0
    let s1 := s.modCluster cl (fun y => { y with clearing := dropFirst (fun z => z == x) y.clearing })
    .next ((cutRanges [x.2] ((s.heldRanges slot0).map (·.2))).foldl (fun t r => t.clear (coreLoc core r.1) r.2) s1)
/-- SCRATCHPAD_COPY: firmware has copied a vcore's KIND 2 ranges to another core, which becomes its home (R141, R217). -/
def execScratchpadCopy (tr vcid core : Nat) (s : State) : Out :=
  match s.troupe? tr with
  | none => .next s
  | some t =>
    match Tab.get? t.homes vcid with
    | none => .next s
    | some home =>
      let slot0 := mkSa (pcDie (core / 64)) (pcIndex (core / 64)) (core % 64) 0
      let rs := kind2 (s.vcoreSegs tr vcid)
      if t.live vcid = false ∨ home = slot0 then .next s
      else
        let s1 := rs.foldl (fun u r => u.writeBytes (coreLoc core r.1) (memBytes s.mem (coreLoc (coreNumber home) r.1) r.2)) s
        .next ((s1.modTroupe tr (fun x => { x with homes := Tab.put x.homes vcid slot0 })).releaseRanges home rs)

/-! ### Segments and TLBINV (R212) -/

/-- The home core of the vcore that a lean strand runs; its own core where the troupe lists none. -/
def State.homeOf (s : State) (m : Strand) : Nat :=
  match s.troupe? m.troupe with
  | some t => (Tab.get? t.homes m.vcid).getD (m.sa - saSlot m.sa)
  | none => m.sa - saSlot m.sa
/-- SETSEG: a range that overlaps one held for another troupe, on the core of the strand or on its home core, is refused; the replaced range is
released on the home core (R212, R217). -/
def execSetseg (a b : SReg) (n : SegIx) (c : Bool) (s : State) : Out :=
  let m := s.me
  let g : Seg := { base := m.getS a, desc := m.getS b }
  s.gate (sysWord 0 a.toNat b.toNat 0 n.toNat c) true anyKind
    (if g.reserved ≠ 0 ∨ 4 < g.kind then s.trap .segRights (m.getS b)
     else if g.kind ≠ 0 ∧ tierSize g.kind < g.base.toNat + g.length then s.trap .segLimit (m.getS a)
     else
       let home := s.homeOf m
       if m.kind == .lean && (s.rangeClash (m.sa - saSlot m.sa) m.troupe (kind2 [g]) || s.rangeClash home m.troupe (kind2 [g])) then
         s.trap .segRights (m.getS b)
       else
         let old := kind2 [m.getSeg n]
         let s1 := s.mod (fun x => (x.setSeg n g).retire 4 c)
         .next (if m.kind == .lean then s1.releaseRanges home old else s1))
/-- GETSEG. -/
def execGetseg (d : SReg) (w : Bool) (n : SegIx) (c : Bool) (s : State) : Out :=
  let g := s.me.getSeg n
  s.gate (sysWord d.toNat 0 w.toNat 1 n.toNat c) true anyKind (.next (s.finS d (if w then g.desc else g.base) 4 c))

/-- The numbers of the module's ports: clusters 0 to 95, stage managers 96 to 103. -/
def allPorts : List Nat := List.range 104
/-- TLBINV: it reaches each port in a cycle that is not promised, at the latest 160 cycles after issue. -/
def tlbinv (form : TlbForm) (aux : BitVec 2) (va : Word) (space : Nat) (w : Word) (c : Bool) (s : State) : Out :=
  let m := s.me
  s.gate w true anyKind
    (let o : Op := { q := m.nextQ, pc := m.pc, what := .tlbinv form, dsts := [], accs := [], ord := 0, kind := 0, stage := .away,
                     trappable := false, flags := m.flags, issued := s.cycle }
     let s1 := s.mod (fun x => { x with ops := x.ops ++ [o] }.retire 4 c)
     let s2 := allPorts.foldl (fun t p =>
       t.after ((Config.freeWord (s.freeCtr + p)).toNat % 160 + 1) (.tlbinvPortArrival p aux va space)) s1
     .next ((s2.bump 104).after 160 (.tlbinvCompletion m.sa m.nextQ)))
/-- TLBINV.page. -/
def execTlbinvPage (a b : SReg) (c : Bool) (s : State) : Out :=
  let sp := (s.me.getS b).toNat % 2 ^ 32
  tlbinv (.page (s.me.getS a).toNat sp) 0 (s.me.getS a) sp (sysWord 0 a.toNat b.toNat 2 0 c) c s
/-- TLBINV.space. -/
def execTlbinvSpace (b : SReg) (c : Bool) (s : State) : Out :=
  let sp := (s.me.getS b).toNat % 2 ^ 32
  tlbinv (.space sp) 1 0 sp (sysWord 0 0 b.toNat 2 1 c) c s
/-- TLBINV.all. -/
def execTlbinvAll (c : Bool) (s : State) : Out := tlbinv .all 2 0 0 (sysWord 0 0 0 2 2 c) c s
/-- TLBINV_COMPLETION. -/
def execTlbinvCompletion (sa q : Nat) (s : State) : Out := .next (s.complete sa q anyWhat)

/-! ### Parking and waking (R213) -/

/-- A parked strand goes on past its PARK; s[d] is ready 1 cycle after its first turn. -/
def Strand.unpark (m : Strand) (cycle : Nat) (v : Word) : Strand :=
  let m1 := m.pokeS m.parkDst v
  { m1.retire 4 m.parkCue with
    run := .active
    fixed := { q := m.nextQ, reg := .s m.parkDst, due := m.nextTurn cycle + 1, fflags := false, vstat := false } :: m.fixed }
/-- PARK; a restored one goes on with the deadline of its context (R215). -/
def execPark (d a : SReg) (c : Bool) (s : State) : Out :=
  let m := s.me
  s.gate (sysWord d.toNat a.toNat 0 3 0 c) true vcoreKind
    (if m.token then .next ((s.mod (fun x => { x with token := false, parkAgain := false })).finS d 1 4 c)
     else
       let dl := if m.parkAgain then m.parkDl else (m.getS a).toNat
       let s1 := s.mod (fun x => { x with run := .parked, parkDl := dl, parkDst := d, parkCue := c, parkAgain := false })
       .next (if dl = 0 then s1 else s1.atCycle dl (.parkDeadline m.sa)))
/-- PARK_DEADLINE: the strand resumes with 0. -/
def execParkDeadline (sa : Nat) (s : State) : Out :=
  match s.strand? sa with
  | none => .next s
  | some m =>
    if m.run == .parked && m.parkDl != 0 && decide (m.parkDl ≤ s.cycle) then
      .next ((s.modStrand sa (fun x => x.unpark s.cycle 0)).stir m.troupe)
    else .next s
/-- The stop that is asked of a strand: a pending one, or that of a blackout of its cluster, which a vcore placed there later meets too
(R371, R372). -/
def State.stopAsked (s : State) (m : Strand) : Option Nat :=
  match m.dbg.stopReq with
  | some r => some r
  | none => if m.kind != .sm && m.dbg.stepping.isNone && (s.cluster (saPkg m.sa)).blackout.isSome then some 3 else none
/-- The instruction of an open step has issued: whether it ends in SINGLE_STEP. -/
def Strand.stepDone (m : Strand) : Option Bool :=
  match m.dbg.stepping with
  | some (t, q) => if q < m.nextQ then some t else none
  | none => none
/-- One of the first four events of R206 waits for the strand's turn; a strand with a fatal fault takes none. -/
def State.earlierEvent (s : State) (m : Strand) : Bool :=
  m.run != .dead && (m.deliverable.isSome || (m.run != .idle && (s.asyncNext m).isSome) || m.stepDone.isSome || (s.stopAsked m).isSome)
/-- WAKE_ARRIVAL: it leaves PARK or sets the token, in the saved context of a switched-out vcore; behind an earlier event of R206 it sets the token
only; a halted vcore's wake is discarded. -/
def execWakeArrival (tr vcid : Nat) (s : State) : Out :=
  match s.troupe? tr with
  | none => .next s
  | some t =>
    if t.live vcid = false then .next ((s.discard tr).stir tr)
    else match s.residentOf tr vcid with
      | none => .next ((s.patchContext tr vcid (fun bs => setBytes bs 0x00C 4 (bytesNat bs 0x00C 4 ||| 256))).stir tr)
      | some m =>
        .next ((s.modStrand m.sa (fun x => if x.run == .parked && !s.earlierEvent m && m.swap.isNone then x.unpark s.cycle 1 else { x with token := true })).stir tr)
/-- WAKE: a vcid outside the own troupe raises CHANNEL_UNBOUND. -/
def execWake (a : SReg) (c : Bool) (s : State) : Out :=
  let m := s.me
  let v := (m.getS a).toNat % 2 ^ 32
  s.gate (sysWord 0 a.toNat 0 4 0 c) true anyKind
    (match s.troupe? m.troupe with
     | none => s.trap .channelUnbound (unboundCode 0x30 0)
     | some t =>
       if (Tab.get? t.place v).isNone then s.trap .channelUnbound (unboundCode 0x30 0)
       else .next ((s.fin 4 c).after (s.latencyTo m.sa m.troupe v) (.wakeArrival m.troupe v)))
/-- WAKE.strand: the wake is for the vcore that holds the strand; one that holds none has no token. -/
def execWakeStrand (a : SReg) (c : Bool) (s : State) : Out :=
  let m := s.me
  s.gate (sysWord 0 a.toNat 0 4 1 c) true smKind
    (match s.strand? (m.getS a).toNat with
     | none => .next (s.fin 4 c)
     | some x =>
       if x.run == .vacant || x.kind == .sm then .next (s.fin 4 c)
       else .next ((s.fin 4 c).after (chanLatency m.sa x.sa) (.wakeArrival x.troupe x.vcid)))

/-! ### CTXSAVE and CTXLOAD (R214) -/

/-- The parts of `n` bytes at an address that cross no page. -/
def pagePieces (va n : Nat) : List (Nat × Nat) :=
  let first := 65536 - va % 65536
  if n ≤ first then [(va, n)] else [(va, first), (va + first, n - first)]
/-- The accesses of `n` bytes at an address that passed the segment check. -/
def blockAccesses (m : Strand) (g : Seg) (addr n : Nat) : List Access :=
  (pagePieces addr n).zipIdx.map (fun p => accessAt m g p.2 p.1.1 p.1.2 0)
/-- CTXSAVE and CTXLOAD: the check of R143 on 1,536 bytes, then the alignment of s[b]. -/
def ctxMove (load : Bool) (minor : Nat) (d a b : SReg) (n : SegIx) (c : Bool) (s : State) : Out :=
  let m := s.me
  let g := m.getSeg n
  s.gate (sysWord d.toNat a.toNat b.toNat minor n.toNat c) true smKind
    (match segCheck m g load (!load) (m.getS b) ctxSize 1 with
     | .bad cause addr => s.trap cause addr
     | .ok addr =>
       if (m.getS b).toNat % 64 ≠ 0 then s.trap .misaligned (m.getS b)
       else
         let what := OpWhat.context d load (m.getS a).toNat
         let q := m.nextQ
         let s1 := s.mod (fun x => x.issueOp s.cycle what [.s d] (blockAccesses m g addr ctxSize) 0 g.kind 4 c)
         if g.kind = 1 then .next (s1.after 10 (.translationConfirm m.sa q))
         else .next (s1.after (24 + localLatency m g.kind addr) (.contextTransferResult m.sa q)))
/-- CTXSAVE. -/
def execCtxsave (d a b : SReg) (n : SegIx) (c : Bool) (s : State) : Out := ctxMove false 5 d a b n c s
/-- CTXLOAD; s[a] is not read. -/
def execCtxload (d a b : SReg) (n : SegIx) (c : Bool) (s : State) : Out := ctxMove true 6 d a b n c s
/-- The bytes that an operation's accesses read. -/
def State.blockBytes (s : State) (sa : Nat) (o : Op) : List Byte :=
  o.accs.flatMap (fun a => match a.loc with
    | some l => (List.range a.size).map (fun i => s.seen sa (isPrivate (o.kind == 1) a.region) (l + i))
    | none => [])
/-- Bytes written over accesses. -/
def State.putBlock (s : State) (sa kind : Nat) : List Access → List Byte → State
  | [], _ => s
  | a :: r, bs =>
    let s1 := match a.loc with
      | some l => if isPrivate (kind == 1) a.region then s.store sa true l a.size (bytesNat bs 0 a.size) else s.writeBytes l (bs.take a.size)
      | none => s
    s1.putBlock sa kind r (bs.drop a.size)
/-- CONTEXT_TRANSFER_RESULT: 0 done, 3 unknown CID, 4 resident in a slot. CTXLOAD brings the context into the cache that holds it, else into that
of the cluster of its last place; CTXSAVE is no use for the least-recently-used order (entry 65 of the log). -/
def execContextTransferResult (sa q : Nat) (s : State) : Out :=
  match s.strand? sa with
  | none => .next s
  | some m => match m.ops.find? (fun o => o.q == q) with
    | none => .next s
    | some o => match o.what with
      | .context d load cid0 =>
        let bs := s.blockBytes sa o
        let cid := if load then cidOf (bytesNat bs 4 4) (bytesNat bs 0 4) else cid0
        let status : Nat := if s.residentCid cid then 4 else if s.knownCid cid then 0 else 3
        let s1 :=
          if status ≠ 0 then s
          else if load then
            let cl := (s.cacheOf cid).getD (match s.troupe? (cid / 2 ^ 32) with
              | some t => saPkg ((Tab.get? t.place (cid % 2 ^ 32)).getD 0)
              | none => 0)
            s.cachePut cl cid bs
          else s.putBlock sa o.kind o.accs (s.vcoreRecord (cid / 2 ^ 32) (cid % 2 ^ 32))
        .next ((s1.modStrand sa (fun x => x.landS q d (BitVec.ofNat 64 status))).complete sa q anyWhat)
      | _ => .next s

/-! ### SLOTSWAP (R216) -/

/-- SLOTSWAP: the request travels to the target. -/
def execSlotswap (d a b : SReg) (c : Bool) (s : State) : Out :=
  let m := s.me
  s.gate (sysWord d.toNat a.toNat b.toNat 7 0 c) true smKind
    (let target := (m.getS a).toNat
     let o : Op := { q := m.nextQ, pc := m.pc, what := .slotswap d target (m.getS b).toNat, dsts := [.s d], accs := [], ord := 0,
                     kind := 0, stage := .away, trappable := false, flags := m.flags, issued := s.cycle }
     .next ((s.mod (fun x => { x with ops := x.ops ++ [o] }.retire 4 c)).after (diePath (saDie m.sa) (saDie target))
       (.slotswapArrival m.sa m.nextQ)))
/-- The number of a request that firmware makes of the strand at an SADDR, beyond the SADDRs. -/
def firmwareSwap (sa : Nat) : Nat := 2 ^ 18 + sa
/-- The number of a relocation request of the strand at an SADDR. -/
def relocation (sa : Nat) : Nat := 2 ^ 19 + sa
/-- A notice about a vcore goes to the strand that launched its troupe (R350). -/
def State.notice (s : State) (tr code data : Nat) : State :=
  match s.troupe? tr with
  | none => s
  | some t => s.post (chanLatency t.launcher t.launcher) 0 t.launcher (mailWord data 0 0 3 code)
/-- The status goes back to the stage-manager strand that asked; of a dump's request the cycle of its return is kept (R221). -/
def State.swapStatus (s : State) (issuer q target status : Nat) : State :=
  if 2 ^ 19 ≤ issuer then
    (match s.strand? target with
     | some m => if m.run == .vacant then s else s.notice m.troupe 4 m.vcid
     | none => s)
  else if 2 ^ 18 ≤ issuer then
    (match s.troupe? (q / 2 ^ 32) with
     | some t => s.modDie (saDie t.launcher) (fun d => { d with statusBack :=
         let c := s.cycle + diePath (saDie target) (saDie t.launcher)
         if d.statusBack < c then c else d.statusBack })
     | none => s)
  else (s.modStrand issuer (fun x => x.modOp q anyWhat (fun o => match o.what with
    | .slotswap d _ _ => { o with what := .result d (BitVec.ofNat 64 status) }
    | _ => o))).after (diePath (saDie target) (saDie issuer)) (.slotswapStatus issuer q)
/-- SLOTSWAP_STATUS. -/
def execSlotswapStatus (issuer q : Nat) (s : State) : Out :=
  match s.strand? issuer with
  | none => .next s
  | some m => match m.op? q anyWhat with
    | none => .next s
    | some o => match o.what with
      | .result d v => .next ((s.modStrand issuer (fun x => x.landS q d v)).complete issuer q anyWhat)
      | _ => .next s
/-- A task of the vcore that is not moved to another cluster: non-speculative or irrevocable (R304). -/
def Troupe.tiedTask (t : Troupe) (vcid : Nat) : Bool :=
  t.tasks.any (fun k => k.2.worker == some vcid && (k.2.state == .nonspec || k.2.state == .irrev))
/-- The vcore resumes only in the cluster of its last place: a task of it is not moved, or it is a heavy vcore with a ring of NSLOT not 0, whose
slot data lie there (R274, R304). -/
def State.tiedTo (s : State) (m : Strand) (tr vcid : Nat) : Bool :=
  match s.troupe? tr with
  | none => false
  | some t =>
    t.tiedTask vcid ||
    (m.kind == .heavy && (List.range 16).any (fun n => (s.savedRing (t.saveArea vcid) n).slots != 0))
/-- The status of a SLOTSWAP at its target slot; 0 lets it go on. Of several that hold the first of 5, 1, 4, 3, 2, 6 is answered, and 6 also says
that the vcore is tied to another cluster (entry 64 of the log). -/
def State.swapCheck (s : State) (m : Strand) (cid : Option Nat) : Nat :=
  if m.enabled = false ∨ m.dbg.stopped = true then 1
  else match cid with
    | none => 0
    | some c =>
      let bs := s.vcoreRecord (c / 2 ^ 32) (c % 2 ^ 32)
      let fl := bytesNat bs 0x00C 4
      let here := m.cid == c && m.run != .vacant
      let kindOk := (fl / 2 % 2 == 1) == (m.kind == .heavy) && fl / 4 % 64 == m.width
      if s.claimedCid c = true ∨ (here = false ∧ s.residentCid c = true) then 4
      else if here = false ∧ s.knownCid c = false then 3
      else if kindOk = false then 2
      else
        let rs := kind2 (recordSegs bs)
        let home := match s.troupe? (c / 2 ^ 32) with
          | some t => Tab.get? t.homes (c % 2 ^ 32)
          | none => none
        let place := match s.troupe? (c / 2 ^ 32) with
          | some t => Tab.get? t.place (c % 2 ^ 32)
          | none => none
        if place.any (fun p => saPkg p != saPkg m.sa) && s.tiedTo m (c / 2 ^ 32) (c % 2 ^ 32) then 6
        else if m.kind == .lean && !rs.isEmpty && (home != some (m.sa - saSlot m.sa) || s.rangeClash (m.sa - saSlot m.sa) (c / 2 ^ 32) rs) then 6
        else 0
/-- A request takes hold of a slot. -/
def State.beginSwap (s : State) (m : Strand) (issuer q : Nat) (cid : Option Nat) : State :=
  let req : SwapReq := { issuer := issuer, q := q, cid := cid, saving := false }
  (s.putStrand { m with swap := some req }).after 0 (.contextSave m.sa)
/-- SLOTSWAP_ARRIVAL: statuses 1 to 6 leave the target as it is; a slot that serves another request answers after it. A
firmware request names its target and the vcore it is to vacate. -/
def execSlotswapArrival (issuer q : Nat) (s : State) : Out :=
  if 2 ^ 18 ≤ issuer then
    match s.strand? (issuer % 2 ^ 18) with
    | none => .next s
    | some m =>
      if m.run == .vacant || m.dbg.stopped || m.cid != q then .next s
      else if m.swap.isSome then .next (s.after 1 (.slotswapArrival issuer q))
      else .next (s.beginSwap m issuer q none)
  else
    match s.strand? issuer with
    | none => .next s
    | some im => match im.op? q anyWhat with
      | none => .next s
      | some o => match o.what with
        | .slotswap _ target c =>
          match s.slotAt target with
          | none => .next (s.swapStatus issuer q target 5)
          | some m =>
            let cid := if c = 2 ^ 64 - 1 then none else some c
            if m.real = false then .next (s.swapStatus issuer q target 5)
            else if m.swap.isSome then .next (s.after 1 (.slotswapArrival issuer q))
            else match s.swapCheck m cid with
              | 0 => .next (s.beginSwap m issuer q cid)
              | st => .next (s.swapStatus issuer q target st)
        | _ => .next s

/-- Nothing of the strand is outstanding and its spill ring takes what its inbox holds and what is on its way to it. -/
def State.drained (s : State) (m : Strand) : Bool :=
  m.ops.isEmpty && m.held.isEmpty && m.mq.isEmpty && (decide (m.readyAt ≤ s.cycle) || m.readyCls == .vacant) &&
  (match s.troupe? m.troupe with
   | some t => decide (s.spilled (t.spill m.vcid) + m.inbox.length + s.mailComing m.troupe m.vcid ≤ 4096)
   | none => true)
/-- Untaken messages go to the front of the spill ring and untaken port entries to the spill area (R194). -/
def State.spillAll (s : State) (m : Strand) (a : Nat) : State :=
  let s1 := m.inbox.reverse.foldl (fun t e =>
    let h := (t.spillHead a + 2 ^ 64 - 1) % 2 ^ 64
    (t.write (a + 0x1040 + 8 * (h % 4096)) 8 e.data.toNat).write a 8 h) s
  (List.range 8).foldl (fun t p =>
    (m.inPort (BitVec.ofNat 3 p)).foldl (fun u e => u.spillEntry a p e.vec e.data) t) s1
/-- A slot has become free: waiting launches try again (R345). -/
def State.pokePlacement (s : State) : State := if s.placeQ.isEmpty then s else { s with slotFreed := true }.after 0 .placementRetry
/-- The context of a strand is saved and its slot vacant. -/
def State.saveOut (s : State) (m : Strand) : State :=
  let cid := m.cid
  let s1 := s.cachePut (saPkg m.sa) cid (s.recordOf m)
  let s2 := match s1.troupe? m.troupe with
    | none => s1
    | some t =>
      let u := if m.kind == Kind.heavy then s1.saveMatrix m (t.saveArea m.vcid) else s1
      (u.spillAll m (t.spill m.vcid)).modTroupe m.troupe (fun x => { x with out := m.vcid :: x.out.filter (fun v => v != m.vcid) })
  ((s2.lapse m.sa).modPort m.port (fun p => p.forget (.strand m.sa))).modStrand m.sa (fun x => { x.emptied with swap := x.swap })
/-- The lean cores of a die, coolest first: temperature, cluster-in-die index, core (R349). -/
def State.weather (s : State) (die : Nat) : List (Nat × Nat × Nat) :=
  sortBy (fun a b => decide (a.1 ≤ b.1)) ((List.range 12).flatMap (fun cl => (List.range 48).map (fun core =>
    (Tab.getD (s.cluster (pkgCluster die cl)).temps core 0, cl, core))))
/-- The slot that a relocated vcore goes to: the lowest vacant enabled slot of the first core of the weather table with its width; within
its own cluster where a KIND 3 segment or a task that cannot be aborted ties it down (R304, R351). -/
def State.relocationSlot (s : State) (tr vcid old : Nat) : Option Strand :=
  match s.troupe? tr with
  | none => none
  | some t =>
    let bs := s.vcoreRecord tr vcid
    let w := bytesNat bs 0x00C 4 / 4 % 64
    let segs := recordSegs bs
    let tied := segs.any (fun g => g.kind == 3) || t.tiedTask vcid
    let cores := (s.weather (saDie old)).filter (fun c => !tied || c.2.1 == saCluster old)
    cores.findSome? (fun c =>
      let core := mkSa (saDie old) c.2.1 c.2.2 0
      if s.coreWidth core ≠ w ∨ s.rangeClash core tr (kind2 segs) = true then none
      else ((List.range w).filterMap (fun i => s.slotAt (core + i))).find? (fun m => m.enabled && !m.occupied))
/-- A vcore is to be restored in another cluster than its last: its speculative task is aborted first (R304). -/
def State.abortMoved (s : State) (tr vcid sa : Nat) : State :=
  match s.troupe? tr with
  | none => s
  | some t =>
    if (Tab.get? t.place vcid).any (fun p => saPkg p != saPkg sa) then
      match t.tasks.find? (fun k => k.2.worker == some vcid && k.2.state == .running) with
      | some k => s.issueAbort tr k.1 false (saPkg sa)
      | none => s
    else s
/-- A vacated vcore is to be restored elsewhere, after a copy of its KIND 2 ranges; without a place it waits, and notice 5 says so. -/
def State.relocate (s : State) (tr vcid old : Nat) : State :=
  match s.relocationSlot tr vcid old with
  | none =>
    let s1 : State := if s.displaced.contains (tr, vcid) then s else { s with displaced := s.displaced ++ [(tr, vcid)] }.notice tr 5 vcid
    s1
  | some m =>
    let rs := kind2 (s.vcoreSegs tr vcid)
    let cost := rs.foldl (fun n r => n + 24 + (r.2 + 255) / 256) 0
    let core := m.sa - saSlot m.sa
    let home := match s.troupe? tr with | some t => Tab.get? t.homes vcid | none => none
    let n := if home = some core then 0 else cost
    let s1 : State := ({ s with displaced := s.displaced.filter (fun d => d != (tr, vcid)) } : State).abortMoved tr vcid m.sa
    let s2 := s1.putStrand { m with swap := some { issuer := relocation m.sa, q := 0, cid := some (cidOf tr vcid), saving := false } }
    let s3 := if home = some core then s2 else s2.after n (.scratchpadCopy tr vcid (coreNumber core))
    s3.after (n + 24) (.contextRestore m.sa)
/-- The context that a request is to restore is tied to another cluster by now: its task has become non-speculative meanwhile (R304). -/
def State.movedTied (s : State) (m : Strand) (cid : Option Nat) : Bool :=
  match cid with
  | none => false
  | some c => match s.troupe? (c / 2 ^ 32) with
    | none => false
    | some t => (Tab.get? t.place (c % 2 ^ 32)).any (fun p => saPkg p != saPkg m.sa) && s.tiedTo m (c / 2 ^ 32) (c % 2 ^ 32)
/-- CONTEXT_SAVE: a pending stop comes first, and its stopped slot answers status 1 (R206, R371). After the events before it and the drain a context
that has been tied to another cluster meanwhile gets status 6, and a speculative task that moves is aborted (R304). The save runs for 24 cycles,
8,192 more with a matrix save area; then the slot is vacant and a context to restore follows, from a cache or, a tier latency later, from its backing
slot. -/
def execContextSave (sa : Nat) (s : State) : Out :=
  match s.strand? sa with
  | none => .next s
  | some m => match m.swap with
    | none => .next s
    | some r =>
      let finish := fun (t : State) => match r.cid with
        | none =>
          if 2 ^ 19 ≤ r.issuer then
            (t.modStrand sa (fun x => { x with swap := none, enabled := false })).relocate (r.q / 2 ^ 32) (r.q % 2 ^ 32) sa
          else ((t.modStrand sa (fun x => { x with swap := none })).swapStatus r.issuer r.q sa 0).pokePlacement
        | some c =>
          let far := match t.cacheOf c, t.troupe? (c / 2 ^ 32) with
            | none, some tr => llcLatency (saDie sa) (tr.slot (c % 2 ^ 32))
            | _, _ => 0
          t.after (24 + far) (.contextRestore sa)
      let refuse := fun (status : Nat) =>
        let t := s.modStrand sa (fun x => { x with swap := none })
        if 2 ^ 18 ≤ r.issuer then t else t.swapStatus r.issuer r.q sa status
      let moved := fun (t : State) => match r.cid with
        | some c => t.abortMoved (c / 2 ^ 32) (c % 2 ^ 32) sa
        | none => t
      if m.run == .vacant then .next (if s.movedTied m r.cid then refuse 6 else finish (moved s))
      else if r.saving then .next (finish (s.saveOut m))
      else if m.dbg.stopped then
        .next (refuse 1)
      else if s.drained m && !s.earlierEvent m then
        if s.movedTied m r.cid then .next (refuse 6)
        else .next (((moved s).modStrand sa (fun x => { x with swap := some { r with saving := true } })).after
          (24 + (if m.kind == .heavy then 8192 else 0)) (.contextSave sa))
      else .next (s.after 1 (.contextSave sa))
/-- A strand with the spilled port entries and messages of its vcore, oldest first, up to 16 messages (R194). -/
def State.unspill (s : State) (m : Strand) (t : Troupe) : State × Strand :=
  let a := t.spill m.vcid
  let ports := fun (p : Nat) => s.spilledEntries a p
  let n := (s.spillTail a + 2 ^ 64 - s.spillHead a) % 2 ^ 64
  let k := if n < 16 then n else 16
  let msgs : List Msg := (List.range k).map (fun i =>
    { data := BitVec.ofNat 64 (s.read (a + 0x1040 + 8 * ((s.spillHead a + i) % 4096)) 8), taken := none })
  let items := (List.range 8).foldl (fun x p => x + (ports p).length) k
  let time := (List.range items).foldl (fun x i => x + spillLatency (saDie m.sa) a (s.freeCtr + i)) 0
  (((s.write a 8 ((s.spillHead a + k) % 2 ^ 64)).write (a + 0x10) 16 0).bump items,
   { m with inPorts := Vector.ofFn (fun i => ports i.val), inbox := msgs, readyAt := s.cycle + time, readyCls := .vacant })
/-- The strand that takes up a record of a live troupe's vcore: its task, or its wait as an idle worker with H = 0, goes on (R303, R304); what CFRONTID
latched is not in the record. -/
def State.takeUp (s : State) (m : Strand) (t : Troupe) (bs : List Byte) : Strand :=
  let m1 := m.fromContext bs
  let task := (t.tasks.find? (fun p => p.2.worker == some m1.vcid)).map (·.1)
  let idle := task.isNone && (Tab.get? t.frames m1.vcid).isSome
  { m1 with
    root := t.field 0x018 8, task := task, frontLatch := (Config.freeWord s.freeCtr).setWidth 32, swap := none
    run := if idle then .idle else .active
    h := m1.h && !idle
    parkAgain := m1.parkAgain && !idle }
/-- A saved context that an error has struck is restored: the task of its vcore, if it has one that is not irrevocable, runs again instead (R205,
R307). -/
def State.retryLost (s : State) (tr vcid : Nat) : State :=
  if s.lostCtx.contains (cidOf tr vcid) = false then s
  else match s.troupe? tr with
    | none => s
    | some t => match t.tasks.find? (fun k => k.2.worker == some vcid && k.2.state != .irrev) with
      | some k => { s with lostCtx := s.lostCtx.filter (fun x => x != cidOf tr vcid) }.taskError tr k.1 true
      | none => s
/-- CONTEXT_RESTORE. -/
def execContextRestore (sa : Nat) (s : State) : Out :=
  match s.strand? sa with
  | none => .next s
  | some m => match m.swap with
    | none => .next s
    | some r =>
      let cid := r.cid.getD 0
      let s := s.retryLost (cid / 2 ^ 32) (cid % 2 ^ 32)
      match s.troupe? (cid / 2 ^ 32) with
      | none => .next (((s.modStrand sa (fun x => { x with swap := none })).swapStatus r.issuer r.q sa 3).pokePlacement)
      | some t =>
        let v := cid % 2 ^ 32
        let m1 := s.takeUp m t (s.vcoreRecord (cid / 2 ^ 32) v)
        let m2 := if m.kind == .heavy then s.loadMatrix m1 (t.saveArea v) else m1
        let u := (s.bump 1).unspill m2 t
        let s1 := ((u.1.cacheDrop cid).modStrand sa (fun _ => u.2)).modTroupe (cid / 2 ^ 32) (fun x => { x with
          place := Tab.put x.place v sa, out := x.out.filter (fun w => w != v) })
        let s2 := (s1.pokeMail (cid / 2 ^ 32) v).pokeWorkers (cid / 2 ^ 32)
        let s3 := match (List.range t.clusters).find? (fun w => t.clusterAt w == saPkg sa) with
          | some w => s2.atCycle u.2.readyAt (.taskDispatch (cid / 2 ^ 32) w)
          | none => s2
        let s4 := if s.lostCtx.contains cid then
            { s3 with lostCtx := s3.lostCtx.filter (fun x => x != cid) }.vector sa u.2.pc .machineCheck 0 0 true
          else s3
        .next ((s4.pokeSeq (saPkg sa) 1).swapStatus r.issuer r.q sa 0)

/-! ### SLOTCTL and HALT (R218, R220) -/

/-- SLOTCTL: 0 done, 1 refused; an SADDR without a lean or heavy slot gives a value that the spec does not state. -/
def execSlotctl (d a b : SReg) (c : Bool) (s : State) : Out :=
  let m := s.me
  let on := (m.getS b).getLsbD 0
  s.gate (sysWord d.toNat a.toNat b.toNat 8 0 c) true smKind
    (match s.slotAt (m.getS a).toNat with
     | none => .next ((s.bump 1).finS d (Config.freeWord s.freeCtr) 4 c)
     | some x =>
       if x.kind == .sm then .next ((s.bump 1).finS d (Config.freeWord s.freeCtr) 4 c)
       else if on = false ∧ x.occupied = true then .next (s.finS d 1 4 c)
       else
         let s1 := s.putStrand { x with enabled := on }
         .next ((if on then s1.pokePlacement else s1).finS d 0 4 c))

/-- The watches of an owner are freed (R377). -/
def State.freeWatches (s : State) (owner : Nat) : State :=
  { s with dies := s.dies.map (fun d => (d.1, { d.2 with watches := d.2.watches.filter (fun w => w.2.owner != owner) })) }
/-- The completion record of a troupe, 64 bytes (R346). -/
def Troupe.record64 (t : Troupe) (status tr cycle : Nat) : List Byte :=
  natBytes 4 status ++ natBytes 4 tr ++ natBytes 8 t.released ++ natBytes 8 cycle ++ natBytes 4 t.discarded ++ natBytes 36 0
/-- A troupe ends: its completion record is written, its slots, cache entries, watches, held ranges and number are free, and
a notice goes to the strand that launched it (R346). -/
def State.endTroupe (s : State) (tr status : Nat) : State :=
  match s.troupe? tr with
  | none => s
  | some t =>
    let mine := s.strands.filter (fun m => m.troupe == tr && m.kind != .sm && m.run != .vacant)
    let ranges := (t.homes.filter (fun h => t.live h.1)).map (fun h => (h.2, kind2 (s.vcoreSegs tr h.1)))
    let s1 := s.writeBytes (t.field 0x130 8) (t.record64 status tr s.cycle)
    let s2 := mine.foldl (fun u m => ((u.lapse m.sa).modPort m.port (fun p => p.forget (.strand m.sa))).modStrand m.sa Strand.emptied) s1
    let s3 : State := { s2 with
      troupes := Tab.del s2.troupes tr
      clusters := s2.clusters.map (fun c => (c.1, { c.2 with tcc := c.2.tcc.filter (fun e => e.1 / 2 ^ 32 != tr) }))
      scOps := s2.scOps.filter (fun o => !(mine.any (fun m => m.sa == o.sa)))
      dies := s2.dies.map (fun d => (d.1, { d.2 with watches := d.2.watches.filter (fun w => w.2.owner / 2 ^ 32 != tr) })) }
    let s4 := ranges.foldl (fun u r => u.releaseRanges r.1 r.2) s3
    ((s4.post (chanLatency t.launcher t.launcher) 0 t.launcher (mailWord tr 0 0 3 (status + 1))).packetDone
      { queue := t.queue, rdidx := 0, kind := 1, notify := t.notify }).pokePlacement
/-- The troupe completes when every vcore has halted and no task is left. -/
def State.checkEnd (s : State) (tr : Nat) : State :=
  match s.troupe? tr with
  | none => s
  | some t =>
    if !t.ending && t.place.all (fun p => t.halted.contains p.1) && t.tasks.isEmpty && t.spawns.isEmpty then s.endTroupe tr 0 else s
/-- HALT: the slot becomes vacant and the vcore's context, mail spill, watches and held ranges are released. -/
def execHalt (c : Bool) (s : State) : Out :=
  let m := s.me
  s.gate (sysWord 0 0 0 9 0 c) true vcoreKind
    (let settledTask := match s.taskOf m with | some (_, k) => k.state == .irrev || k.state == .nonspec | none => true
     if !m.ops.isEmpty || !m.held.isEmpty || !m.mq.isEmpty || !settledTask then .next s
     else
       let ranges := kind2 m.segs.toList
       let s1 := (s.lapse m.sa).mod (fun x => { x.left with swap := x.swap })
       let s2 := match s.taskOf m with
         | some (id, _) => s1.dropTask m.troupe id
         | none => s1
       let s3 := s2.modTroupe m.troupe (fun t => { t with
         halted := m.vcid :: t.halted, frames := Tab.del t.frames m.vcid, stirred := true })
       let s4 := (s3.freeWatches m.cid).modPort m.port (fun p => p.forget (.strand m.sa))
       let s5 := match s.troupe? m.troupe with
         | some t => match Tab.get? t.homes m.vcid with
           | some h => s4.releaseRanges h ranges
           | none => s4
         | none => s4
       .next (s5.pokePlacement.checkEnd m.troupe))

end Sys2Proof.Machine
end

