-- ==== Sys2Proof/Machine/Words.lean ====
section
/-! DEFINITION. The assigned words as rows of a fixed pattern and a check of the fields, for the prompter, which asks of a word only whether it
is an instruction (R40, R319). The decoder says which one it is. -/

namespace Sys2Proof.Machine

open Wf

/-- An assigned encoding: the bits that are fixed, what they hold, and the fields' own check. A second word's bits stand above the first's. -/
structure WordRow where
  word : Nat
  care : Nat
  ok : Nat → Bool := fun _ => true

/-- The field check of GETSR and its like. -/
def okGetsr (w : Nat) : Bool :=
  let n := BitVec.ofNat 12 (fld w 1 12)
  readable n
/-- The field check of SETSR and its like. -/
def okSetsr (w : Nat) : Bool :=
  let n := BitVec.ofNat 12 (fld w 1 12)
  writable n
/-- The field check of FADD and its like. -/
def okFloatRound (w : Nat) : Bool :=
  let f := BitVec.ofNat 2 (fld w 4 2)
  let r := BitVec.ofNat 3 (fld w 1 3)
  (f != 3) && (r != 6)
/-- The field check of FMIN and its like. -/
def okFloat (w : Nat) : Bool :=
  let f := BitVec.ofNat 2 (fld w 4 2)
  f != 3
/-- The field check of FCVT and its like. -/
def okFcvt (w : Nat) : Bool :=
  let m := BitVec.ofNat 7 (fld w 4 7)
  let r := BitVec.ofNat 3 (fld w 1 3)
  fcvtOk m r
/-- The field check of LD and its like. -/
def okLd (w : Nat) : Bool :=
  let ord := BitVec.ofNat 2 (fld w 11 2)
  let wd := BitVec.ofNat 3 (fld w 8 3)
  wd != 7 && ord != 2
/-- The field check of ST and its like. -/
def okSt (w : Nat) : Bool :=
  let ord := BitVec.ofNat 2 (fld w 11 2)
  let wd := BitVec.ofNat 3 (fld w 8 3)
  wd.toNat < 4 && ord != 1
/-- The field check of FENCE and its like. -/
def okFence (w : Nat) : Bool :=
  let p := BitVec.ofNat 3 (fld w 3 3)
  p.toNat ≤ 4
/-- The field check of PREF and its like. -/
def okPref (w : Nat) : Bool :=
  let l := BitVec.ofNat 5 (fld w 21 5)
  l.toNat ≤ 2
/-- The field check of TRYRECV and its like. -/
def okTryrecv (w : Nat) : Bool :=
  let d := BitVec.ofNat 5 (fld w 21 5)
  let a := BitVec.ofNat 5 (fld w 16 5)
  !(a == d && d != 0)
/-- The field check of BAR_ARRIVE and its like. -/
def okBarrier (w : Nat) : Bool :=
  let s := BitVec.ofNat 3 (fld w 1 3)
  s.toNat ≤ 4
/-- The field check of CPY and its like. -/
def okCopy (w : Nat) : Bool :=
  let expl := (fld w 47 1 == 1)
  let eng := BitVec.ofNat 5 (fld w 42 5)
  expl || eng == 0
/-- The field check of CPY2D and its like. -/
def okCopyPair (w : Nat) : Bool :=
  let b := BitVec.ofNat 5 (fld w 11 5)
  let expl := (fld w 47 1 == 1)
  let eng := BitVec.ofNat 5 (fld w 42 5)
  (expl || eng == 0) && (b.toNat % 2 == 0 && b != 0)
/-- The field check of CPYG and its like. -/
def okCopyElems (w : Nat) : Bool :=
  let b := BitVec.ofNat 5 (fld w 11 5)
  let expl := (fld w 47 1 == 1)
  let eng := BitVec.ofNat 5 (fld w 42 5)
  let e := BitVec.ofNat 4 (fld w 38 4)
  (expl || eng == 0) && (b.toNat % 2 == 0 && b != 0) && (2 ≤ e.toNat && e.toNat ≤ 8)
/-- The field check of CPYRED and its like. -/
def okCopyReduce (w : Nat) : Bool :=
  let expl := (fld w 47 1 == 1)
  let eng := BitVec.ofNat 5 (fld w 42 5)
  let ty := BitVec.ofNat 2 (fld w 38 2)
  (expl || eng == 0) && (ty != 3)
/-- The field check of TSPAWN and its like. -/
def okTspawn (w : Nat) : Bool :=
  let b := BitVec.ofNat 5 (fld w 11 5)
  let n := BitVec.ofNat 3 (fld w 1 3)
  let entry := BitVec.ofNat 32 (fld w 32 32)
  n.toNat ≤ 3 && (n != 0 || b == 0) && b.toNat + n.toNat ≤ 32 && entry.toNat % 4 == 0
/-- The field check of TKEY and its like. -/
def okTkey (w : Nat) : Bool :=
  let which := BitVec.ofNat 3 (fld w 32 3)
  which != 7
/-- The field check of VADD and its like. -/
def okVecInt (w : Nat) : Bool :=
  let b := BitVec.ofNat 5 (fld w 13 5)
  let bs := (fld w 12 1 == 1)
  let k := BitVec.ofNat 3 (fld w 9 3)
  let wd := BitVec.ofNat 2 (fld w 2 2)
  let z := (fld w 1 1 == 1)
  (maskOk k z) && (bOk b bs) && (wd != 3)
/-- The field check of VCMPEQ_B32 and its like. -/
def okVec (w : Nat) : Bool :=
  let b := BitVec.ofNat 5 (fld w 13 5)
  let bs := (fld w 12 1 == 1)
  let k := BitVec.ofNat 3 (fld w 9 3)
  let z := (fld w 1 1 == 1)
  (maskOk k z) && (bOk b bs)
/-- The field check of VABSS and its like. -/
def okVecIntOne (w : Nat) : Bool :=
  let k := BitVec.ofNat 3 (fld w 9 3)
  let wd := BitVec.ofNat 2 (fld w 2 2)
  let z := (fld w 1 1 == 1)
  (maskOk k z) && (wd != 3)
/-- The field check of VADD_FP and its like. -/
def okVecFloat (w : Nat) : Bool :=
  let b := BitVec.ofNat 5 (fld w 13 5)
  let bs := (fld w 12 1 == 1)
  let k := BitVec.ofNat 3 (fld w 9 3)
  let f := BitVec.ofNat 2 (fld w 2 2)
  let z := (fld w 1 1 == 1)
  (maskOk k z) && (bOk b bs) && (f != 3)
/-- The field check of VABS and its like. -/
def okVecFloatOne (w : Nat) : Bool :=
  let k := BitVec.ofNat 3 (fld w 9 3)
  let f := BitVec.ofNat 2 (fld w 2 2)
  let z := (fld w 1 1 == 1)
  (maskOk k z) && (f != 3)
/-- The field check of VCVT and its like. -/
def okVcvt (w : Nat) : Bool :=
  let p := BitVec.ofNat 2 (fld w 13 2)
  let k := BitVec.ofNat 3 (fld w 9 3)
  let m := BitVec.ofNat 7 (fld w 2 7)
  let z := (fld w 1 1 == 1)
  (maskOk k z) && (vcvtOk m p)
/-- The field check of VMOV and its like. -/
def okMask (w : Nat) : Bool :=
  let k := BitVec.ofNat 3 (fld w 9 3)
  let z := (fld w 1 1 == 1)
  maskOk k z
/-- The field check of VDOTT and its like. -/
def okVdott (w : Nat) : Bool :=
  let b := BitVec.ofNat 5 (fld w 13 5)
  let k := BitVec.ofNat 3 (fld w 9 3)
  let z := (fld w 1 1 == 1)
  (maskOk k z) && (b.toNat < 16)
/-- The field check of VLD and its like. -/
def okVld (w : Nat) : Bool :=
  let ord := BitVec.ofNat 2 (fld w 4 2)
  ord != 2
/-- The field check of VST and its like. -/
def okVst (w : Nat) : Bool :=
  let ord := BitVec.ofNat 2 (fld w 4 2)
  ord != 1
/-- The field check of DADD and its like. -/
def okRound (w : Nat) : Bool :=
  let r := BitVec.ofNat 3 (fld w 1 3)
  r != 6
/-- The field check of DCVT and its like. -/
def okDcvt (w : Nat) : Bool :=
  let m := BitVec.ofNat 4 (fld w 4 4)
  let r := BitVec.ofNat 3 (fld w 1 3)
  dcvtOk m r
/-- The field check of WCAS128 and its like. -/
def okPair (w : Nat) : Bool :=
  let t := BitVec.ofNat 5 (fld w 21 5)
  let b := BitVec.ofNat 5 (fld w 1 5)
  t.toNat % 2 == 0 && t != 0 && b.toNat % 2 == 0
/-- The field check of MMA and its like. -/
def okMma (w : Nat) : Bool :=
  let d := BitVec.ofNat 3 (fld w 21 3)
  let a := BitVec.ofNat 4 (fld w 16 4)
  let b := BitVec.ofNat 4 (fld w 11 4)
  let fmt := BitVec.ofNat 4 (fld w 4 4)
  let keepa := (fld w 38 1 == 1)
  let keepb := (fld w 39 1 == 1)
  fmt.toNat ≤ 10 && (fmt != 10 || d.toNat % 2 == 0) && (a != b || keepa == keepb)
/-- The field check of MMAG and its like. -/
def okMmag (w : Nat) : Bool :=
  let d := BitVec.ofNat 3 (fld w 21 3)
  let fmt := BitVec.ofNat 4 (fld w 4 4)
  fmt.toNat ≤ 10 && (fmt != 10 || d.toNat % 2 == 0)
/-- The field check of MACCST and its like. -/
def okMacc (w : Nat) : Bool :=
  let d := BitVec.ofNat 3 (fld w 21 3)
  let fmt := BitVec.ofNat 3 (fld w 48 3)
  fmt.toNat ≤ 5 && (fmt != 5 || d.toNat % 2 == 0)
/-- The field check of MWAIT and its like. -/
def okMwait (w : Nat) : Bool :=
  let n := BitVec.ofNat 4 (fld w 32 4)
  n.toNat ≤ 8
/-- Major 0x00. -/
def words00 : List WordRow :=
  [⟨0x0, 0xFFFFFFFE, fun _ => true⟩]
/-- Major 0x01. -/
def words01 : List WordRow :=
  [⟨0x4000000, 0xFC0007FE, fun _ => true⟩, ⟨0x4000010, 0xFC0007FE, fun _ => true⟩, ⟨0x4000020, 0xFC0007FE, fun _ => true⟩,
   ⟨0x4000030, 0xFC0007FE, fun _ => true⟩, ⟨0x4000040, 0xFC0007FE, fun _ => true⟩, ⟨0x4000050, 0xFC0007FE, fun _ => true⟩,
   ⟨0x4000060, 0xFC0007FE, fun _ => true⟩, ⟨0x4000070, 0xFC0007FE, fun _ => true⟩, ⟨0x4000080, 0xFC0007FE, fun _ => true⟩,
   ⟨0x4000100, 0xFC0007FE, fun _ => true⟩, ⟨0x4000110, 0xFC0007FE, fun _ => true⟩, ⟨0x4000120, 0xFC0007FE, fun _ => true⟩,
   ⟨0x4000130, 0xFC0007FE, fun _ => true⟩, ⟨0x4000140, 0xFC0007FE, fun _ => true⟩, ⟨0x4000180, 0xFC0007FE, fun _ => true⟩,
   ⟨0x4000190, 0xFC0007FE, fun _ => true⟩, ⟨0x40001A0, 0xFC0007FE, fun _ => true⟩, ⟨0x40001B0, 0xFC0007FE, fun _ => true⟩,
   ⟨0x40001C0, 0xFC0007FE, fun _ => true⟩, ⟨0x4000200, 0xFC0007FE, fun _ => true⟩, ⟨0x4000210, 0xFC0007FE, fun _ => true⟩,
   ⟨0x4000220, 0xFC0007FE, fun _ => true⟩, ⟨0x4000230, 0xFC0007FE, fun _ => true⟩, ⟨0x4000280, 0xFC0007FE, fun _ => true⟩,
   ⟨0x4000290, 0xFC0007FE, fun _ => true⟩, ⟨0x40002A0, 0xFC0007FE, fun _ => true⟩, ⟨0x40002B0, 0xFC0007FE, fun _ => true⟩,
   ⟨0x4000300, 0xFC00FFFE, fun _ => true⟩, ⟨0x4000310, 0xFC00FFFE, fun _ => true⟩, ⟨0x4000320, 0xFC00FFFE, fun _ => true⟩,
   ⟨0x4000330, 0xFC00FFFE, fun _ => true⟩, ⟨0x4000340, 0xFC00FFFE, fun _ => true⟩, ⟨0x4000380, 0xFC0007FE, fun _ => true⟩,
   ⟨0x4000390, 0xFC0007FE, fun _ => true⟩, ⟨0x40003A0, 0xFC0007FE, fun _ => true⟩, ⟨0x40003B0, 0xFC0007FE, fun _ => true⟩]
/-- Major 0x02. -/
def words02 : List WordRow :=
  [⟨0x8000000, 0xFC000000, fun _ => true⟩]
/-- Major 0x03. -/
def words03 : List WordRow :=
  [⟨0xC000000, 0xFC000000, fun _ => true⟩]
/-- Major 0x04. -/
def words04 : List WordRow :=
  [⟨0x10000000, 0xFC000000, fun _ => true⟩]
/-- Major 0x05. -/
def words05 : List WordRow :=
  [⟨0x14000000, 0xFC000000, fun _ => true⟩]
/-- Major 0x06. -/
def words06 : List WordRow :=
  [⟨0x18000000, 0xFC00FF80, fun _ => true⟩, ⟨0x18000080, 0xFC00FF80, fun _ => true⟩, ⟨0x18000100, 0xFC00FF80, fun _ => true⟩]
/-- Major 0x07. -/
def words07 : List WordRow :=
  [⟨0x1C000000, 0xFC008000, fun _ => true⟩, ⟨0x1C008000, 0xFC008000, fun _ => true⟩]
/-- Major 0x08. -/
def words08 : List WordRow :=
  [⟨0x20000000, 0xFC000000, fun _ => true⟩]
/-- Major 0x09. -/
def words09 : List WordRow :=
  [⟨0x24000000, 0xFC000000, fun _ => true⟩]
/-- Major 0x3E. -/
def words3E : List WordRow :=
  [⟨0xF8000000, 0xFC1FFFFE, fun _ => true⟩]
/-- Major 0x0A. -/
def words0A : List WordRow :=
  [⟨0x28000000, 0xFC0007F0, fun _ => true⟩, ⟨0x28000010, 0xFC0007F0, fun _ => true⟩]
/-- Major 0x0B. -/
def words0B : List WordRow :=
  [⟨0x2C000000, 0xFFC00000, fun _ => true⟩, ⟨0x2C400000, 0xFFC00000, fun _ => true⟩, ⟨0x2C800000, 0xFFC00000, fun _ => true⟩,
   ⟨0x2CC00000, 0xFFC00000, fun _ => true⟩, ⟨0x2D000000, 0xFFC00000, fun _ => true⟩, ⟨0x2D400000, 0xFFC00000, fun _ => true⟩]
/-- Major 0x0C. -/
def words0C : List WordRow :=
  [⟨0x30000000, 0xFC000000, fun _ => true⟩]
/-- Major 0x0D. -/
def words0D : List WordRow :=
  [⟨0x34000000, 0xFC000000, fun _ => true⟩]
/-- Major 0x0E. -/
def words0E : List WordRow :=
  [⟨0x38000000, 0xFFC1FFFE, fun _ => true⟩, ⟨0x38400000, 0xFFC1FFFE, fun _ => true⟩, ⟨0x38800000, 0xFFC1F000, fun _ => true⟩]
/-- Major 0x0F. -/
def words0F : List WordRow :=
  [⟨0x3C000000, 0xFC1FE000, okGetsr⟩, ⟨0x3C002000, 0xFFE0E000, okSetsr⟩, ⟨0x3C004000, 0xFFFFFFFE, fun _ => true⟩,
   ⟨0x3C006000, 0xFFFFE000, fun _ => true⟩]
/-- Major 0x10. -/
def words10 : List WordRow :=
  [⟨0x40000000, 0xFC0007C0, okFloatRound⟩, ⟨0x40000040, 0xFC0007C0, okFloatRound⟩, ⟨0x40000080, 0xFC0007C0, okFloatRound⟩,
   ⟨0x400000C0, 0xFC0007CE, okFloat⟩, ⟨0x40000100, 0xFC0007CE, okFloat⟩, ⟨0x40000140, 0xFC00FFCE, okFloat⟩, ⟨0x40000180, 0xFC00FFCE, okFloat⟩,
   ⟨0x400001C0, 0xFC0007CE, okFloat⟩, ⟨0x40000200, 0xFC0007CE, okFloat⟩, ⟨0x40000240, 0xFC0007CE, okFloat⟩, ⟨0x40000280, 0xFC0007CE, okFloat⟩,
   ⟨0x400002C0, 0xFC00FFCE, okFloat⟩, ⟨0x40000300, 0xFC00FFCE, okFloat⟩, ⟨0x40000340, 0xFC00FFCE, okFloat⟩]
/-- Major 0x11. -/
def words11 : List WordRow :=
  [⟨0x44000000, 0xFC0007C0, okFloatRound⟩, ⟨0x44000040, 0xFC0007C0, okFloatRound⟩, ⟨0x44000080, 0xFC0007C0, okFloatRound⟩,
   ⟨0x440000C0, 0xFC0007C0, okFloatRound⟩]
/-- Major 0x12. -/
def words12 : List WordRow :=
  [⟨0x48000000, 0xFC00F800, okFcvt⟩]
/-- Major 0x13. -/
def words13 : List WordRow :=
  [⟨0x4C000000, 0xFC000000, okLd⟩]
/-- Major 0x14. -/
def words14 : List WordRow :=
  [⟨0x50000000, 0xFC000000, okSt⟩]
/-- Major 0x15. -/
def words15 : List WordRow :=
  [⟨0x54000000, 0xFC0006C0, fun _ => true⟩, ⟨0x54000040, 0xFC0006C0, fun _ => true⟩, ⟨0x54000080, 0xFC0006C0, fun _ => true⟩,
   ⟨0x540000C0, 0xFC0006C0, fun _ => true⟩, ⟨0x54000200, 0xFC0006C0, fun _ => true⟩, ⟨0x54000240, 0xFC0006C0, fun _ => true⟩,
   ⟨0x54000280, 0xFC0006C0, fun _ => true⟩, ⟨0x540002C0, 0xFC0006C0, fun _ => true⟩, ⟨0x54000400, 0xFC0006C0, fun _ => true⟩,
   ⟨0x54000440, 0xFC0006C0, fun _ => true⟩, ⟨0x54000480, 0xFC0007C0, fun _ => true⟩]
/-- Major 0x16. -/
def words16 : List WordRow :=
  [⟨0x58000000, 0xFFFFFFC0, okFence⟩, ⟨0x58000100, 0xFC001F00, okPref⟩, ⟨0x58000200, 0xFFE01F00, fun _ => true⟩,
   ⟨0x58000300, 0xFFE01F00, fun _ => true⟩]
/-- Major 0x17. -/
def words17 : List WordRow :=
  [⟨0x5C000000, 0xFFE0C7FE, fun _ => true⟩, ⟨0x5C000010, 0xFFF0C7FE, fun _ => true⟩, ⟨0x5C000020, 0xFC1FC7FE, fun _ => true⟩,
   ⟨0x5C000030, 0xFE1FC7FE, fun _ => true⟩, ⟨0x5C000040, 0xFC00C7FE, okTryrecv⟩, ⟨0x5C000050, 0xFC1FC7FE, fun _ => true⟩,
   ⟨0x5C000052, 0xFC1FC7FE, fun _ => true⟩]
/-- Major 0x18. -/
def words18 : List WordRow :=
  [⟨0x60000000, 0xFC1FC7F0, okBarrier⟩, ⟨0x60000010, 0xFC00C7F0, okBarrier⟩, ⟨0x60000020, 0xFC1FC7F0, okBarrier⟩,
   ⟨0x60000030, 0xFC1FC7FE, fun _ => true⟩]
/-- Major 0x19. -/
def words19 : List WordRow :=
  [⟨0x64000000, 0xFC1FFFFE, fun _ => true⟩, ⟨0x64000010, 0xFC1FFFFE, fun _ => true⟩]
/-- Major 0x1A. -/
def words1A : List WordRow :=
  [⟨0x68000000, 0x3C0FC0007FE, okCopy⟩, ⟨0x68000010, 0x3C0FC0007FE, okCopyPair⟩, ⟨0x68000020, 0xFC0007FE, okCopyElems⟩,
   ⟨0x68000030, 0xFC0007FE, okCopyElems⟩, ⟨0x68000040, 0x300FC0007FE, okCopyReduce⟩, ⟨0x68000050, 0x3C0FC0007FE, okCopy⟩,
   ⟨0x68000060, 0x338FC0007FE, okCopy⟩, ⟨0x68000070, 0x380FC0007FE, okCopy⟩]
/-- Major 0x1B. -/
def words1B : List WordRow :=
  [⟨0x6C000000, 0xFC0007F0, okTspawn⟩, ⟨0x6C000010, 0xFFFFFFFFFFFFFFFE, fun _ => true⟩, ⟨0x6C000020, 0xFFFFFFFFFC00FFFE, fun _ => true⟩,
   ⟨0x6C000022, 0xFFFFFFFFFFE0FFFE, fun _ => true⟩, ⟨0x6C000030, 0xFFFFFFF8FC1FFFFE, okTkey⟩, ⟨0x6C000040, 0xFFFFFFFFFFFFFFFE, fun _ => true⟩]
/-- Major 0x20. -/
def words20 : List WordRow :=
  [⟨0x80000000, 0xFC0001F0, okVecInt⟩, ⟨0x80000010, 0xFC0001F0, okVecInt⟩, ⟨0x80000020, 0xFC0001F0, okVecInt⟩, ⟨0x80000030, 0xFC0001F0, okVecInt⟩,
   ⟨0x80000040, 0xFC0001F0, okVecInt⟩, ⟨0x80000050, 0xFC0001F0, okVecInt⟩, ⟨0x80000060, 0xFC0001F0, okVecInt⟩, ⟨0x80000070, 0xFC0001F0, okVecInt⟩,
   ⟨0x80000080, 0xFC0001F0, okVecInt⟩, ⟨0x80000090, 0xFC0001F0, okVecInt⟩, ⟨0x800000A0, 0xFC0001F0, okVecInt⟩, ⟨0x800000B0, 0xFC0001F0, okVecInt⟩,
   ⟨0x800000C0, 0xFC0001F0, okVecInt⟩, ⟨0x800000D0, 0xFC0001F0, okVecInt⟩, ⟨0x800000E0, 0xFC0001F0, okVecInt⟩, ⟨0x800000F0, 0xFC0001F0, okVecInt⟩,
   ⟨0x80000100, 0xFC0001F0, okVecInt⟩, ⟨0x80000110, 0xFC0001F0, okVecInt⟩, ⟨0x80000128, 0xFE0001FC, okVec⟩, ⟨0x80000138, 0xFE0001FC, okVec⟩,
   ⟨0x80000148, 0xFE0001FC, okVec⟩, ⟨0x80000150, 0xFC03F1F0, okVecIntOne⟩]
/-- Major 0x21. -/
def words21 : List WordRow :=
  [⟨0x84000000, 0xFC0001F0, okVecFloat⟩, ⟨0x84000010, 0xFC0001F0, okVecFloat⟩, ⟨0x84000020, 0xFC0001F0, okVecFloat⟩,
   ⟨0x84000030, 0xFC0001F0, okVecFloat⟩, ⟨0x84000040, 0xFC0001F0, okVecFloat⟩, ⟨0x84000050, 0xFC03F1F0, okVecFloatOne⟩,
   ⟨0x84000060, 0xFC03F1F0, okVecFloatOne⟩, ⟨0x84000070, 0xFC0001F0, okVecFloat⟩, ⟨0x84000080, 0xFE0001FC, okVec⟩, ⟨0x84000090, 0xFE0001FC, okVec⟩,
   ⟨0x840000A0, 0xFE0001FC, okVec⟩]
/-- Major 0x22. -/
def words22 : List WordRow :=
  [⟨0x88000000, 0xFC0001F0, okVecFloat⟩, ⟨0x88000010, 0xFC0001F0, okVecFloat⟩, ⟨0x88000020, 0xFC0001F0, okVecFloat⟩,
   ⟨0x88000030, 0xFC0001F0, okVecFloat⟩]
/-- Major 0x23. -/
def words23 : List WordRow :=
  [⟨0x8C000000, 0xFC039000, okVcvt⟩]
/-- Major 0x24. -/
def words24 : List WordRow :=
  [⟨0x90000000, 0xFC03F1FC, okMask⟩, ⟨0x90001004, 0xFC3C11FC, okMask⟩, ⟨0x90000008, 0xFC0001FC, okVec⟩, ⟨0x9000100C, 0xFC0011FC, okMask⟩,
   ⟨0x90000010, 0xFC03F1FC, okMask⟩, ⟨0x90000014, 0xFC03F1FC, okMask⟩, ⟨0x90001018, 0xFC001FFE, fun _ => true⟩,
   ⟨0x9000101C, 0xFC001FFE, fun _ => true⟩]
/-- Major 0x25. -/
def words25 : List WordRow :=
  [⟨0x94001000, 0xFFC011FE, fun _ => true⟩, ⟨0x94001004, 0xFFC011FE, fun _ => true⟩, ⟨0x94001008, 0xFFC011FE, fun _ => true⟩,
   ⟨0x9400100C, 0xFFC011FE, fun _ => true⟩, ⟨0x94001010, 0xFFC011FE, fun _ => true⟩, ⟨0x94001014, 0xFFC011FE, fun _ => true⟩,
   ⟨0x94001018, 0xFFC011FE, fun _ => true⟩, ⟨0x9400101C, 0xFFC011FE, fun _ => true⟩, ⟨0x94001020, 0xFFC011FE, fun _ => true⟩]
/-- Major 0x26. -/
def words26 : List WordRow :=
  [⟨0x98000000, 0xFC0001FC, okVec⟩, ⟨0x98000004, 0xFC0001FC, okVec⟩, ⟨0x98000008, 0xFC0001FC, okVec⟩, ⟨0x9800000C, 0xFC0001FC, okVec⟩,
   ⟨0x98000010, 0xFC03F1FC, okMask⟩, ⟨0x98000014, 0xFC0011FC, okVdott⟩, ⟨0x98001018, 0xFC0011FC, okMask⟩, ⟨0x9800001C, 0xFC063FFE, fun _ => true⟩]
/-- Major 0x27. -/
def words27 : List WordRow :=
  [⟨0x9C000000, 0xFE231FFE, fun _ => true⟩, ⟨0x9C000004, 0xFE231FFE, fun _ => true⟩, ⟨0x9C000008, 0xFE231FFE, fun _ => true⟩,
   ⟨0x9C00000C, 0xFE231FFE, fun _ => true⟩, ⟨0x9C000010, 0xFE23FFFE, fun _ => true⟩, ⟨0x9C001014, 0xFFE01FFE, fun _ => true⟩,
   ⟨0x9C001018, 0xFFE01FFE, fun _ => true⟩, ⟨0x9C00101C, 0xFE3C1FFE, fun _ => true⟩, ⟨0x9C001020, 0xFFE01FFE, fun _ => true⟩]
/-- Major 0x28. -/
def words28 : List WordRow :=
  [⟨0xA0000000, 0xFC00000E, okVld⟩, ⟨0xA0000002, 0xFC00000E, okVst⟩, ⟨0xA0000004, 0xFC00000E, okVld⟩, ⟨0xA0000006, 0xFC00000E, okVst⟩,
   ⟨0xA0000008, 0xFC01000E, okVld⟩, ⟨0xA000000A, 0xFC01000E, okVst⟩]
/-- Major 0x30. -/
def words30 : List WordRow :=
  [⟨0xC0000000, 0xFC0007F0, okRound⟩, ⟨0xC0000010, 0xFC0007F0, okRound⟩, ⟨0xC0000020, 0xFC0007F0, okRound⟩, ⟨0xC0000030, 0xFC0007F0, okRound⟩,
   ⟨0xC0000040, 0xFC00FFF0, okRound⟩, ⟨0xC0000050, 0xFC0007F0, okRound⟩, ⟨0xC0000060, 0xFC0007FE, fun _ => true⟩,
   ⟨0xC0000070, 0xFC0007FE, fun _ => true⟩, ⟨0xC0000080, 0xFC0007FE, fun _ => true⟩, ⟨0xC0000090, 0xFC0007FE, fun _ => true⟩,
   ⟨0xC00000A0, 0xFC0007FE, fun _ => true⟩, ⟨0xC00000B0, 0xFC00FFFE, fun _ => true⟩, ⟨0xC0000100, 0xFC0007F0, okRound⟩,
   ⟨0xC0000110, 0xFC00FFF0, okRound⟩, ⟨0xC0000200, 0xFC00FF00, okDcvt⟩]
/-- Major 0x31. -/
def words31 : List WordRow :=
  [⟨0xC4000000, 0xFC00FFFE, fun _ => true⟩, ⟨0xC4000010, 0xFC00FFFE, fun _ => true⟩, ⟨0xC4000020, 0xFC00FFFE, fun _ => true⟩,
   ⟨0xC4000030, 0xFC00FFFE, fun _ => true⟩, ⟨0xC4000040, 0xFC00FFFE, fun _ => true⟩, ⟨0xC4000050, 0xFC00FFFE, fun _ => true⟩,
   ⟨0xC4000060, 0xFC00FFFE, fun _ => true⟩, ⟨0xC4000070, 0xFC00FFFE, fun _ => true⟩]
/-- Major 0x32. -/
def words32 : List WordRow :=
  [⟨0xC8000000, 0xFC0001FC, okVec⟩, ⟨0xC8000004, 0xFC0001FC, okVec⟩, ⟨0xC8000008, 0xFC0001FC, okVec⟩, ⟨0xC800000C, 0xFC0001FC, okVec⟩,
   ⟨0xC8000010, 0xFC03F1FC, okMask⟩, ⟨0xC8001014, 0xFC0011FC, okMask⟩, ⟨0xC8000018, 0xFC0001FC, okVec⟩, ⟨0xC800001C, 0xFC0001FC, okVec⟩,
   ⟨0xC8000020, 0xFC03D1FC, okMask⟩, ⟨0xC8000024, 0xFC03D1FC, okMask⟩, ⟨0xC8000040, 0xFC0001FC, okVec⟩, ⟨0xC8000044, 0xFC03F1FC, okMask⟩,
   ⟨0xC8000048, 0xFC03F1FC, okMask⟩, ⟨0xC800004C, 0xFC03F1FC, okMask⟩, ⟨0xC8000050, 0xFC03F1FC, okMask⟩, ⟨0xC8000054, 0xFC03F1FC, okMask⟩,
   ⟨0xC8000058, 0xFC03F1FC, okMask⟩, ⟨0xC800005C, 0xFC03F1FC, okMask⟩, ⟨0xC8000060, 0xFC03F1FC, okMask⟩, ⟨0xC8000064, 0xFC03F1FC, okMask⟩]
/-- Major 0x33. -/
def words33 : List WordRow :=
  [⟨0xCC000000, 0xFC0007C0, okPair⟩, ⟨0xCC000100, 0xFC0007C0, okPair⟩, ⟨0xCC000200, 0xFC0007C0, fun _ => true⟩,
   ⟨0xCC000300, 0xFC0007C0, fun _ => true⟩, ⟨0xCC000400, 0xFC0007C0, fun _ => true⟩]
/-- Major 0x34. -/
def words34 : List WordRow :=
  [⟨0xD0000000, 0xFFFFFF1FFF10870E, okMma⟩, ⟨0xD0000100, 0xFFFFFF80FF108700, okMmag⟩, ⟨0xD0000200, 0xFFFFFFFFFF1FFFFE, fun _ => true⟩,
   ⟨0xD0000210, 0xFFF80000FF0007F0, okMacc⟩, ⟨0xD0000220, 0xFFF8FFFFFF0007F0, okMacc⟩, ⟨0xD0000230, 0xFFFFFFFFFFF007FE, fun _ => true⟩,
   ⟨0xD0000232, 0xFFFFFFFFFFF007FE, fun _ => true⟩, ⟨0xD0000234, 0xFFFFFFFFFC10FFFE, fun _ => true⟩,
   ⟨0xD0000240, 0xFFFFFFFFFC00FFFE, fun _ => true⟩, ⟨0xD0000250, 0xFFFFFFF0FFFFFFFE, okMwait⟩]
/-- Major 0x38. -/
def words38 : List WordRow :=
  [⟨0xE0000000, 0xFFE007F0, fun _ => true⟩, ⟨0xE0000010, 0xFC1FF7F0, fun _ => true⟩, ⟨0xE0000020, 0xFFE007FE, fun _ => true⟩,
   ⟨0xE0000022, 0xFFFF07FE, fun _ => true⟩, ⟨0xE0000024, 0xFFFFFFFE, fun _ => true⟩, ⟨0xE0000030, 0xFC00FFFE, fun _ => true⟩,
   ⟨0xE0000040, 0xFFE0FFFE, fun _ => true⟩, ⟨0xE0000042, 0xFFE0FFFE, fun _ => true⟩, ⟨0xE0000050, 0xFC0007F0, fun _ => true⟩,
   ⟨0xE0000060, 0xFC0007F0, fun _ => true⟩, ⟨0xE0000070, 0xFC0007FE, fun _ => true⟩, ⟨0xE0000080, 0xFC0007FE, fun _ => true⟩,
   ⟨0xE0000090, 0xFFFFFFFE, fun _ => true⟩]
/-- Major 0x39. -/
def words39 : List WordRow :=
  [⟨0xE4000000, 0xFFFFE000, fun _ => true⟩, ⟨0xE4002000, 0xFFFFE000, fun _ => true⟩, ⟨0xE4004000, 0xFFFFFFFE, fun _ => true⟩]
/-- Major 0x3A. -/
def words3A : List WordRow :=
  [⟨0xE8000000, 0xFFE007F0, fun _ => true⟩, ⟨0xE8000010, 0xFFE007FE, fun _ => true⟩, ⟨0xE8000012, 0xFFFFFFFE, fun _ => true⟩,
   ⟨0xE8000020, 0xFFE0FFFE, fun _ => true⟩]
/-- Major 0x3B. -/
def words3B : List WordRow :=
  [⟨0xEC000000, 0xFC1FFFFE, fun _ => true⟩, ⟨0xEC000010, 0xFC1FFFFE, fun _ => true⟩, ⟨0xEC000020, 0xFC00FFFE, fun _ => true⟩,
   ⟨0xEC000030, 0xFC0007FA, fun _ => true⟩, ⟨0xEC000032, 0xFC0007FA, fun _ => true⟩, ⟨0xEC000040, 0xFC00FFFE, fun _ => true⟩,
   ⟨0xEC000042, 0xFC00FFFE, fun _ => true⟩, ⟨0xEC000050, 0xFC1FFFFE, fun _ => true⟩, ⟨0xEC000052, 0xFC00FFFE, fun _ => true⟩,
   ⟨0xEC000060, 0xFC1FFFFE, fun _ => true⟩, ⟨0xEC000070, 0xFC00FFFE, fun _ => true⟩]
/-- Major 0x3C. -/
def words3C : List WordRow :=
  [⟨0xF0000000, 0xFC0007F0, fun _ => true⟩, ⟨0xF0000010, 0xFC0007FE, fun _ => true⟩, ⟨0xF0000020, 0xFC00FFFE, fun _ => true⟩,
   ⟨0xF0000030, 0xFFE007FE, fun _ => true⟩]
/-- The rows of a major. -/
def wordRows (major : Nat) : List WordRow :=
  match major with
  | 0 => words00
  | 1 => words01
  | 2 => words02
  | 3 => words03
  | 4 => words04
  | 5 => words05
  | 6 => words06
  | 7 => words07
  | 8 => words08
  | 9 => words09
  | 62 => words3E
  | 10 => words0A
  | 11 => words0B
  | 12 => words0C
  | 13 => words0D
  | 14 => words0E
  | 15 => words0F
  | 16 => words10
  | 17 => words11
  | 18 => words12
  | 19 => words13
  | 20 => words14
  | 21 => words15
  | 22 => words16
  | 23 => words17
  | 24 => words18
  | 25 => words19
  | 26 => words1A
  | 27 => words1B
  | 32 => words20
  | 33 => words21
  | 34 => words22
  | 35 => words23
  | 36 => words24
  | 37 => words25
  | 38 => words26
  | 39 => words27
  | 40 => words28
  | 48 => words30
  | 49 => words31
  | 50 => words32
  | 51 => words33
  | 52 => words34
  | 56 => words38
  | 57 => words39
  | 58 => words3A
  | 59 => words3B
  | 60 => words3C
  | _ => []
/-- The words are an instruction's. -/
def assigned (w w1 : Nat) : Bool :=
  let both := w % 2 ^ 32 + w1 * 2 ^ 32
  (wordRows (fld w 26 6)).any (fun r => both &&& r.care == r.word && r.ok both)

end Sys2Proof.Machine
end

