-- ==== Sys2Proof/Machine/Code.lean ====
section
/-! DEFINITION. Fetch, blocks, the prompter and major 0x3A (R314 to R331). -/

namespace Sys2Proof.Machine

/-! ### Fetch (R314, R315) -/

/-- The outcome of the fetch check of one word. -/
inductive Fetch where
  | ok (pa : Nat) (region : Region) | bad (va : Word) | miss (asid root va : Nat)
deriving DecidableEq, Repr
/-- R315 for the word at a virtual PC. A PC that is not a multiple of 4 (from TRAPPC, LENTRY, HENTRY or a context image) fetches the 4 bytes at it
(entry 67 of the log). -/
def State.fetchCheck (s : State) (m : Strand) (pc : Word) : Fetch :=
  let g := m.code
  let va := g.base.toNat + pc.toNat
  if g.kind ≠ 1 ∨ g.x = false ∨ g.length < pc.toNat + 4 then .bad (BitVec.ofNat 64 va)
  else
    let asid := if g.sys then systemSpace else m.asid
    let root := if g.sys then s.sysRoot else m.root
    let p := s.port m.port
    match p.find asid va with
    | some l =>
      if (l.check (portDie m.port) (portCluster m.port) false false).isSome || !l.x then .bad (BitVec.ofNat 64 va) else .ok (l.addr va) l.region
    | none => if p.failedFor (.strand m.sa) asid va then .bad (BitVec.ofNat 64 va) else .miss asid root va

/-! ### Blocks (R317 to R319) -/

/-- The word of a system-class form (R38, R73). -/
def systemWord (w : Nat) : Bool :=
  let j := fld w 26 6
  let minor := fld w 4 7
  j == 0x38 || j == 0x3B || (j == 0x39 && fld w 13 3 == 2) || (j == 0x3A && decide (minor < 2)) || (j == 0x3C && minor == 1) ||
    (j == 0x0F && fld w 13 3 == 1 && (match Sr.ofNum (fld w 1 12) with | some r => r.access == .writeSystem | none => false))
/-- The word of a form that a strand of this kind does not execute (R40, R41, R224, R343). -/
def kindWord (kind : Kind) (w : Nat) : Bool :=
  let j := fld w 26 6
  let minor := fld w 4 7
  let vcore := j == 0x34 || j == 0x3B || (j == 0x38 && ((decide (5 ≤ minor) && decide (minor ≤ 8)) || (minor == 4 && fld w 1 3 == 1)))
  let heavySr := j == 0x0F && decide (fld w 13 3 < 2) && (match Sr.ofNum (fld w 1 12) with | some r => r.heavyOnly | none => false)
  match kind with
  | .lean => vcore || heavySr
  | .heavy => vcore && j != 0x34
  | .sm => j == 0x17 || j == 0x18 || j == 0x1B || (decide (0x20 ≤ j) && decide (j ≤ 0x34)) || (j == 0x38 && (minor == 3 || minor == 9)) ||
      (j == 0x1A && minor == 5) || heavySr
/-- An unassigned state-register number, or a SETSR to a read-only register (R73). -/
def badSr (w : Nat) : Bool :=
  fld w 26 6 == 0x0F && decide (fld w 13 3 < 2) && (match Sr.ofNum (fld w 1 12) with
    | some r => fld w 13 3 == 1 && r.access == .readOnly
    | none => true)
/-- The prompter gives the instruction of these words a trap stub (R319). -/
def stubWord (kind : Kind) (sys : Bool) (w w1 : Nat) : Bool :=
  !assigned w w1 || fld w 26 6 == 0 || badSr w || (systemWord w && !sys) || kindWord kind w
/-- The instruction of these words ends its block (R317). -/
def endsBlock (kind : Kind) (sys : Bool) (w w1 : Nat) : Bool :=
  let j := fld w 26 6
  let minor := fld w 4 7
  (decide (0x0B ≤ j) && decide (j ≤ 0x0E)) || j == 0x39 || (j == 0x38 && minor == 9) || (j == 0x3A && decide (minor < 2)) || stubWord kind sys w w1
/-- Where the 256 KiB instruction memory of a die holds the code of a physical address (R347, entry 69 of the log). -/
def smOffset (pa : Nat) : Nat := pa % 262144
/-- The word at a physical address as the prompter of a die reads it: a stage manager's code comes from the die's instruction memory (R347), and all
other code from memory. -/
def State.codeAt (s : State) (die : Nat) (kind : Kind) (pa : Nat) : Nat :=
  match kind, (s.die die).smImage with
  | .sm, some i => (Config.smWord i die (smOffset pa)).toNat
  | .sm, none => 0
  | _, _ => s.read pa 4
/-- The words of a block from a physical address, each with its own, and the number of its instructions. `left` words lie before the end of its
64 KiB region; a second word beyond it is at `tail`, where that is known (R317). -/
def State.blockWords (s : State) (die : Nat) (kind : Kind) (sys : Bool) (tail : Option Nat) (pa left : Nat) : Nat → List (Nat × Nat) × Nat
  | 0 => ([], 0)
  | n + 1 =>
    if left = 0 then ([], 0)
    else
      let at_ := fun (p : Nat) => (p, s.codeAt die kind p)
      let w := s.codeAt die kind pa
      let k := wordCount w
      let second := if k ≠ 2 then [] else if 2 ≤ left then [at_ (pa + 4)] else (tail.map at_).toList
      if endsBlock kind sys w ((second.map (·.2)).headD 0) || decide (left ≤ k) then ((pa, w) :: second, 1)
      else
        let r := s.blockWords die kind sys tail (pa + 4 * k) (left - k) n
        ((pa, w) :: second ++ r.1, r.2 + 1)
/-- The words of the block whose entry is at a physical address. -/
def State.wordsOf (s : State) (die : Nat) (kind : Kind) (sys : Bool) (tail : Option Nat) (pa : Nat) : List (Nat × Nat) × Nat :=
  s.blockWords die kind sys tail pa ((65536 - pa % 65536) / 4) 64
/-- A number that is no location. -/
def noPlace : Nat := 2 ^ 64
/-- The block of an entry ends with an instruction whose second word lies in the next 64 KiB region. -/
def State.straddles (s : State) (m : Strand) (pa : Nat) : Bool :=
  (s.wordsOf (saDie m.sa) m.kind m.system (some noPlace) pa).1.any (fun w => w.1 == noPlace)
/-- The fetch check of the word after the 64 KiB region of a virtual PC. -/
def State.tailFetch (s : State) (m : Strand) (pc : Word) : Fetch :=
  s.fetchCheck m (pc + BitVec.ofNat 64 (65536 - (m.code.base.toNat + pc.toNat) % 65536))
/-- Where a fetch check finds its word. -/
def Fetch.found (f : Fetch) : Option (Nat × Region) := match f with | .ok p g => some (p, g) | _ => none
/-- Where the second word that straddles the end of the block of an entry is found. -/
def State.tailOf (s : State) (m : Strand) (pc : Word) (pa : Nat) : Option (Nat × Region) :=
  if s.straddles m pa then (s.tailFetch m pc).found else none

/-! ### The translation cache (R318, R320, R330) -/

/-- The prompter reads words of a page: its slices perform the reads (R375, R378). -/
def State.watchCode (s : State) (die : Nat) (region : Region) (pas : List Nat) : State :=
  pas.foldl (fun t p => t.watchAll p 4 true false region .slice die 4 die) s

/-- The number of a kind of strand in a key. -/
def kindCode : Kind → Nat | .lean => 0 | .heavy => 1 | .sm => 2
/-- The kind of strand of a number. -/
def kindOf (n : Nat) : Kind := match n with | 0 => .lean | 1 => .heavy | _ => .sm
/-- The key of a translation; the edition is the same for all of them. -/
def xkey (pa : Nat) (kind : Kind) (sys : Bool) : Nat := pa * 8 + kindCode kind * 2 + sys.toNat
/-- What the lines of a block add to its translation (R320): a coherent line from the home L2, the LLC or HBM, another from the LLC
or HBM, whichever holds it. -/
def lineCost (die : Nat) (region : Region) (pas : List Nat) (k : Nat) : Nat :=
  ((pas.map (fun p => p / 128)).eraseDups.zipIdx).foldl (fun x l =>
    x + ((match region with
      | .priv => llcLatency die (l.1 * 128) + if Config.freeBool (k + 2 * l.2) then 0 else 250
      | r => tierLatency die (l.1 * 128) r (k + 2 * l.2)) - 44)) 0
/-- The bytes of the translation cache of a die (R14). -/
def xcacheBytes : Nat := 8 * 2 ^ 20
/-- The least recently used of a die's translations, other than the one of `key`. -/
def oldestEntry (t : Tab XEntry) (key : Nat) : Option (Nat × XEntry) :=
  (List.filter (fun e => e.1 != key && e.2.state == .valid) t).foldl (fun b e => match b with
    | none => some e
    | some x => if e.2.used < x.2.used then some e else b) none
/-- Least recently used blocks leave until the translations fit (R318, R330). -/
def evict (key : Nat) : Nat → Tab XEntry → Tab XEntry
  | 0, t => t
  | fuel + 1, t =>
    if (List.filter (fun e => e.2.state == .valid) t).foldl (fun n e => n + e.2.size) 0 ≤ xcacheBytes then t
    else match oldestEntry t key with
      | none => t
      | some e => evict key fuel (Tab.del t e.1)
/-- A translation is installed; what it takes of the cache is free. -/
def State.installBlock (s : State) (die key : Nat) (e : XEntry) : State :=
  let x : XEntry := { e with state := .valid, size := (Config.freeWord s.freeCtr).toNat % xcacheBytes + 1, used := s.cycle }
  (s.modDie die (fun d => { d with xcache := evict key (d.xcache.length + 1) (Tab.put d.xcache key x) })).bump 1
/-- A translation is looked up: it becomes the most recently used. -/
def State.useBlock (s : State) (die key : Nat) : State :=
  s.modDie die (fun d => { d with xcache := Tab.upd d.xcache key (fun e => { e with used := s.cycle }) })
/-- The words of a key are a stage manager's and lie in no page: no line is read from a cache for them (entry 69 of the log). -/
def smKey (key : Nat) : Bool := key / 2 % 4 == 2
/-- A translation begins, or begins anew: the words are read and the time of R320 runs. -/
def State.translate (s : State) (die key : Nat) (region : Region) (tail : Option (Nat × Region)) : State :=
  let b := s.wordsOf die (kindOf (key / 2 % 4)) (key % 2 == 1) (tail.map (·.1)) (key / 8)
  let pas := b.1.map (·.1)
  let far := fun (p : Nat) => match tail with | some x => x.1 == p | none => false
  let lines := lineCost die region (pas.filter (fun p => !far p)) s.freeCtr +
    (match tail with | some x => lineCost die x.2 (pas.filter far) (s.freeCtr + 2 * pas.length) | none => 0)
  let n := 40 + 2 * b.2 + (if smKey key then 0 else lines)
  let e : XEntry := { state := .pending, ends := s.cycle + n, pas := pas, words := b.1.map (·.2), region := region, tail := tail, size := 0,
                      used := s.cycle }
  ((s.modDie die (fun d => { d with xcache := Tab.put d.xcache key e })).after n (.translationEnd die key)).bump (4 * pas.length + 4)
/-- The places of a prompter in use. -/
def Die.translating (d : Die) : Nat := (d.xcache.filter (fun e => e.2.state != .valid)).length
/-- The prompter of a die takes no further block now. -/
def Die.busy (d : Die) : Bool := d.reloading || decide (8 ≤ d.translating)
/-- The blocks that wait for a place begin while there is one; at most 8 of them can (R320). -/
def letBlocksIn (die : Nat) : Nat → State → State
  | 0, s => s
  | fuel + 1, s =>
    match (s.die die).xqueue with
    | [] => s
    | (key, region, tail) :: rest =>
      if (s.die die).busy then s
      else
        let s1 := s.modDie die (fun d => { d with xqueue := rest })
        letBlocksIn die fuel (if (Tab.get? (s.die die).xcache key).isSome then s1 else s1.translate die key region tail)
/-- The blocks that wait for a place begin while there is one. -/
def State.letIn (s : State) (die n : Nat) : State := letBlocksIn die n s
/-- A block waits for a place in the prompter. -/
def Die.await (d : Die) (key : Nat) (region : Region) (tail : Option (Nat × Region)) : Die :=
  if d.xqueue.any (fun e => e.1 == key) then d else { d with xqueue := d.xqueue ++ [(key, region, tail)] }
/-- A block that the cache does not hold is asked for: its translation begins, or it waits for a place. -/
def State.askBlock (s : State) (die key : Nat) (region : Region) (tail : Option (Nat × Region)) : State :=
  if (s.die die).busy then s.modDie die (fun d => d.await key region tail) else s.translate die key region tail
/-- The strands of a die that wait for a translation. -/
def State.waiters (s : State) (die key : Nat) : List Strand :=
  s.strands.filter (fun m => saDie m.sa == die && (match m.block with | some b => b.key == key && b.words.isEmpty | none => false))
/-- An entry in another state. -/
def XEntry.setState (e : XEntry) (st : XState) : XEntry := { e with state := st }
/-- The physical address of a last word in the next 64 KiB region. -/
def XEntry.tailPa (e : XEntry) : Option Nat := e.tail.bind (fun x => if e.pas.contains x.1 then some x.1 else none)
/-- A block whose translation has ended. -/
def Block.fill (e : XEntry) (b : Block) : Block := { b with words := e.words, tail := e.tailPa }
/-- TRANSLATION_END: the block is installed and reaches the strands that wait; a doomed one is made again from words read now; an
error in a word is reported to the strands that wait (R330, R331). -/
def execTranslationEnd (die key : Nat) (s : State) : Out :=
  match Tab.get? (s.die die).xcache key with
  | none => .next s
  | some e =>
    if (s.die die).reloading || e.state == .valid || decide (s.cycle < e.ends) then .next s
    else
      let s := if smKey key then s else s.watchCode die e.region e.pas
      match e.pas.find? (fun p => !smKey key && (s.poisoned p 4 (fun _ => false)).isSome) with
      | some p =>
        let s1 := s.modDie die (fun d => { d with xcache := Tab.del d.xcache key })
        .next (((s.waiters die key).foldl (fun t m =>
          (t.modStrand m.sa (fun x => { x with block := none })).machineCheck m.sa (BitVec.ofNat 64 p)) s1).letIn die 8)
      | none =>
        if e.state == .doomed then .next (s.translate die key e.region e.tail)
        else
          .next (((s.waiters die key).foldl (fun t m =>
            t.modStrand m.sa (fun x => { x with block := x.block.map (Block.fill e) })) (s.installBlock die key e)).letIn die 8)
/-- TEMPLATE_RELOAD: the prompter goes on; every translation that was under way restarts (R331). -/
def execTemplateReload (die : Nat) (s : State) : Out :=
  let s1 := s.modDie die (fun d => { d with reloading := false })
  .next ((((s.die die).xcache.filter (fun e => e.2.state != .valid)).foldl (fun t e => t.translate die e.1 e.2.region e.2.tail) s1).letIn die 8)

/-- A die's translations whose words are hit become absent, or are doomed while under way (R330). -/
def Die.invalidate (d : Die) (hit : Nat → Bool) : Die :=
  let left := d.xcache.filter (fun e => !(e.2.state == .valid && e.2.pas.any hit))
  { d with xcache := left.map (fun e => (e.1, if e.2.state == .pending && e.2.pas.any hit then e.2.setState .doomed else e.2)) }
/-- An invalidation in every die. -/
def State.invalidate (s : State) (hit : Nat → Bool) : State := { s with dies := s.dies.map (fun d => (d.1, d.2.invalidate hit)) }
/-- A word at a physical address overlaps a range. -/
def inRange (lo n p : Nat) : Bool := overlaps p 4 lo n

/-- The block of an entry whose translation is in the cache, from a virtual PC. -/
def XEntry.block (e : XEntry) (pc : Word) (key : Nat) : Block := { base := pc, words := e.words, key := key, tail := e.tailPa }

/-! ### Major 0x3A (R326 to R329) -/

/-- The word of a CODE form. -/
def codeWord (a b minor aux : Nat) (c : Bool) : Word := formA 0x3A 0 a b minor aux c
/-- The parts of a range that lie in one page each. -/
def rangePages (va n : Nat) : List (Nat × Nat) :=
  (List.range ((va + n - 1) / 65536 - va / 65536 + 1)).map (fun i =>
    let lo := if i = 0 then va else (va / 65536 + i) * 65536
    let hi := (va / 65536 + i + 1) * 65536
    (lo, (if va + n < hi then va + n else hi) - lo))
/-- The strand's next instruction is fetched at a fresh entry. -/
def Strand.freshEntry (m : Strand) : Strand := { m with block := none }
/-- CODESYNC: the checks of R327 in their order; the accesses translate its pages. -/
def execCodesync (a b : SReg) (n : SegIx) (c : Bool) (s : State) : Out :=
  let m := s.me
  let g := m.getSeg n
  let len := (m.getS b).toNat
  s.gate (codeWord a.toNat b.toNat 0 n.toNat c) true anyKind
    (match segCheck m g false true (m.getS a) len 4 with
     | .bad cause addr => s.trap cause addr
     | .ok va =>
       if g.kind ≠ 1 then s.trap .segRights (m.getS a)
       else if len % 4 ≠ 0 then s.trap .misaligned (m.getS b)
       else if len = 0 then .next (s.mod (fun x => (x.retire 4 c).freshEntry))
       else
         let accs := (rangePages va len).zipIdx.map (fun p => accessAt m g p.2 p.1.1 p.1.2 0)
         .next ((s.mod (fun x => (x.issueOp s.cycle (.codesync va len) [] accs 0 1 4 c).freshEntry)).after 10
           (.translationConfirm m.sa m.nextQ)))
/-- CODESYNC_COMPLETION: dirty lines of the range are written back, and its translations become absent (R327). -/
def execCodesyncCompletion (sa q : Nat) (s : State) : Out :=
  match s.strand? sa with
  | none => .next s
  | some m => match m.op? q anyWhat with
    | none => .next s
    | some o =>
      let locs := o.locs
      let lines := (o.accs.filter (fun a => a.region == .priv)).filterMap (fun a => a.loc.map (fun l => (l, a.size)))
      .next (((s.flushRanges sa lines).invalidate (fun p => locs.any (fun l => inRange l.1 l.2 p))).complete sa q anyWhat)
/-- XLATINV: completes at a fixed time after issue. -/
def xlatinv (w : Word) (all : Bool) (base len time : Nat) (c : Bool) (s : State) : Out :=
  let m := s.me
  s.gate w true anyKind
    (let o : Op := { q := m.nextQ, pc := m.pc, what := .xlatinv all base len, dsts := [], accs := [], ord := 0, kind := 0,
                     stage := .away, trappable := false, flags := m.flags, issued := s.cycle }
     .next ((s.mod (fun x => ({ x with ops := x.ops ++ [o] }.retire 4 c).freshEntry)).after time (.xlatinvCompletion m.sa m.nextQ)))
/-- XLATINV.range. -/
def execXlatinvRange (a b : SReg) (c : Bool) (s : State) : Out :=
  let len := (s.me.getS b).toNat
  xlatinv (codeWord a.toNat b.toNat 1 0 c) false ((s.me.getS a).toNat % 2 ^ 48) len (96 + (len + 4095) / 4096) c s
/-- XLATINV.all. -/
def execXlatinvAll (c : Bool) (s : State) : Out := xlatinv (codeWord 0 0 1 1 c) true 0 0 640 c s
/-- XLATINV_COMPLETION. -/
def execXlatinvCompletion (sa q : Nat) (s : State) : Out :=
  match s.strand? sa with
  | none => .next s
  | some m => match m.op? q anyWhat with
    | none => .next s
    | some o => match o.what with
      | .xlatinv all base len => .next ((s.invalidate (fun p => all || inRange base len p)).complete sa q anyWhat)
      | _ => .next s
/-- XLATPRE: the block of an entry is translated in advance, as on a miss; it never traps (R329). A virtual PC that is no entry, since it is not
4-byte aligned, asks for nothing (entry 67 of the log). -/
def execXlatpre (a : SReg) (c : Bool) (s : State) : Out :=
  let m := s.me
  let pc : Word := ((m.getS a).setWidth 32).setWidth 64
  let s1 := s.fin 4 c
  if pc.toNat % 4 ≠ 0 then .next s1
  else match s.fetchCheck m pc with
    | .bad _ => .next s1
    | .miss asid root va => .next (s1.startWalk m.port (.background m.troupe) .fetch asid root va)
    | .ok pa region =>
      let die := saDie m.sa
      let key := xkey pa m.kind m.system
      if (Tab.get? (s.die die).xcache key).isSome then .next (s1.useBlock die key)
      else match s.straddles m pa, s.tailFetch m pc with
        | true, .miss asid root va => .next (s1.startWalk m.port (.background m.troupe) .fetch asid root va)
        | _, _ => .next (s1.askBlock die key region (s.tailOf m pc pa))

/-- The mark of a strand that waits for a line of instruction memory; no address space has such a page. -/
def refetchMark (line : Nat) : Nat × Nat := (systemSpace, 2 ^ 64 + line)
/-- The line of instruction memory that a stage-manager strand fetches at a physical address, if an error has struck it (R347). -/
def State.lineLost (s : State) (m : Strand) (pa : Nat) : Bool := m.kind == .sm && (s.die (saDie m.sa)).smLost.contains (smOffset pa / 128)
/-- The current strand waits while a line is fetched again from the image copy in HBM, whose base die is free (R347). -/
def State.refetch (s : State) (pa : Nat) : State :=
  ((s.bump 1).mod (fun m => { m with xwait := some (refetchMark (smOffset pa / 128)) })).after (if Config.freeBool s.freeCtr then 420 else 480)
    (.instructionMemoryRefetch s.me.sa)
/-- INSTRUCTION_MEMORY_REFETCH: the struck line is back and the strand goes on (R347). -/
def execInstructionMemoryRefetch (sa : Nat) (s : State) : Out :=
  match (s.strand? sa).bind (fun m => m.xwait) with
  | none => .next s
  | some x =>
    if x.2 < 2 ^ 64 then .next s
    else .next ((s.modDie (saDie sa) (fun d => { d with smLost := d.smLost.filter (fun l => l != x.2 - 2 ^ 64) })).modStrand sa
      (fun m => { m with xwait := none }))

end Sys2Proof.Machine
end

