-- ==== Sys2Proof/Machine/Int.lean ====
section
/-! DEFINITION. Integer, address and control instructions, state access, NOP and PAUSE (chapter 03, R76 to R90),
and ILL (R39). -/

namespace Sys2Proof.Machine

/-- The integer of a word, signed. -/
def si (x : Word) : Int := x.toInt
/-- Counts leading zeros; 64 for 0. -/
def clz64 (x : Word) : Nat := ((List.range 64).find? (fun i => x.getLsbD (63 - i))).getD 64
/-- Counts trailing zeros; 64 for 0. -/
def ctz64 (x : Word) : Nat := ((List.range 64).find? (fun i => x.getLsbD i)).getD 64
/-- Counts one bits. -/
def popc64 (x : Word) : Nat := ((List.range 64).filter (fun i => x.getLsbD i)).length
/-- Reverses the bytes. -/
def bswap64 (x : Word) : Word :=
  x.extractLsb' 0 8 ++ x.extractLsb' 8 8 ++ x.extractLsb' 16 8 ++ x.extractLsb' 24 8 ++
  x.extractLsb' 32 8 ++ x.extractLsb' 40 8 ++ x.extractLsb' 48 8 ++ x.extractLsb' 56 8
/-- Bits pos to pos + len − 1 of x; bits above 63 read zero (R78). -/
def fieldOf (x y : Word) : Nat := x.toNat / 2 ^ fieldPos y % 2 ^ fieldLen y
/-- The quotient and remainder of R77 for a non-zero divisor. -/
def divS (x y : Word) : Word := cut 64 (Int.tdiv x.toInt y.toInt)
def remS (x y : Word) : Word := cut 64 (x.toInt - y.toInt * Int.tdiv x.toInt y.toInt)
def divU (x y : Word) : Word := BitVec.ofNat 64 (x.toNat / y.toNat)
def remU (x y : Word) : Word := BitVec.ofNat 64 (x.toNat - y.toNat * (x.toNat / y.toNat))

/-- s[d] := f(s[a], s[b]) (R76). -/
def alu (f : Word → Word → Word) (d a b : SReg) (c : Bool) (s : State) : Out :=
  .next (s.finS d (f (s.me.getS a) (s.me.getS b)) 4 c)
/-- s[d] := f(s[a]). -/
def alu1 (f : Word → Word) (d a : SReg) (c : Bool) (s : State) : Out := .next (s.finS d (f (s.me.getS a)) 4 c)
/-- The division forms of R77: `q` is the result for a non-zero divisor, `z` for a zero one. -/
def division (q : Word → Word → Word) (z : Word → Word) (d a b : SReg) (c : Bool) (s : State) : Out :=
  let x := s.me.getS a
  let y := s.me.getS b
  if y = 0 then
    if s.me.fctl.getLsbD 9 then s.trap .intDivzero x else .next (s.finS d (z x) 4 c)
  else .next (s.finS d (q x y) 4 c)

/-- x + y (R76). -/
def execAdd (d a b : SReg) (c : Bool) (s : State) : Out := alu (fun x y => x + y) d a b c s
/-- x − y (R76). -/
def execSub (d a b : SReg) (c : Bool) (s : State) : Out := alu (fun x y => x - y) d a b c s
/-- xs × ys, low 64 bits (R76). -/
def execMul (d a b : SReg) (c : Bool) (s : State) : Out := alu (fun x y => cut 64 (si x * si y)) d a b c s
/-- (xs × ys) >> 64, arithmetic (R76). -/
def execMulh (d a b : SReg) (c : Bool) (s : State) : Out := alu (fun x y => cut 64 (si x * si y / 2 ^ 64)) d a b c s
/-- (xu × yu) >> 64 (R76). -/
def execMulhn (d a b : SReg) (c : Bool) (s : State) : Out := alu (fun x y => BitVec.ofNat 64 (x.toNat * y.toNat / 2 ^ 64)) d a b c s
/-- DIV: rounded toward zero; a zero divisor gives the table's value, or INT_DIVZERO with FCTL.IDZE (R77). -/
def execDiv (d a b : SReg) (c : Bool) (s : State) : Out := division divS (fun _ => BitVec.allOnes 64) d a b c s
/-- DIVN: rounded toward zero; a zero divisor gives the table's value, or INT_DIVZERO with FCTL.IDZE (R77). -/
def execDivn (d a b : SReg) (c : Bool) (s : State) : Out := division divU (fun _ => BitVec.allOnes 64) d a b c s
/-- REM: rounded toward zero; a zero divisor gives the table's value, or INT_DIVZERO with FCTL.IDZE (R77). -/
def execRem (d a b : SReg) (c : Bool) (s : State) : Out := division remS (fun x => x) d a b c s
/-- REMN: rounded toward zero; a zero divisor gives the table's value, or INT_DIVZERO with FCTL.IDZE (R77). -/
def execRemn (d a b : SReg) (c : Bool) (s : State) : Out := division remU (fun x => x) d a b c s
/-- AND: x & y. (R76) -/
def execAnd (d a b : SReg) (c : Bool) (s : State) : Out := alu (fun x y => x &&& y) d a b c s
/-- OR: x | y. (R76) -/
def execOr (d a b : SReg) (c : Bool) (s : State) : Out := alu (fun x y => x ||| y) d a b c s
/-- XOR: x ^ y. (R76) -/
def execXor (d a b : SReg) (c : Bool) (s : State) : Out := alu (fun x y => x ^^^ y) d a b c s
/-- ANDN: x & ~y. (R76) -/
def execAndn (d a b : SReg) (c : Bool) (s : State) : Out := alu (fun x y => x &&& ~~~y) d a b c s
/-- ORN: x | ~y. (R76) -/
def execOrn (d a b : SReg) (c : Bool) (s : State) : Out := alu (fun x y => x ||| ~~~y) d a b c s
/-- SLL: xu << n, n = y[5:0]. (R76) -/
def execSll (d a b : SReg) (c : Bool) (s : State) : Out := alu (fun x y => x <<< (y.toNat % 64)) d a b c s
/-- SRL: xu >> n. (R76) -/
def execSrl (d a b : SReg) (c : Bool) (s : State) : Out := alu (fun x y => x >>> (y.toNat % 64)) d a b c s
/-- SRA: xs >> n. (R76) -/
def execSra (d a b : SReg) (c : Bool) (s : State) : Out := alu (fun x y => x.sshiftRight (y.toNat % 64)) d a b c s
/-- ROL: a rotate left by n; by 0 it returns x. (R76) -/
def execRol (d a b : SReg) (c : Bool) (s : State) : Out := alu (fun x y => (x <<< (y.toNat % 64)) ||| (x >>> (64 - y.toNat % 64))) d a b c s
/-- ROR: a rotate right by n. (R76) -/
def execRor (d a b : SReg) (c : Bool) (s : State) : Out := alu (fun x y => (x >>> (y.toNat % 64)) ||| (x <<< (64 - y.toNat % 64))) d a b c s
/-- MIN: xs if xs < ys, else ys. (R76) -/
def execMin (d a b : SReg) (c : Bool) (s : State) : Out := alu (fun x y => if si x < si y then x else y) d a b c s
/-- MAX: xs if xs > ys, else ys. (R76) -/
def execMax (d a b : SReg) (c : Bool) (s : State) : Out := alu (fun x y => if si y < si x then x else y) d a b c s
/-- MINN: xu if xu < yu, else yu. (R76) -/
def execMinn (d a b : SReg) (c : Bool) (s : State) : Out := alu (fun x y => if x.toNat < y.toNat then x else y) d a b c s
/-- MAXN: xu if xu > yu, else yu. (R76) -/
def execMaxn (d a b : SReg) (c : Bool) (s : State) : Out := alu (fun x y => if y.toNat < x.toNat then x else y) d a b c s
/-- SLT: 1 if xs < ys. (R76) -/
def execSlt (d a b : SReg) (c : Bool) (s : State) : Out := alu (fun x y => ofBool (decide (si x < si y))) d a b c s
/-- SLTN: 1 if xu < yu. (R76) -/
def execSltn (d a b : SReg) (c : Bool) (s : State) : Out := alu (fun x y => ofBool (decide (x.toNat < y.toNat))) d a b c s
/-- SEQ: 1 if x = y. (R76) -/
def execSeq (d a b : SReg) (c : Bool) (s : State) : Out := alu (fun x y => ofBool (x == y)) d a b c s
/-- SNE: 1 if x ≠ y. (R76) -/
def execSne (d a b : SReg) (c : Bool) (s : State) : Out := alu (fun x y => ofBool (x != y)) d a b c s
/-- CLZ (R76). -/
def execClz (d a : SReg) (c : Bool) (s : State) : Out := alu1 (fun x => BitVec.ofNat 64 (clz64 x)) d a c s
/-- CTZ (R76). -/
def execCtz (d a : SReg) (c : Bool) (s : State) : Out := alu1 (fun x => BitVec.ofNat 64 (ctz64 x)) d a c s
/-- POPC (R76). -/
def execPopc (d a : SReg) (c : Bool) (s : State) : Out := alu1 (fun x => BitVec.ofNat 64 (popc64 x)) d a c s
/-- BREV (R76). -/
def execBrev (d a : SReg) (c : Bool) (s : State) : Out := alu1 (fun x => x.reverse) d a c s
/-- BSWAP (R76). -/
def execBswap (d a : SReg) (c : Bool) (s : State) : Out := alu1 (fun x => bswap64 x) d a c s
/-- EXT: the field, sign-extended (R78). -/
def execExt (d a b : SReg) (c : Bool) (s : State) : Out := alu (fun x y => cut 64 (sextN (fieldOf x y) (fieldLen y))) d a b c s
/-- EXTN: the field, zero-extended (R78). -/
def execExtn (d a b : SReg) (c : Bool) (s : State) : Out := alu (fun x y => BitVec.ofNat 64 (fieldOf x y)) d a b c s
/-- DEP: s[a] deposited into the field of s[d]; bits beyond 63 are lost (R78). -/
def execDep (d a b : SReg) (c : Bool) (s : State) : Out :=
  let y := s.me.getS b
  let mask := BitVec.ofNat 64 ((2 ^ fieldLen y - 1) * 2 ^ fieldPos y)
  .next (s.finS d ((s.me.getS d &&& ~~~mask) ||| ((s.me.getS a <<< fieldPos y) &&& mask)) 4 c)
/-- SEL: s[a] if s[d] ≠ 0, else s[b] (R78). -/
def execSel (d a b : SReg) (c : Bool) (s : State) : Out :=
  .next (s.finS d (if s.me.getS d ≠ 0 then s.me.getS a else s.me.getS b) 4 c)
/-- ADDI: s[a] + sext(imm15) (R79). -/
def execAddi (d a : SReg) (i : BitVec 15) (c : Bool) (s : State) : Out := alu1 (fun x => x + sx i) d a c s
/-- ANDI: s[a] & sext(imm15) (R79). -/
def execAndi (d a : SReg) (i : BitVec 15) (c : Bool) (s : State) : Out := alu1 (fun x => x &&& sx i) d a c s
/-- ORI: s[a] | zext(imm15) (R79). -/
def execOri (d a : SReg) (i : BitVec 15) (c : Bool) (s : State) : Out := alu1 (fun x => x ||| zx i) d a c s
/-- XORI: s[a] ^ zext(imm15) (R79). -/
def execXori (d a : SReg) (i : BitVec 15) (c : Bool) (s : State) : Out := alu1 (fun x => x ^^^ zx i) d a c s
/-- SLLI (R80). -/
def execSlli (d a : SReg) (i : BitVec 6) (c : Bool) (s : State) : Out := alu1 (fun x => x <<< i.toNat) d a c s
/-- SRLI (R80). -/
def execSrli (d a : SReg) (i : BitVec 6) (c : Bool) (s : State) : Out := alu1 (fun x => x >>> i.toNat) d a c s
/-- SRAI (R80). -/
def execSrai (d a : SReg) (i : BitVec 6) (c : Bool) (s : State) : Out := alu1 (fun x => x.sshiftRight i.toNat) d a c s
/-- SLTI: signed compare with imm14 (R81). -/
def execSlti (d a : SReg) (i : BitVec 14) (c : Bool) (s : State) : Out := alu1 (fun x => ofBool (decide (si x < i.toInt))) d a c s
/-- SLTNI: unsigned compare with imm14 (R81). -/
def execSltni (d a : SReg) (i : BitVec 14) (c : Bool) (s : State) : Out := alu1 (fun x => ofBool (decide (x.toNat < i.toNat))) d a c s
/-- MULI: sext(s[a]) × sext(imm15), low 64 bits (R82). -/
def execMuli (d a : SReg) (i : BitVec 15) (c : Bool) (s : State) : Out := alu1 (fun x => cut 64 (si x * i.toInt)) d a c s
/-- LUI: the upper half becomes s[a][31:0] + sext(imm15) modulo 2^32; the lower half of s[d] stays (R83). -/
def execLui (d a : SReg) (i : BitVec 15) (c : Bool) (s : State) : Out :=
  let u : BitVec 32 := (s.me.getS a).setWidth 32 + i.signExtend 32
  .next (s.finS d (u ++ (s.me.getS d).setWidth 32) 4 c)
/-- LI: sext(imm32), two words (R84). -/
def execLi (d : SReg) (imm : BitVec 32) (c : Bool) (s : State) : Out := .next (s.finS d (sx imm) 8 c)
/-- LEA: s[a] + (s[b] << aux) (R85). -/
def execLea (d a b : SReg) (sh : BitVec 3) (c : Bool) (s : State) : Out := alu (fun x y => x + (y <<< sh.toNat)) d a b c s
/-- ADDX: s[a] + (zext(s[b][31:0]) << aux) (R85). -/
def execAddx (d a b : SReg) (sh : BitVec 3) (c : Bool) (s : State) : Out :=
  alu (fun x y => x + ((y.setWidth 32 : BitVec 32).setWidth 64 <<< sh.toNat)) d a b c s

/-- A compare-branch: PC moves by the displacement if the condition holds, past the word if not (R86). -/
def branch (cond : Word → Word → Bool) (a b : SReg) (i : BitVec 11) (c : Bool) (s : State) : Out :=
  let t := if cond (s.me.getS a) (s.me.getS b) then s.me.pc + disp i else s.me.pc + 4
  .next (s.mod (fun m => m.goto s.cycle t c))

/-- BEQ: taken when x = y (R86). -/
def execBeq (a b : SReg) (i : BitVec 11) (c : Bool) (s : State) : Out := branch (fun x y => x == y) a b i c s
/-- BNE: taken when x ≠ y (R86). -/
def execBne (a b : SReg) (i : BitVec 11) (c : Bool) (s : State) : Out := branch (fun x y => x != y) a b i c s
/-- BLT: taken when xs < ys (R86). -/
def execBlt (a b : SReg) (i : BitVec 11) (c : Bool) (s : State) : Out := branch (fun x y => decide (si x < si y)) a b i c s
/-- BGE: taken when xs ≥ ys (R86). -/
def execBge (a b : SReg) (i : BitVec 11) (c : Bool) (s : State) : Out := branch (fun x y => decide (si y ≤ si x)) a b i c s
/-- BLTN: taken when xu < yu (R86). -/
def execBltn (a b : SReg) (i : BitVec 11) (c : Bool) (s : State) : Out := branch (fun x y => decide (x.toNat < y.toNat)) a b i c s
/-- BGEN: taken when xu ≥ yu (R86). -/
def execBgen (a b : SReg) (i : BitVec 11) (c : Bool) (s : State) : Out := branch (fun x y => decide (y.toNat ≤ x.toNat)) a b i c s

/-- JMP (R87). -/
def execJmp (i : BitVec 25) (c : Bool) (s : State) : Out := .next (s.mod (fun m => m.goto s.cycle (m.pc + disp i) c))
/-- CALL: the link goes to s31, then as JMP (R87). -/
def execCall (i : BitVec 25) (c : Bool) (s : State) : Out :=
  .next (s.mod (fun m => (m.setS 31 (m.pc + 4)).goto s.cycle (m.pc + disp i) c))
/-- JR: a misaligned target traps and nothing is written (R88, R89). -/
def execJr (a : SReg) (c : Bool) (s : State) : Out :=
  let t := s.me.getS a
  if t.toNat % 4 ≠ 0 then s.trap .misaligned t else .next (s.mod (fun m => m.goto s.cycle t c))
/-- CALLR: s[a] is read before s31 is written (R88, R89). -/
def execCallr (a : SReg) (c : Bool) (s : State) : Out :=
  let t := s.me.getS a
  if t.toNat % 4 ≠ 0 then s.trap .misaligned t else .next (s.mod (fun m => (m.setS 31 (m.pc + 4)).goto s.cycle t c))
/-- DBNZ: s[a] counts down and the branch is taken while the new value is not 0; with s0 it always is (R88). -/
def execDbnz (a : SReg) (i : BitVec 11) (c : Bool) (s : State) : Out :=
  let v := s.me.getS a - 1
  .next (s.mod (fun m => (m.setS a v).goto s.cycle (if v ≠ 0 then m.pc + disp i else m.pc + 4) c))

/-- The word of an SR form (R90). -/
def srWord (d a : SReg) (op : Nat) (n : BitVec 12) (c : Bool) : Word :=
  words (0x3C000000 + d.toNat * 2 ^ 21 + a.toNat * 2 ^ 16 + op * 2 ^ 13 + n.toNat * 2 + c.toNat) 0

/-- GETSR: reads a state register; CFRONT latches the matching spawn id (R75, R90). A number that no register has
raises ILLEGAL, and a heavy-only register raises it on another kind of strand (R73). -/
def execGetsr (d : SReg) (n : BitVec 12) (c : Bool) (s : State) : Out :=
  let w := srWord d 0 0 n c
  match Sr.ofNum n.toNat with
  | none => s.trap .illegal w
  | some r =>
    if r.heavyOnly && s.me.kind != .heavy then s.trap .illegal w
    else
      let s1 := if r = .cfront then s.mod (fun m => { m with frontLatch := (frontOf s m).2 }) else s
      .next (s1.finS d (readSr s s.me r) 4 c)

/-- SETSR: ILLEGAL on an unassigned or read-only number, PRIVILEGED on a system register outside system code, then
ILLEGAL for a heavy-only register elsewhere; otherwise the writable bits are written (R73, R90). -/
def execSetsr (a : SReg) (n : BitVec 12) (c : Bool) (s : State) : Out :=
  let w := srWord 0 a 1 n c
  match Sr.ofNum n.toNat with
  | none => s.trap .illegal w
  | some r =>
    if r.access = .readOnly then s.trap .illegal w
    else if r.access = .writeSystem ∧ s.me.system = false then s.trap .privileged w
    else if r.heavyOnly && s.me.kind != .heavy then s.trap .illegal w
    else .next ((writeSr s r (s.me.getS a)).fin 4 c)

/-- NOP has no effect (R90). -/
def execNop (c : Bool) (s : State) : Out := .next (s.fin 4 c)
/-- PAUSE: the strand forfeits its next n turns; a heavy strand does not issue in the next n cycles (R90). -/
def execPause (n : BitVec 12) (c : Bool) (s : State) : Out :=
  .next (s.mod (fun m => match m.kind with
    | .heavy => { m.retire 4 c with readyAt := s.cycle + n.toNat + 1, readyCls := .vacant, forfeitQ := m.nextQ }
    | _ => { m.retire 4 c with forfeit := n.toNat, forfeitCls := .vacant, forfeitQ := m.nextQ }))

/-- ILL raises ILLEGAL (R39). -/
def execIll (c : Bool) (s : State) : Out := s.trap .illegal (words c.toNat 0)

end Sys2Proof.Machine
end

