-- ==== Sys2Proof/Machine/Rank.lean ====
section
/-! DEFINITION. Rank programs: the checks of RANKSET and the call board's evaluator (R336, R337). -/

namespace Sys2Proof.Machine

/-- The instruction that a word of a rank program is: majors 0x01 to 0x0B, or NOP. -/
def rankDecode (w : Nat) : Option Instr :=
  let r := match fld w 26 6 with
    | 1 => decMajor01 w
    | 2 => decMajor02 w
    | 3 => decMajor03 w
    | 4 => decMajor04 w
    | 5 => decMajor05 w
    | 6 => decMajor06 w
    | 7 => decMajor07 w
    | 8 => decMajor08 w
    | 9 => decMajor09 w
    | 10 => decMajor0A w
    | 11 => decMajor0B w
    | 15 => if fld w 13 3 = 2 then decMajor0F w else none
    | _ => none
  match r with
  | some i => if i.wf then some i else none
  | none => none
/-- What an instruction of a rank program does to the evaluator's registers and PC. -/
def rankExec (i : Instr) (s : State) : Out :=
  match i with
  | .add d a b c => Sys2Proof.Machine.execAdd d a b c s
  | .sub d a b c => Sys2Proof.Machine.execSub d a b c s
  | .mul d a b c => Sys2Proof.Machine.execMul d a b c s
  | .mulh d a b c => Sys2Proof.Machine.execMulh d a b c s
  | .mulhn d a b c => Sys2Proof.Machine.execMulhn d a b c s
  | .div d a b c => Sys2Proof.Machine.execDiv d a b c s
  | .divn d a b c => Sys2Proof.Machine.execDivn d a b c s
  | .rem d a b c => Sys2Proof.Machine.execRem d a b c s
  | .remn d a b c => Sys2Proof.Machine.execRemn d a b c s
  | .and d a b c => Sys2Proof.Machine.execAnd d a b c s
  | .or d a b c => Sys2Proof.Machine.execOr d a b c s
  | .xor d a b c => Sys2Proof.Machine.execXor d a b c s
  | .andn d a b c => Sys2Proof.Machine.execAndn d a b c s
  | .orn d a b c => Sys2Proof.Machine.execOrn d a b c s
  | .sll d a b c => Sys2Proof.Machine.execSll d a b c s
  | .srl d a b c => Sys2Proof.Machine.execSrl d a b c s
  | .sra d a b c => Sys2Proof.Machine.execSra d a b c s
  | .rol d a b c => Sys2Proof.Machine.execRol d a b c s
  | .ror d a b c => Sys2Proof.Machine.execRor d a b c s
  | .min d a b c => Sys2Proof.Machine.execMin d a b c s
  | .max d a b c => Sys2Proof.Machine.execMax d a b c s
  | .minn d a b c => Sys2Proof.Machine.execMinn d a b c s
  | .maxn d a b c => Sys2Proof.Machine.execMaxn d a b c s
  | .slt d a b c => Sys2Proof.Machine.execSlt d a b c s
  | .sltn d a b c => Sys2Proof.Machine.execSltn d a b c s
  | .seq d a b c => Sys2Proof.Machine.execSeq d a b c s
  | .sne d a b c => Sys2Proof.Machine.execSne d a b c s
  | .clz d a c => Sys2Proof.Machine.execClz d a c s
  | .ctz d a c => Sys2Proof.Machine.execCtz d a c s
  | .popc d a c => Sys2Proof.Machine.execPopc d a c s
  | .brev d a c => Sys2Proof.Machine.execBrev d a c s
  | .bswap d a c => Sys2Proof.Machine.execBswap d a c s
  | .ext d a b c => Sys2Proof.Machine.execExt d a b c s
  | .extn d a b c => Sys2Proof.Machine.execExtn d a b c s
  | .dep d a b c => Sys2Proof.Machine.execDep d a b c s
  | .sel d a b c => Sys2Proof.Machine.execSel d a b c s
  | .addi d a im c => Sys2Proof.Machine.execAddi d a im c s
  | .andi d a im c => Sys2Proof.Machine.execAndi d a im c s
  | .ori d a im c => Sys2Proof.Machine.execOri d a im c s
  | .xori d a im c => Sys2Proof.Machine.execXori d a im c s
  | .slli d a sh c => Sys2Proof.Machine.execSlli d a sh c s
  | .srli d a sh c => Sys2Proof.Machine.execSrli d a sh c s
  | .srai d a sh c => Sys2Proof.Machine.execSrai d a sh c s
  | .slti d a im c => Sys2Proof.Machine.execSlti d a im c s
  | .sltni d a im c => Sys2Proof.Machine.execSltni d a im c s
  | .muli d a im c => Sys2Proof.Machine.execMuli d a im c s
  | .lui d a im c => Sys2Proof.Machine.execLui d a im c s
  | .lea d a b sh c => Sys2Proof.Machine.execLea d a b sh c s
  | .addx d a b sh c => Sys2Proof.Machine.execAddx d a b sh c s
  | .beq a b im c => Sys2Proof.Machine.execBeq a b im c s
  | .bne a b im c => Sys2Proof.Machine.execBne a b im c s
  | .blt a b im c => Sys2Proof.Machine.execBlt a b im c s
  | .bge a b im c => Sys2Proof.Machine.execBge a b im c s
  | .bltn a b im c => Sys2Proof.Machine.execBltn a b im c s
  | .bgen a b im c => Sys2Proof.Machine.execBgen a b im c s
  | .nop c => Sys2Proof.Machine.execNop c s
  | _ => .next s
/-- Word `i` satisfies R336: it is such an instruction with a clear cue bit, and a branch goes forward, at most to the end. -/
def rankWordOk (i w : Nat) : Bool :=
  (rankDecode w).isSome && w % 2 == 0 &&
  (fld w 26 6 != 0x0B || (let t := sextN (fld w 1 11) 11; decide (1 ≤ t) && decide ((i : Int) + t ≤ 16)))
/-- The first bad word of a program. -/
def rankBad (ws : List Nat) : Option Nat := (List.range 16).find? (fun i => !rankWordOk i (ws.getD i 0))
/-- The evaluator runs on from its PC to the end of the program. -/
def rankRun (ws : List Nat) : Nat → State → State
  | 0, s => s
  | n + 1, s =>
    if 64 ≤ s.me.pc.toNat then s
    else match rankDecode (ws.getD (s.me.pc.toNat / 4) 0) with
      | none => s
      | some i => match rankExec i s with
        | .next t => rankRun ws n t
        | _ => s
/-- The evaluator's registers at the start (R336). -/
def rankStart (prio deadline age kind qn : Word) : State :=
  { State.reset with me := { Strand.fresh 0 .lean 4 with
      regs := Vector.ofFn (fun i => match i.val with | 1 => prio | 2 => deadline | 3 => age | 4 => kind | 5 => qn | _ => 0) } }
/-- The rank of a queue. -/
def rankOf (ws : List Nat) (prio deadline age kind qn : Word) : Nat :=
  ((rankRun ws 16 (rankStart prio deadline age kind qn)).me.getS 1).toNat % 2 ^ 32

end Sys2Proof.Machine
end

