-- ==== Sys2Proof/Machine/Queue.lean ====
section
/-! DEFINITION. Work queues, the call board and the forms of major 0x3B that serve them (R332 to R342, R348). -/

namespace Sys2Proof.Machine

/-- The word of a QUEUE form. -/
def queueWord (d a b minor aux : Nat) (c : Bool) : Word := formA 0x3B d a b minor aux c
/-- A packed result (R339). -/
def packed (kind status value : Nat) : Word := BitVec.ofNat 64 (kind % 256 * 2 ^ 40 + status % 256 * 2 ^ 32 + value % 2 ^ 32)
/-- The module's queues. -/
def queueCount : Nat := 131072

/-! ### States (R332, R335, R348) -/

/-- The strand that maps a queue. -/
def State.mapper (s : State) (q : Nat) : Option Strand := s.strands.find? (fun m => m.mapped == some q)
/-- Unconsumed packets. -/
def Queue.count (q : Queue) : Nat := q.wridx.toNat - q.rdidx.toNat
/-- The size of the ring. -/
def Queue.size (q : Queue) : Nat := 2 ^ q.logn.toNat
/-- The device virtual address of the oldest unconsumed packet. -/
def Queue.head (q : Queue) : Nat := q.ring.toNat + 64 * (q.rdidx.toNat % q.size)
/-- An insertion on the board is under way. -/
def State.inserting (s : State) (q : Nat) : Bool := (s.die (queueDie q)).inserts.any (fun e => e.1 == q)
/-- The leaf for an address of a queue's space: the port's entry, or the tables' as they stand, without the time of a walk. -/
def State.peekLeaf (s : State) (q : Queue) (port va : Nat) : Option Leaf := s.leafOf port q.asid.toNat q.root.toNat va
/-- The rank that the die's program gives a queue now (R335, R336); a head packet that cannot be read gives values that the spec does not
state. -/
def State.rankQueue (s : State) (qn : Nat) : Nat :=
  let q := s.queue qn
  let die := queueDie qn
  let age := s.cycle - q.acycle.toNat
  let head : Nat × Nat := match s.peekLeaf q (96 + die) q.head with
    | some l => (s.read (l.addr q.head) 1, s.read (l.addr q.head + 4) 4)
    | none => ((Config.freeWord s.freeCtr).toNat % 256, (Config.freeWord (s.freeCtr + 1)).toNat % 2 ^ 32)
  rankOf (s.die die).rankProg (q.prio.setWidth 64) (BitVec.ofNat 64 head.2) (BitVec.ofNat 64 (if 2 ^ 32 ≤ age then 2 ^ 32 - 1 else age))
    (BitVec.ofNat 64 head.1) (BitVec.ofNat 64 qn)
/-- An insertion begins: the rank program runs on the queue as it is now, for 16 cycles (R335). -/
def State.insertQueue (s : State) (q : Nat) : State :=
  ((s.modDie (queueDie q) (fun d => { d with inserts := d.inserts ++ [(q, s.rankQueue q, s.cycle + 16)] })).bump 2).after 16 (.boardInsertion q)
/-- A queue leaves the board, and an insertion of it under way ends; the lowest queue that waits outside moves up. -/
def State.leaveBoard (s : State) (q : Nat) : State :=
  let d := s.die (queueDie q)
  let was := d.board.any (fun e => e.2 == q)
  let s1 := s.modDie (queueDie q) (fun x => { x with
    board := x.board.filter (fun e => e.2 != q), outside := x.outside.filter (fun n => n != q), inserts := x.inserts.filter (fun e => e.1 != q) })
  if was = false then s1
  else match d.outside with
    | n :: r => (s1.modDie (queueDie q) (fun x => { x with outside := r })).insertQueue n
    | [] => s1
/-- A queue becomes FAULTED: it is reported to the host, and a notice goes to the strand that maps it, else to strand 0 of
its stage manager (R348). -/
def State.faultQueue (s : State) (q reason : Nat) (detail : Word) : State :=
  let s1 := (s.modQueue q (fun x => { x with state := .faulted, freason := BitVec.ofNat 8 reason, fdetail := detail })).leaveBoard q
  let dst := match s.mapper q with | some m => m.sa | none => mkSa (queueDie q) 15 63 0
  (s1.interrupt 3 (queueDie q) q).post (chanLatency dst dst) 0 dst (mailWord q 0 0 3 3)

/-- The arrival windows are available: at Stage C, and during an update until its cycle U (R380, R389). -/
def State.arrivalsOpen (s : State) : Bool :=
  s.mgmt.stage == 3 || (s.mgmt.stage == 4 && (match s.updating with | some u => decide (s.cycle < u) | none => false))
/-- ARRIVAL_WRITE: the host announces packets; without the arrival windows the write is discarded (R333, R380). -/
def execArrivalWrite (qn : Nat) (w : BitVec 64) (s : State) : Out :=
  let q := s.queue qn
  if s.arrivalsOpen = false ∨ queueCount ≤ qn then .next { s with mgmt := { s.mgmt with portErr := s.mgmt.portErr + 1 } }
  else match q.state with
    | .disabled => .next s
    | .faulted => .next s
    | st =>
      if w.toNat < q.wridx.toNat ∨ q.size < w.toNat - q.rdidx.toNat then .next (s.faultQueue qn 2 q.rdidx)
      else if st = .idle then
        if w = q.wridx then .next s
        else .next ((s.modQueue qn (fun x => { x with wridx := w, acycle := BitVec.ofNat 64 s.cycle, state := .ready })).insertQueue qn)
      else .next (s.modQueue qn (fun x => { x with
        wridx := w, acycle := if x.count = 0 then BitVec.ofNat 64 s.cycle else x.acycle }))

/-! ### The call board (R335 to R337) -/

/-- Puts an entry behind every entry of lower or equal rank. -/
def boardPut (r q : Nat) : List (Nat × Nat) → List (Nat × Nat)
  | [] => [(r, q)]
  | x :: t => if r < x.1 then (r, q) :: x :: t else x :: boardPut r q t
/-- Puts a queue number in ascending order. -/
def numberPut (q : Nat) : List Nat → List Nat
  | [] => [q]
  | x :: t => if q < x then q :: x :: t else x :: numberPut q t
/-- BOARD_INSERTION: the rank is known and the queue goes on the board, or waits outside a full one; an insertion that has been given up does
nothing. -/
def execBoardInsertion (qn : Nat) (s : State) : Out :=
  let die := queueDie qn
  match (s.die die).inserts.find? (fun e => e.1 == qn && e.2.2 == s.cycle) with
  | none => .next s
  | some e =>
    let s1 := s.modDie die (fun x => { x with inserts := x.inserts.filter (fun y => y.1 != qn) })
    let d := s1.die die
    if (s.queue qn).state ≠ .ready ∨ d.board.any (fun y => y.2 == qn) = true ∨ d.outside.contains qn = true then .next s1
    else if 4096 ≤ d.board.length then .next (s1.modDie die (fun x => { x with outside := numberPut qn x.outside }))
    else .next (s1.modDie die (fun x => { x with board := boardPut e.2.1 qn x.board }))

/-! ### Mapping (R339, R340) -/

/-- The current strand maps a queue. -/
def State.mapQueue (s : State) (q : Nat) : State :=
  ((s.leaveBoard q).modQueue q (fun x => { x with state := .mapped })).mod (fun m => { m with mapped := some q, poll := none })
/-- s[d] is ready in a cycle. -/
def State.readyIn (s : State) (d : SReg) (c : Nat) : State :=
  s.mod (fun m => { m with fixed := { q := m.nextQ - 1, reg := .s d, due := c, fflags := false, vstat := false } :: m.fixed })
/-- WQMAP: waits until the board holds an entry and takes the lowest rank. -/
def execWqmap (d : SReg) (c : Bool) (s : State) : Out :=
  let die := saDie s.me.sa
  s.gate (queueWord d.toNat 0 0 5 0 c) true smKind
    (match s.me.mapped, (s.die die).board with
     | some _, _ => .next (s.finS d (packed 0 1 0) 4 c)
     | none, [] => .next s
     | none, e :: _ =>
       .next (((s.mapQueue e.2).finS d (packed 0 0 e.2) 4 c).readyIn d (s.cycle + llcLatency die (s.queueAddr e.2) + 1)))
/-- WQMAP.q: success puts the queue number in [31:0] too, as WQMAP does (DESIGN CHOICE, entry 43 of the log). -/
def execWqmapQ (d a : SReg) (c : Bool) (s : State) : Out :=
  let q := (s.me.getS a).toNat
  s.gate (queueWord d.toNat a.toNat 0 5 1 c) true smKind
    (if s.me.mapped.isSome then .next (s.finS d (packed 0 1 0) 4 c)
     else if queueCount ≤ q ∨ queueDie q ≠ saDie s.me.sa then .next (s.finS d (packed 0 3 0) 4 c)
     else if (s.queue q).state ≠ .idle ∧ (s.queue q).state ≠ .ready then .next (s.finS d (packed 0 2 0) 4 c)
     else .next ((s.mapQueue q).finS d (packed 0 0 q) 4 c))
/-- WQUNMAP; what it answers for a queue that is no longer MAPPED, as a FAULTED one, which stays as it is (R348), is not stated. -/
def execWqunmap (d : SReg) (c : Bool) (s : State) : Out :=
  s.gate (queueWord d.toNat 0 0 6 0 c) true smKind
    (match s.me.mapped with
     | none => .next (s.finS d (BitVec.allOnes 64) 4 c)
     | some q =>
       let s1 := s.mod (fun m => { m with mapped := none, poll := none, packet := none })
       if (s.queue q).state ≠ .mapped then .next ((s1.bump 1).finS d (Config.freeWord s.freeCtr) 4 c)
       else if (s.queue q).count = 0 then .next ((s1.modQueue q (fun x => { x with state := .idle })).finS d 0 4 c)
       else .next (((s1.modQueue q (fun x => { x with state := .ready })).insertQueue q).finS d 1 4 c))
/-- A packet is consumed. -/
def State.popQueue (s : State) (q : Nat) : State :=
  s.modQueue q (fun x => { x with
    rdidx := x.rdidx + 1, acycle := if 1 < x.count then BitVec.ofNat 64 s.cycle else x.acycle })
/-- The mapped queue was struck (R347): the answer is 0xFE and the queue is unmapped. -/
def Queue.struck (q : Queue) : Bool := q.state == .faulted && q.freason == 4
/-- A packet that has finished when it is consumed: NOP, SIGNAL and TIMESTAMP (R334). -/
def Packet.ends (p : Packet) (q : Nat) : Bool := p.queue == q && (p.kind == 0 || p.kind == 4 || p.kind == 5)
/-- The packet delivered last is consumed. -/
def State.endPacket (s : State) (q : Nat) : State :=
  match s.me.packet with
  | some p => if p.ends q then (s.packetDone p).mod (fun m => { m with packet := none }) else s
  | none => s
/-- QPOP; a strand that maps no queue finds no packet. -/
def execQpop (d : SReg) (c : Bool) (s : State) : Out :=
  s.gate (queueWord d.toNat 0 0 1 0 c) true smKind
    (match s.me.mapped with
     | none => .next (s.finS d (BitVec.allOnes 64) 4 c)
     | some q =>
       if (s.queue q).struck then .next ((s.mod (fun m => { m with mapped := none, poll := none })).finS d (packed 0 0xFE 0) 4 c)
       else if (s.queue q).count = 0 then .next (s.finS d (BitVec.allOnes 64) 4 c)
       else .next (((s.popQueue q).endPacket q).finS d (BitVec.ofNat 64 ((s.queue q).count - 1)) 4 c))
/-- QPUSH: a READY queue that waits outside the board, or whose insertion is in progress, answers 1 as one on the board does (DESIGN CHOICE, entry 43 of
the log). -/
def execQpush (d a : SReg) (c : Bool) (s : State) : Out :=
  let q := (s.me.getS a).toNat
  let die := s.die (saDie s.me.sa)
  s.gate (queueWord d.toNat a.toNat 0 2 0 c) true smKind
    (if queueCount ≤ q ∨ queueDie q ≠ saDie s.me.sa then .next (s.finS d 4 4 c)
     else if (s.queue q).state = .mapped ∨ die.board.any (fun e => e.2 == q) = true ∨ die.outside.contains q = true ∨ s.inserting q = true then
       .next (s.finS d 1 4 c)
     else if (s.queue q).state ≠ .ready ∨ (s.queue q).count = 0 then .next (s.finS d 2 4 c)
     else if 4096 ≤ die.board.length then .next (s.finS d 3 4 c)
     else .next ((s.insertQueue q).finS d 0 4 c))
/-- RANKSET: reads 16 words of die scratchpad; those beyond it have no stated value. -/
def execRankset (d a : SReg) (c : Bool) (s : State) : Out :=
  let off := s.me.getS a
  let die := saDie s.me.sa
  s.gate (queueWord d.toNat a.toNat 0 7 0 c) true smKind
    (if off.toNat % 64 ≠ 0 then s.trap .misaligned off
     else
       let inside := decide (off.toNat + 64 ≤ tierSize 4)
       let ws := (List.range 16).map (fun i =>
         if inside then s.read (dieLoc die (off.toNat + 4 * i)) 4 else (Config.freeWord (s.freeCtr + i)).toNat % 2 ^ 32)
       let s1 := if inside then s else s.bump 16
       match (if inside then s.sick (dieLoc die off.toNat) 64 else none) with
       | some p => .next (s.readSick p)
       | none =>
       match rankBad ws with
       | some i => .next (s1.finS d (BitVec.ofNat 64 (1 + 256 * i)) 4 c)
       | none => .next ((s1.modDie die (fun x => { x with rankProg := ws })).finS d 0 4 c))

/-! ### Packets (R334, R341) -/

/-- The body bytes that a packet kind uses: offset and length. -/
def bodyFields (kind : Nat) : List (Nat × Nat) :=
  match kind with
  | 1 => [(0x08, 8)]
  | 2 => [(0x08, 24), (0x20, 2)]
  | 3 => [(0x08, 24), (0x20, 1), (0x24, 4)]
  | 4 => [(0x08, 16), (0x18, 1)]
  | 5 => [(0x08, 8)]
  | _ => []
/-- The packet's kind is assigned and its reserved bits are zero. -/
def packetOk (bs : List Byte) : Bool :=
  let kind := bytesNat bs 0 1
  decide (kind ≤ 5) && decide (bytesNat bs 1 1 < 4) && bytesNat bs 2 2 == 0 &&
  (List.range 56).all (fun i => bytesNat bs (i + 8) 1 == 0 || (bodyFields kind).any (fun f => decide (f.1 ≤ i + 8) && decide (i + 8 < f.1 + f.2))) &&
  (kind != 3 || decide (bytesNat bs 0x20 1 ≤ 3))
/-- The condition of a WAIT packet on its word. -/
def waitHolds (bs : List Byte) (word : Nat) : Bool :=
  let mask := bytesNat bs 0x18 8
  let x := word &&& mask
  let y := bytesNat bs 0x10 8 &&& mask
  match bytesNat bs 0x20 1 with
  | 0 => x == y
  | 1 => x != y
  | 2 => decide (y ≤ x)
  | _ => decide (x < y)
/-- The current strand parks for the walk of a page of a queue's space. -/
def State.parkFor (s : State) (acc : AccKind) (asid root va : Nat) : State :=
  (s.mod (fun m => { m with xwait := some (asid, pageOf va) })).startWalk s.me.port (.strand s.me.sa) acc asid root va
/-- A failed walk of a strand is forgotten. -/
def State.forgetWalk (s : State) (m : Strand) : State := s.modPort m.port (fun p => p.forget (.strand m.sa))
/-- A packet of the queue has not finished: a troupe of a LAUNCH packet that is placed or waits for its place, or a COPY packet whose completion has not
been dequeued (R334). -/
def State.unfinished (s : State) (q : Nat) : Bool :=
  s.troupes.any (fun t => t.2.carried && t.2.queue == q) || s.placeQ.any (fun r => r.carried && r.queue == q) ||
  s.strands.any (fun m => m.copies.any (fun c => c.2.2.queue == q))
/-- The location of a strand's packet slot (R349). -/
def packetSlot (sa : Nat) : Nat := dieLoc (saDie sa) (0x1FF2000 + 64 * saSlot sa)
/-- QWAIT: the next packet that is no WAIT goes to the packet slot; a WAIT with FENCE starts when every packet before it has finished (R334,
R341). A queue that is FAULTED for a reason other than 4 goes on delivering to the strand that maps it, and so does QPOP (DESIGN CHOICE, entry 43 of the log). -/
def execQwait (d : SReg) (c : Bool) (s : State) : Out :=
  let m := s.me
  s.gate (queueWord d.toNat 0 0 0 0 c) true smKind
    (match m.mapped with
     | none => .next (s.finS d (packed 0 0xFF 0) 4 c)
     | some qn =>
       let q := s.queue qn
       if q.struck then .next ((s.mod (fun x => { x with mapped := none, poll := none })).finS d (packed 0 0xFE 0) 4 c)
       else match m.poll with
         | some p => (match p.result with
           | some v => .next ((s.mod (fun x => { x with poll := none })).finS d v 4 c)
           | none => .next s)
         | none =>
           if q.count = 0 then .next s
           else match s.xlate m.port (.strand m.sa) q.asid.toNat q.head true false with
             | .miss => .next (s.parkFor .read q.asid.toNat q.root.toNat q.head)
             | .fail _ => .next (((s.forgetWalk m).faultQueue qn 3 q.rdidx).finS d (packed 0 3 0) 4 c)
             | .hit l =>
               let pa := l.addr q.head
               let bs := memBytes s.mem pa 64
               let kind := bytesNat bs 0 1
               let t := s.cycle + llcLatency (saDie m.sa) pa + 8
               match s.sick pa 64 with
               | some p => .next (s.readSick p)
               | none =>
               if packetOk bs = false then
                 .next (((s.bump 1).faultQueue qn 1 q.rdidx).finS d (packed kind (Config.freeWord s.freeCtr).toNat q.rdidx.toNat) 4 c)
               else if kind = 3 ∧ bytesNat bs 1 1 % 2 = 1 ∧ s.unfinished qn = true then .next s
               else if kind = 3 then
                 .next ((s.mod (fun x => { x with poll := some { started := t, next := t, result := none } })).atCycle t (.waitPacketPoll m.sa))
               else
                 let p : Packet := { queue := qn, rdidx := q.rdidx, kind := kind, notify := bytesNat bs 1 1 / 2 % 2 == 1 }
                 .next ((((s.writeBytes (packetSlot m.sa) bs).mod (fun x => { x with packet := some p })).finS d (packed kind 0 q.rdidx.toNat) 4 c).readyIn
                   d (t + 1)))
/-- WAIT_PACKET_POLL: a WAIT packet whose condition holds is consumed; one that has timed out, or whose word cannot be read, faults the
queue; else the word is read again 64 cycles later. -/
def execWaitPacketPoll (sa : Nat) (s : State) : Out :=
  match s.strand? sa with
  | none => .next s
  | some m => match m.poll, m.mapped with
    | some p, some qn =>
      let q := s.queue qn
      let answer := fun (t : State) (v : Word) => t.modStrand sa (fun x => { x with poll := some { p with result := some v } })
      let again := fun (t : State) (n : Nat) =>
        (t.modStrand sa (fun x => { x with poll := some { p with next := s.cycle + n } })).after n (.waitPacketPoll sa)
      if p.next ≠ s.cycle ∨ p.result.isSome = true then .next s
      else match s.peekLeaf q m.port q.head with
        | none => .next (answer (s.faultQueue qn 3 q.rdidx) (packed 0 3 0))
        | some pl =>
          let bs := memBytes s.mem (pl.addr q.head) 64
          let va := bytesNat bs 8 8
          match s.xlate m.port (.strand sa) q.asid.toNat va true false with
          | .miss =>
            if m.xwait.isSome then .next (again s 1)
            else .next (again ((s.modStrand sa (fun x => { x with xwait := some (q.asid.toNat, pageOf va) })).startWalk m.port (.strand sa) .read
              q.asid.toNat q.root.toNat va) 1)
          | .fail _ => .next (answer ((s.forgetWalk m).faultQueue qn 3 q.rdidx) (packed 0 3 0))
          | .hit l =>
            let word := if va % 8 = 0 then s.view sa (isPrivate true l.region) (l.addr va) 8 else (Config.freeWord s.freeCtr).toNat
            let s1 := if va % 8 = 0 then s else s.bump 1
            let limit := bytesNat bs 0x24 4
            match s.sick (l.addr va) 8 with
            | some b => .next ((s.machineCheck sa (poisonAddr b)).modStrand sa (fun x => { x with poll := none }))
            | none =>
            if waitHolds bs word then
              .next (((s1.popQueue qn).packetDone { queue := qn, rdidx := q.rdidx, kind := 3, notify := bytesNat bs 1 1 / 2 % 2 == 1 }).modStrand sa
                (fun x => { x with poll := none }))
            else if limit ≠ 0 ∧ p.started + 1024 * limit ≤ s.cycle then .next (answer (s1.faultQueue qn 5 q.rdidx) (packed 0 2 0))
            else .next (again s1 64)
    | _, _ => .next s

/-- QSIGNAL and QSIGNAL.add: one word of the mapped queue's space is written, and the host told. -/
def qsignal (add : Bool) (d a b : SReg) (notify c : Bool) (s : State) : Out :=
  let m := s.me
  s.gate (queueWord d.toNat a.toNat b.toNat 3 (add.toNat + 2 * notify.toNat) c) true smKind
    (match m.mapped with
     | none => .next (s.finS d 0xFF 4 c)
     | some qn =>
       let q := s.queue qn
       let va := (m.getS a).toNat
       if va % 8 ≠ 0 then .next (s.finS d 4 4 c)
       else match s.xlate m.port (.strand m.sa) q.asid.toNat va add true with
         | .miss => .next (s.parkFor (if add then .atomic else .write) q.asid.toNat q.root.toNat va)
         | .fail _ => .next (((s.forgetWalk m).faultQueue qn 3 q.rdidx).finS d 3 4 c)
         | .hit l =>
           let pa := l.addr va
           let priv := isPrivate true l.region
           let old := (s.recall m.sa (priv && add) pa 8).view m.sa priv pa 8
           match (if add then s.sick pa 8 else none) with
           | some p => .next (s.readSick p)
           | none =>
           let v := if add then (old + (m.getS b).toNat) % 2 ^ 64 else (m.getS b).toNat
           let s1 := (if add then s.writeBelow m.sa priv pa 8 v else s.store m.sa priv pa 8 v).watchAll pa 8 add true l.region (if add then .slice else .store) (saDie m.sa) 1 (watchLoc m.sa)
           .next ((if notify then s1.interrupt 2 (queueDie qn) qn else s1).finS d 0 4 c))
/-- QSIGNAL. -/
def execQsignal (d a b : SReg) (notify c : Bool) (s : State) : Out := qsignal false d a b notify c s
/-- QSIGNAL.add. -/
def execQsignalAdd (d a b : SReg) (notify c : Bool) (s : State) : Out := qsignal true d a b notify c s

/-- QUEUE_ENABLE: MQCTL moves a DISABLED queue to IDLE with its counters clear; in another state it is refused (R332, R382). -/
def execQueueEnable (s : State) : Out :=
  let q := s.mgmt.qsel.toNat
  if (s.queue q).state = .disabled then
    .next { s.modQueue q (fun x => { x with state := .idle, rdidx := 0, wridx := 0, acycle := 0, freason := 0, fdetail := 0 }) with
            mgmt := { s.mgmt with qstat := false } }
  else .next { s with mgmt := { s.mgmt with qstat := true } }
/-- QUEUE_DISABLE: MQCTL moves an IDLE or FAULTED queue to DISABLED; a strand that had mapped it before its fault maps it no more. -/
def execQueueDisable (s : State) : Out :=
  let q := s.mgmt.qsel.toNat
  if (s.queue q).state = .idle ∨ (s.queue q).state = .faulted then
    let s1 := match s.mapper q with
      | some m => s.modStrand m.sa (fun x => { x with mapped := none, poll := none, packet := none })
      | none => s
    .next { s1.modQueue q (fun x => { x with state := .disabled }) with mgmt := { s.mgmt with qstat := false } }
  else .next { s with mgmt := { s.mgmt with qstat := true } }
/-- MQDATA_WRITE: the host fields of a DISABLED queue's descriptor. -/
def execMqdataWrite (data : BitVec 512) (s : State) : Out :=
  let q := s.mgmt.qsel.toNat
  if (s.queue q).state = .disabled then
    .next { s.modQueue q (fun x => { x with
              ring := data.setWidth 64, logn := data.extractLsb' 64 8, prio := data.extractLsb' 72 8, asid := data.extractLsb' 96 32
              root := data.extractLsb' 128 64 }) with
            mgmt := { s.mgmt with qstat := false } }
  else .next { s with mgmt := { s.mgmt with qstat := true } }

end Sys2Proof.Machine
end

