-- ==== Sys2Proof/Machine/Copy.lean ====
section
/-! DEFINITION. Major 0x1A and the copy engines (R276 to R285), with remote windows (R384, R385). -/

namespace Sys2Proof.Machine

/-! ### The issue of a command (R277, R278) -/

/-- The segment a vcore's copies go through stand for its strand. -/
def CpyCmd.strand (k : CpyCmd) : Strand := { Strand.fresh k.sa k.kind 4 with asid := k.asid, root := k.root }
/-- Where a strand's messages go: a stage-manager strand is its own address. -/
def Strand.mailTo (m : Strand) : Nat × Nat := match m.kind with | .sm => (0, m.sa) | _ => (m.troupe, m.vcid)
/-- An engine. -/
def State.engine (s : State) (die eng : Nat) : Engine := Tab.getD (s.die die).engines eng { queue := [], running := none }
/-- Changes an engine. -/
def State.modEngine (s : State) (die eng : Nat) (f : Engine → Engine) : State :=
  s.modDie die (fun d => { d with engines := Tab.put d.engines eng (f (Tab.getD d.engines eng { queue := [], running := none })) })
/-- The commands of an engine, the running one among them. -/
def Engine.load (e : Engine) : Nat := e.queue.length + (if e.running.isSome then 1 else 0)
/-- The engine with the fewest commands, ties to the lower number. -/
def State.idlest (s : State) (die : Nat) : Nat :=
  (List.range 32).foldl (fun b e => if (s.engine die e).load < (s.engine die b).load then e else b) 0
/-- The engine a command goes to. -/
def State.engineFor (s : State) (die : Nat) (expl : Bool) (eng : BitVec 5) : Nat := if expl then eng.toNat else s.idlest die
/-- An engine's queue has no free entry. -/
def State.engineFull (s : State) (die eng : Nat) : Bool := decide (64 ≤ (s.engine die eng).queue.length)
/-- A command is pushed; an idle engine starts it at once. -/
def State.push (s : State) (die eng : Nat) (k : CpyCmd) : State :=
  let idle := (s.engine die eng).load == 0
  let s1 := s.modEngine die eng (fun e => { e with queue := e.queue ++ [k] })
  if idle then s1.after 0 (.commandStart die eng) else s1

/-- The words of a CPY form (R276). -/
def cpyWord (d a b minor : Nat) (c : Bool) (tag : BitVec 16) (expl : Bool) (eng : BitVec 5) (opt : Nat) (sseg dseg : Nat) : Word :=
  words (0x68000000 + d * 2 ^ 21 + a * 2 ^ 16 + b * 2 ^ 11 + minor * 16 + c.toNat)
    (tag.toNat * 2 ^ 16 + expl.toNat * 2 ^ 15 + eng.toNat * 2 ^ 10 + opt * 64 + sseg * 8 + dseg)
/-- The address space and root of a copy: the strand's, or for a COPY packet the queue's (R280, R334). -/
def State.copySpace (s : State) (m : Strand) (packet : Option Packet) : Nat × Nat :=
  match packet with
  | some p => ((s.queue p.queue).asid.toNat, (s.queue p.queue).root.toNat)
  | none => (m.asid, m.root)
/-- The command that the current strand captures. -/
def Strand.command (m : Strand) (s : State) (form : CpyForm) (d a b : SReg) (pair : Bool) (opt : Nat) (sseg dseg : SegIx)
    (tag : BitVec 16) : CpyCmd :=
  let box := m.mailTo
  let packet := m.packet.filter (fun p => p.kind == 2)
  let space := s.copySpace m packet
  { form := form, sa := m.sa, kind := m.kind, sys := m.system, troupe := box.1, vcid := box.2, asid := space.1, root := space.2,
    dst := m.getS d, src := m.getS a, b := m.getS b, b1 := if pair then m.getS (b + 1) else 0, opt := opt,
    sseg := m.getSeg sseg, dseg := m.getSeg dseg, tag := tag, pushed := s.cycle, packet := packet }
/-- The ranges a form names: segment, offset, size, alignment, and whether it is read and written (R278, R281). -/
def CpyCmd.ranges (k : CpyCmd) : List (Seg × Word × Nat × Nat × Bool × Bool) :=
  let n := k.b.toNat
  let rows := n / 2 ^ 32
  let bytes := n % 2 ^ 32
  let span := fun (stride : Nat) => if rows = 0 ∨ bytes = 0 then 0 else (rows - 1) * stride + bytes
  match k.form with
  | .cpy => [(k.sseg, k.src, n, 1, true, false), (k.dseg, k.dst, n, 1, false, true)]
  | .cpy2d => [(k.sseg, k.src, span (k.b1.toNat % 2 ^ 32), 1, true, false), (k.dseg, k.dst, span (k.b1.toNat / 2 ^ 32), 1, false, true)]
  | .cpyg => [(k.sseg, k.b, 4 * (k.b1.toNat % 2 ^ 32), 4, true, false)]
  | .cpys => [(k.sseg, k.b, 4 * (k.b1.toNat % 2 ^ 32), 4, true, false)]
  | .cpyred => [(k.sseg, k.src, n, 1, true, false), (k.dseg, k.dst, n, 1, true, true)]
  | .cpyring =>
    [(k.sseg, k.src, k.dst.toNat / 256 % 512 * (64 * 2 ^ (k.dst.toNat / 2 ^ 17 % 8)), 1, true, false), (k.dseg, k.b, 256, 1, true, false)]
  | .cpyfill => [(k.dseg, k.dst, n, 1, false, true)]
  | .cpyrem => [(k.sseg, k.src, n, 1, true, false), (k.dseg, k.dst, n, 1, false, true)]
/-- The first range that fails R143. -/
def rangeFault (m : Strand) : List (Seg × Word × Nat × Nat × Bool × Bool) → Option (Cause × Word)
  | [] => none
  | (g, off, n, al, rd, wr) :: r =>
    match segCheck m g rd wr off n al with
    | .bad cause addr => some (cause, addr)
    | .ok _ => rangeFault m r
/-- The element size whose multiples a form requires of its offset and length (R278). -/
def CpyCmd.grain (k : CpyCmd) : Nat :=
  match k.form with
  | .cpyred => if k.opt = 1 then 2 else 4
  | .cpyfill => 2 ^ k.opt
  | _ => 1
/-- The command of a COPY packet is pushed; its completion is awaited (R334). -/
def Strand.tagCopy (m : Strand) (eng : Nat) (k : CpyCmd) : Strand :=
  match k.packet with
  | some p => { m with packet := none, copies := m.copies ++ [(eng, k.tag.toNat, p)] }
  | none => m
/-- A CPY-class instruction: the checks, then the push when the engine has room. -/
def cpyIssue (w : Word) (ok : Kind → Bool) (k : CpyCmd) (eng : Nat) (c : Bool) (s : State) : Out :=
  s.gate w false ok
    (match rangeFault s.me k.ranges with
     | some t => s.trap t.1 t.2
     | none =>
       if k.dst.toNat % k.grain ≠ 0 then s.trap .misaligned k.dst
       else if k.b.toNat % k.grain ≠ 0 ∧ k.grain ≠ 1 then s.trap .misaligned k.b
       else if s.engineFull (saDie s.me.sa) eng then .next s
       else .next (((s.push (saDie s.me.sa) eng k).mod (fun m => m.tagCopy eng k)).fin 8 c))

/-- CPY. -/
def execCpy (d a b : SReg) (tag : BitVec 16) (expl : Bool) (eng : BitVec 5) (sseg dseg : SegIx) (c : Bool) (s : State) : Out :=
  cpyIssue (cpyWord d.toNat a.toNat b.toNat 0 c tag expl eng 0 sseg.toNat dseg.toNat) anyKind
    (s.me.command s .cpy d a b false 0 sseg dseg tag) (s.engineFor (saDie s.me.sa) expl eng) c s
/-- CPY2D. -/
def execCpy2d (d a b : SReg) (tag : BitVec 16) (expl : Bool) (eng : BitVec 5) (sseg dseg : SegIx) (c : Bool) (s : State) : Out :=
  cpyIssue (cpyWord d.toNat a.toNat b.toNat 1 c tag expl eng 0 sseg.toNat dseg.toNat) anyKind
    (s.me.command s .cpy2d d a b true 0 sseg dseg tag) (s.engineFor (saDie s.me.sa) expl eng) c s
/-- CPYG. -/
def execCpyg (d a b : SReg) (tag : BitVec 16) (expl : Bool) (eng : BitVec 5) (e : BitVec 4) (sseg dseg : SegIx) (c : Bool)
    (s : State) : Out :=
  cpyIssue (cpyWord d.toNat a.toNat b.toNat 2 c tag expl eng e.toNat sseg.toNat dseg.toNat) anyKind
    (s.me.command s .cpyg d a b true e.toNat sseg dseg tag) (s.engineFor (saDie s.me.sa) expl eng) c s
/-- CPYS. -/
def execCpys (d a b : SReg) (tag : BitVec 16) (expl : Bool) (eng : BitVec 5) (e : BitVec 4) (sseg dseg : SegIx) (c : Bool)
    (s : State) : Out :=
  cpyIssue (cpyWord d.toNat a.toNat b.toNat 3 c tag expl eng e.toNat sseg.toNat dseg.toNat) anyKind
    (s.me.command s .cpys d a b true e.toNat sseg dseg tag) (s.engineFor (saDie s.me.sa) expl eng) c s
/-- CPYRED. -/
def execCpyred (d a b : SReg) (tag : BitVec 16) (expl : Bool) (eng : BitVec 5) (ty : BitVec 2) (sseg dseg : SegIx) (c : Bool)
    (s : State) : Out :=
  cpyIssue (cpyWord d.toNat a.toNat b.toNat 4 c tag expl eng ty.toNat sseg.toNat dseg.toNat) anyKind
    (s.me.command s .cpyred d a b false ty.toNat sseg dseg tag) (s.engineFor (saDie s.me.sa) expl eng) c s
/-- CPYRING: no form of a stage-manager strand. -/
def execCpyring (d a b : SReg) (tag : BitVec 16) (expl : Bool) (eng : BitVec 5) (sseg dseg : SegIx) (c : Bool) (s : State) : Out :=
  cpyIssue (cpyWord d.toNat a.toNat b.toNat 5 c tag expl eng 0 sseg.toNat dseg.toNat) vcoreKind
    (s.me.command s .cpyring d a b false 0 sseg dseg tag) (s.engineFor (saDie s.me.sa) expl eng) c s
/-- CPYFILL. -/
def execCpyfill (d a b : SReg) (tag : BitVec 16) (expl : Bool) (eng : BitVec 5) (lg : BitVec 2) (dseg : SegIx) (c : Bool)
    (s : State) : Out :=
  cpyIssue (cpyWord d.toNat a.toNat b.toNat 6 c tag expl eng lg.toNat 0 dseg.toNat) anyKind
    (s.me.command s .cpyfill d a b false lg.toNat 0 dseg tag) (s.engineFor (saDie s.me.sa) expl eng) c s
/-- CPYREM. -/
def execCpyrem (d a b : SReg) (tag : BitVec 16) (expl : Bool) (eng : BitVec 5) (get : Bool) (sseg dseg : SegIx) (c : Bool)
    (s : State) : Out :=
  cpyIssue (cpyWord d.toNat a.toNat b.toNat 7 c tag expl eng get.toNat sseg.toNat dseg.toNat) anyKind
    (s.me.command s .cpyrem d a b false get.toNat sseg dseg tag) (s.engineFor (saDie s.me.sa) expl eng) c s

/-! ### The parts of a command (R280) -/

/-- A part before translation: the source and destination offsets, its length, whether it belongs to the index list or the
scale vector, and whether it is an element, which is checked against its segment. -/
structure Chunk where
  src : Option Nat
  dst : Option Nat
  len : Nat
  index : Bool
  elem : Bool
deriving DecidableEq, Repr

/-- The bytes from an address of a segment to the end of its page; local tiers have no pages. -/
def pageRoom (g : Seg) (off : Nat) : Nat := if g.kind = 1 then 65536 - (g.base.toNat + off) % 65536 else 2 ^ 64
/-- A range of both sides, cut so that no part crosses a page of either. -/
def cutPages (sg dg : Seg) (src dst : Option Nat) (index elem : Bool) : Nat → Nat → List Chunk
  | 0, _ => []
  | fuel + 1, n =>
    if n = 0 then []
    else
      let room := fun (g : Seg) (o : Option Nat) => match o with | some x => pageRoom g x | none => 2 ^ 64
      let a := room sg src
      let b := room dg dst
      let k := min n (min a b)
      { src := src, dst := dst, len := k, index := index, elem := elem } ::
        cutPages sg dg (src.map (· + k)) (dst.map (· + k)) index elem fuel (n - k)
/-- The number of parts that a range can have. -/
def partsOf (n : Nat) : Nat := 2 * (n / 65536) + 4
/-- A plain range. -/
def CpyCmd.range (k : CpyCmd) (src dst : Option Nat) (n : Nat) (index elem : Bool) : List Chunk :=
  cutPages k.sseg k.dseg src dst index elem (partsOf n) n
/-- The parts of a command in command order; the elements of CPYG and CPYS follow the list of their indices. -/
def CpyCmd.chunks (k : CpyCmd) (idx : List Nat) : List Chunk :=
  let n := k.b.toNat
  let s0 := k.src.toNat
  let d0 := k.dst.toNat
  let e := 2 ^ k.opt
  let list := k.range (some n) none (4 * (k.b1.toNat % 2 ^ 32)) true false
  match k.form with
  | .cpy2d => (List.range (n / 2 ^ 32)).flatMap (fun r =>
      k.range (some (s0 + r * (k.b1.toNat % 2 ^ 32))) (some (d0 + r * (k.b1.toNat / 2 ^ 32))) (n % 2 ^ 32) false false)
  | .cpyg => list ++ idx.zipIdx.flatMap (fun p => k.range (some ((s0 + p.1 * e) % 2 ^ 64)) (some ((d0 + p.2 * e) % 2 ^ 64)) e false true)
  | .cpys => list ++ idx.zipIdx.flatMap (fun p => k.range (some ((s0 + p.2 * e) % 2 ^ 64)) (some ((d0 + p.1 * e) % 2 ^ 64)) e false true)
  | .cpyring =>
    k.range (some s0) none (d0 / 256 % 512 * (64 * 2 ^ (d0 / 2 ^ 17 % 8))) false false ++
      cutPages k.dseg k.dseg (some n) none true false (partsOf 256) 256
  | .cpyfill => k.range none (some d0) n false false
  | _ => k.range (some s0) (some d0) n false false
/-- An element lies inside its segments with their rights, aligned (R280). -/
def CpyCmd.elemOk (k : CpyCmd) (c : Chunk) : Bool :=
  let e := 2 ^ k.opt
  let ok := fun (g : Seg) (o : Option Nat) (wr : Bool) => match o with
    | none => true
    | some x => g.kind != 0 && reaches k.kind g.kind && (!g.sys || k.sys) && (if wr then g.w else g.rd) &&
        decide (x + e ≤ g.length) && !controlPage g x e && (g.base.toNat + x) % e == 0
  ok k.sseg c.src false && ok k.dseg c.dst true
/-- The remote side of a CPYREM. -/
def CpyCmd.remote (k : CpyCmd) (dst : Bool) : Bool := k.form == .cpyrem && (dst == (k.opt == 0))

/-- The outcome of one side of a part: where it lies, with its latency and region, a miss, or the STATUS that ends the command. -/
inductive Side where
  | at_ (loc lat : Nat) (region : Region) | walk (va : Nat) | bad (status : Nat)
deriving DecidableEq, Repr
/-- One side is translated at the issuing cluster's port, or found in its tier (R280, R283, R284); `rd` and `wr` are the rights it takes. The
remote side of a CPYREM whose segment is not global gives STATUS 2 (DESIGN CHOICE, entry 26 of the log). -/
def sideOf (s : State) (k : CpyCmd) (die eng : Nat) (g : Seg) (off : Nat) (rd wr remote : Bool) : Side :=
  let m := k.strand
  let a := (g.base.toNat + off) % 2 ^ 64
  if g.kind ≠ 1 then (if remote then .bad 2 else .at_ (localLoc m g.kind a) (localLatency m g.kind a) .coherent)
  else match (s.port m.port).find m.asid a with
    | none => if (s.port m.port).failedFor (.engine die eng) m.asid a then .bad 1 else .walk a
    | some l =>
      if l.admits (portDie m.port) (portCluster m.port) = false ∨ (wr && !l.w) = true ∨ (rd && !l.rd) = true then .bad 1
      else if (l.region == .remote) != remote ∨ (wr && l.region == .readShared) then .bad 2
      else .at_ (l.addr a) (if remote then 0 else tierLatency die (l.addr a) l.region (s.freeCtr + if wr then 2 else 0)) l.region
/-- Both sides of a part; the destination of a reduction is read too (R281). -/
def chunkSides (s : State) (k : CpyCmd) (die eng : Nat) (c : Chunk) : Option Side × Option Side :=
  let sg := if k.form = .cpyring ∧ c.index = true then k.dseg else k.sseg
  (c.src.map (fun o => sideOf s k die eng sg o true false (k.remote false)),
   c.dst.map (fun o => sideOf s k die eng k.dseg o (k.form == .cpyred) true (k.remote true)))

/-- X of R285. -/
def CpyCmd.cycles (k : CpyCmd) : Nat :=
  let up := fun (n d : Nat) => (n + d - 1) / d
  let n := k.b.toNat
  match k.form with
  | .cpy2d => n / 2 ^ 32 * up (n % 2 ^ 32) 256
  | .cpyg => k.b1.toNat % 2 ^ 32 * up (2 ^ k.opt) 256 + up (4 * (k.b1.toNat % 2 ^ 32)) 256
  | .cpys => k.b1.toNat % 2 ^ 32 * up (2 ^ k.opt) 256 + up (4 * (k.b1.toNat % 2 ^ 32)) 256
  | .cpyred => up n 128
  | .cpyring => 64 * 2 ^ (k.dst.toNat / 2 ^ 17 % 8) + 1
  | _ => up n 256
/-- The heavy strand whose ring a CPYRING fills, and the ring. -/
def ringTarget (s : State) (k : CpyCmd) : Option (Strand × RingIx) :=
  match s.strand? k.target with
  | none => none
  | some m => if m.run == .vacant then none else some (m, BitVec.ofNat 4 k.dst.toNat)
/-- A CPYRING target that ends the command with STATUS 3 (R282). -/
def badTarget (s : State) (k : CpyCmd) : Bool :=
  let v := k.dst.toNat
  let rows := v / 256 % 512
  let pitch := v / 2 ^ 17 % 8
  match ringTarget s k with
  | none => true
  | some (m, r) =>
    let g := m.rings[r.toNat]
    m.troupe != k.troupe || g.slots == 0 || rows == 0 || decide (256 < rows) || decide (5 < pitch) || v / 2 ^ 20 != 0 ||
      v / 64 % 4 != 0 || decide (g.size < 256 * (64 * 2 ^ pitch))

/-! ### Running a command -/

/-- Changes the running command of an engine. -/
def State.modRun (s : State) (die eng : Nat) (f : CpyRun → CpyRun) : State :=
  s.modEngine die eng (fun e => { e with running := e.running.map f })
/-- A COPY packet whose command ends with a STATUS other than 0 faults its queue with reason 3 (R334, R348). -/
def State.copyFailed (s : State) (r : CpyRun) : State :=
  match r.cmd.packet with
  | some p => if r.status = 0 then s else s.faultQueue p.queue 3 p.rdidx
  | none => s
/-- A command whose writes are performed ends: its message is posted 12 cycles later, and the next command may start (R279, R283, R285). A full spill
ring holds the message at the engine (R194). -/
def endCommand (die eng : Nat) (s : State) : State :=
  match (s.engine die eng).running with
  | none => s
  | some r =>
    if s.mailFull r.cmd.troupe r.cmd.vcid then
      (s.modRun die eng (fun x => { x with written := true })).after 1 (.copyCompletion die eng)
    else
      let s1 := (s.modEngine die eng (fun e => { e with running := none })).post 12 r.cmd.troupe r.cmd.vcid
        (mailWord 0 eng r.status 1 r.cmd.tag.toNat)
      ((s1.copyFailed r).stir r.cmd.troupe).after 0 (.commandStart die eng)
/-- The window entry and the offset in it of a remote-window address; none beyond the table (R284). -/
def windowOf (pa : Nat) : Option (Nat × Nat) :=
  let o := pa - hbmTop
  if 2 ^ 44 ≤ o then none else some (o / 2 ^ 38, o % 2 ^ 38)
/-- The remote location of a part of a CPYREM. -/
def Piece.remote (p : Piece) (get : Bool) : Option Nat := if get then p.src else p.dst
/-- The window entry of a remote command: that of its first part (R384). -/
def CpyRun.window (r : CpyRun) (get : Bool) : Option Nat := ((r.pieces.head?.bind (·.remote get)).bind windowOf).map (·.1)
/-- A remote part that the command's window, as the command read it, refuses (R384): the first part answers for the whole range, and a later one has
to lie in the same entry (DESIGN CHOICE, entry 26 of the log). -/
def windowBad (s : State) (r : CpyRun) (get : Bool) (pa n : Nat) : Bool :=
  match windowOf pa with
  | none => true
  | some (i, o) =>
    let w := Tab.getD r.win i []
    let fl := bytesNat w 6 1
    let span := match r.window get with
      | none => r.cmd.b.toNat
      | some _ => n
    (r.window get).any (· != i) || fl % 2 == 0 || (if get then fl / 4 % 2 == 0 else fl / 2 % 2 == 0) ||
      decide (min (bytesNat w 8 8) (2 ^ 38) < o + span) || bytesNat w 0 4 &&& s.mgmt.link.toNat == 0
/-- The flits of one remote part: offset, local location, length. -/
def flitsOf (o loc : Nat) : Nat → Nat → List (Nat × Nat × Nat)
  | 0, _ => []
  | fuel + 1, n =>
    if n = 0 then []
    else
      let k := min n (64 - o % 64)
      (o, loc, k) :: flitsOf (o + k) (loc + k) fuel (n - k)
/-- A command whose parts are translated goes on: CPYRING takes its slot, and the writes end 12 + Tsrc + X + Tdst cycles on. -/
def launchCommand (die eng : Nat) (s : State) : State :=
  match (s.engine die eng).running with
  | none => s
  | some r =>
    if r.cmd.form = .cpyring ∧ r.status = 0 then s.after 0 (.ringReservation die eng)
    else s.after (12 + (if r.cmd.form = .cpyfill then 0 else r.tsrc) + r.cmd.cycles + r.tdst) (.copyCompletion die eng)
/-- A source byte is struck: it lies in a poisoned word, or an error struck it as the engine read it (R283, R391). -/
def CpyRun.sick (r : CpyRun) (s : State) (x : Nat) : Bool := s.poison.contains x || r.bad.contains x
/-- The bytes that an engine reads for its command's strand in a part of a region; a private one's lie in the issuing die's L2 or unwritten in the
issuing core's L1D (R280). -/
def CpyRun.bytesAt (r : CpyRun) (s : State) (region : Region) (a n : Nat) : List Byte :=
  (List.range n).map (fun i => s.engineByte r.cmd.sa (isPrivate true region) (a + i))
/-- The bytes of a source part; a struck byte and the number `ctr` give a free value. -/
def sourceBytes (s : State) (r : CpyRun) (region : Region) (ctr a n : Nat) : List Byte :=
  (r.bytesAt s region a n).zipIdx.map (fun b => if r.sick s (a + b.2) then Config.freeByte (ctr + b.2) else b.1)
/-- The source bytes of some parts, in command order. -/
def sourceOf (s : State) (r : CpyRun) (ctr : Nat) (ps : List Piece) : List Byte :=
  ps.foldl (fun t p => match p.src with | some a => t ++ sourceBytes s r p.sreg (ctr + t.length) a p.len | none => t) []
/-- The parts from `pos` on are translated one at a time, in command order, up to a miss, which walks (R280). -/
def engineGo (die eng : Nat) : Nat → State → State
  | 0, s => s
  | fuel + 1, s =>
    match (s.engine die eng).running with
    | none => s
    | some r =>
      let k := r.cmd
      let cs := k.chunks r.idx
      match cs[r.pos]? with
      | none =>
        let m := (k.form == .cpyg || k.form == .cpys) && r.idx.isEmpty && k.b1.toNat % 2 ^ 32 != 0
        if m then
          let bytes := sourceOf s r s.freeCtr r.pieces
          let idx := (List.range (k.b1.toNat % 2 ^ 32)).map (fun i => bytesNat bytes (4 * i) 4)
          engineGo die eng fuel ((s.modRun die eng (fun x => { x with idx := idx })).bump bytes.length)
        else launchCommand die eng s
      | some c =>
        let stop := fun (st : Nat) => launchCommand die eng
          ((s.modRun die eng (fun x => { x with status := st })).modPort k.strand.port (fun p => p.forget (.engine die eng)))
        if c.elem && !k.elemOk c then stop 4
        else
          let go := fun (acc : AccKind) (va : Nat) => s.startWalk k.strand.port (.engine die eng) acc k.asid k.root va
          match chunkSides s k die eng c with
          | (some (.bad st), _) => stop st
          | (some (.walk va), _) => go .read va
          | (_, some (.bad st)) => stop st
          | (_, some (.walk va)) => go (if k.form = .cpyred then .atomic else .write) va
          | (a, b) =>
            let part := fun (x : Option Side) => match x with | some (.at_ l t g) => (some l, t, g) | _ => (none, 0, .coherent)
            let pa := part a
            let pb := part b
            let bad := k.form == .cpyrem && (match (if k.opt = 0 then pb.1 else pa.1) with
              | some p => windowBad s r (k.opt == 1) p c.len
              | none => true)
            if bad then stop 5
            else engineGo die eng fuel (s.modRun die eng (fun x => { x with
              pos := x.pos + 1
              pieces := x.pieces ++ [{ src := pa.1, dst := pb.1, len := c.len, sreg := pa.2.2, dreg := pb.2.2 }]
              tsrc := if x.tsrc < pa.2.1 then pa.2.1 else x.tsrc
              tdst := if x.tdst < pb.2.1 then pb.2.1 else x.tdst }))
/-- A bound on the parts of a command. -/
def CpyCmd.fuel (k : CpyCmd) : Nat :=
  let n := k.b.toNat
  let m := k.b1.toNat % 2 ^ 32
  match k.form with
  | .cpy2d => n / 2 ^ 32 * partsOf (n % 2 ^ 32) + 2
  | .cpyg => partsOf (4 * m) + 4 * m + 4
  | .cpys => partsOf (4 * m) + 4 * m + 4
  | _ => 2 * partsOf n + 16
/-- COMMAND_START: the engine takes the next command of its queue (R279). One whose CPYRING target is invalid ends with STATUS 3 after 12 cycles, and at
once where that is found at the recheck (DESIGN CHOICE, entry 25 of the log). -/
def execCommandStart (die eng : Nat) (s : State) : Out :=
  let e := s.engine die eng
  match e.running, e.queue with
  | none, k :: rest =>
    let r : CpyRun := { cmd := k, pos := 0, pieces := [], idx := [], tsrc := 0, tdst := 0, status := 0, written := false, slot := none,
                        unacked := [], win := if k.form = .cpyrem then s.mgmt.win else [], bad := [] }
    let s1 := s.modEngine die eng (fun _ => { queue := rest, running := some r })
    if k.form = .cpyring ∧ badTarget s k = true then
      .next ((s1.modRun die eng (fun x => { x with status := 3 })).after 12 (.copyCompletion die eng))
    else .next ((engineGo die eng k.fuel s1).bump 4)
  | _, _ => .next s
/-- COPY_WALK_END: the command goes on with the page whose walk ended. -/
def execCopyWalkEnd (die eng : Nat) (s : State) : Out :=
  match (s.engine die eng).running with
  | none => .next s
  | some r => .next ((engineGo die eng r.cmd.fuel s).bump 4)
/-- The slot that a CPYRING has reserved is not free yet; a slot popped in this cycle is free from the next one (R275, R282). -/
def State.slotWait (s : State) (g : Ring) (n : BitVec 32) : Bool := decide (g.slots ≤ (n - g.head).toNat + g.fresh s.cycle)
/-- RING_RESERVATION: CPYRING, its target checked again, reserves the next unreserved count, and waits until that slot is free (R282). -/
def execRingReservation (die eng : Nat) (s : State) : Out :=
  match (s.engine die eng).running with
  | none => .next s
  | some r =>
    if r.slot.isNone && badTarget s r.cmd then
      .next ((s.modRun die eng (fun x => { x with status := 3 })).after 0 (.copyCompletion die eng))
    else match ringTarget s r.cmd with
      | none => .next s
      | some (m, ix) =>
        let g := m.rings[ix.toNat]
        let n := r.slot.getD g.reserved
        let s1 := if r.slot.isSome then s
          else (s.modStrand m.sa (fun x => x.setRing ix { x.rings[ix.toNat] with reserved := g.reserved + 1 })).modRun die eng
            (fun x => { x with slot := some n })
        if s.slotWait g n then .next (s1.after 1 (.ringReservation die eng))
        else .next (s1.after (12 + r.tsrc + r.cmd.cycles + localLatency r.cmd.strand 3 operandStore) (.copyCompletion die eng))

/-! ### The writes (R280 to R284) -/

/-- The location field of a watch log record for a copy engine (R378). -/
def engineLoc (die eng : Nat) : Nat := die + eng * 8
/-- An access of an engine meets the watches. -/
def engineWatch (s : State) (die eng loc n : Nat) (rd wr : Bool) (region : Region) : State :=
  if loc < hbmTop then s.watchAll loc n rd wr region .slice die 2 (engineLoc die eng) else s
/-- Every source part is read; a private one's lines are then in the die's L2 (R280). -/
def watchSources (die eng : Nat) (ps : List Piece) (s : State) : State :=
  ps.foldl (fun t p => match p.src with
    | some a => (if p.sreg = .priv then linesOf a p.len else []).foldl (fun u k => u.fillL2 die k) (engineWatch t die eng a p.len true false p.sreg)
    | none => t) s
/-- Struck source data: STATUS 6, and the struck bytes are undefined (R283, R391). -/
def CpyRun.struck (r : CpyRun) (s : State) : Bool :=
  r.pieces.any (fun p => match p.src with
    | some a => (s.poison ++ r.bad).any (fun x => decide (a ≤ x) && decide (x < a + p.len))
    | none => false)
/-- Destination bytes that lie in the source ranges are undefined (R280). -/
def overlapBytes (ps : List Piece) (loc ctr : Nat) (bs : List Byte) : List Byte :=
  let srcs := ps.filterMap (fun p => p.src.map (fun a => (a, p.len)))
  if srcs.any (fun a => overlaps a.1 a.2 loc bs.length) then
    bs.zipIdx.map (fun b => if srcs.any (fun a => decide (a.1 ≤ loc + b.2) && decide (loc + b.2 < a.1 + a.2)) then
      Config.freeByte (ctr + b.2) else b.1)
  else bs
/-- The pattern bytes of a CPYFILL. -/
def fillBytes (k : CpyCmd) (n : Nat) : List Byte :=
  (List.range n).map (fun j => BitVec.ofNat 8 (k.src.toNat / 2 ^ (8 * (j % 2 ^ k.opt))))
/-- One element of a reduction (R281). -/
def reduceElem (opt d v : Nat) : Nat :=
  match opt with
  | 0 => (fAdd .rne fp32 false (fp32.value d) (fp32.value v)).bits
  | 1 => (fAdd .rne bf16 false (bf16.value d) (bf16.value v)).bits
  | _ => (d + v) % 2 ^ 32
/-- The elements of a reduction: each whole element is added into its destination; one with a struck byte is undefined, and a part of an element
before the page that ends the command is left as it is. -/
def reduceBytes (opt e ctr : Nat) (old new : List Byte) (sick : List Bool) : List Byte :=
  (List.range (old.length / e)).flatMap (fun i =>
    if ((sick.drop (e * i)).take e).any id then (List.range e).map (fun j => Config.freeByte (ctr + e * i + j))
    else natBytes e (reduceElem opt (bytesNat old (e * i) e) (bytesNat new (e * i) e))) ++ old.drop (old.length / e * e)
/-- The bytes that a plain command writes into its destination parts, in command order. -/
def CpyRun.output (r : CpyRun) (s : State) (moves : List Piece) : List Byte :=
  let n := (moves.map (·.len)).foldl (· + ·) 0
  match r.cmd.form with
  | .cpyfill => fillBytes r.cmd n
  | .cpyred =>
    let sick := moves.flatMap (fun p => (List.range p.len).map (fun i =>
      r.sick s (p.src.getD 0 + i) || s.poison.contains (p.dst.getD 0 + i)))
    reduceBytes r.cmd.opt r.cmd.grain s.freeCtr (moves.flatMap (fun p => r.bytesAt s p.dreg (p.dst.getD 0) p.len)) (sourceOf s r s.freeCtr moves) sick
  | _ => sourceOf s r s.freeCtr moves
/-- Bytes are written part by part, and each write meets the watches; private lines are written at the L2 of the issuing strand's die and leave its
core's L1D (R280). -/
def putPieces (die eng sa : Nat) (moves : List Piece) (rd : Bool) : List Piece → List Byte → State → State
  | [], _, s => s
  | p :: r, bs, s =>
    let d := p.dst.getD 0
    let out := overlapBytes moves d (s.freeCtr + bs.length) (bs.take p.len)
    putPieces die eng sa moves rd r (bs.drop p.len)
      (engineWatch (s.writeBelow sa (isPrivate true p.dreg) d p.len (out.foldr (fun b acc => b.toNat + 256 * acc) 0)) die eng d p.len rd true p.dreg)
/-- The writes of a plain command: every source byte is read first; then the destinations are written in command order. -/
def writePieces (die eng : Nat) (r : CpyRun) (s : State) : State :=
  let moves := r.pieces.filter (fun p => p.dst.isSome)
  let out := r.output s moves
  let free := r.struck s || r.cmd.form == .cpyred || moves.any (fun p => moves.any (fun x => match x.src, p.dst with
    | some a, some d => overlaps a x.len d p.len
    | _, _ => false))
  let s1 := putPieces die eng r.cmd.sa moves (r.cmd.form == .cpyred) moves out (watchSources die eng r.pieces s)
  if free then s1.bump (2 * out.length) else s1
/-- A CPYRING writes the rows of its tile, zero rows up to row 255, and the scale vector; the rest of the tile area is left as it is (R282). -/
def ringWrite (s : State) (r : CpyRun) (loc size : Nat) : State :=
  let pitch := 64 * 2 ^ (r.cmd.dst.toNat / 2 ^ 17 % 8)
  let rows := r.cmd.dst.toNat / 256 % 512 * pitch
  let all := sourceOf s r s.freeCtr r.pieces
  let value := fun (bs : List Byte) => bs.foldr (fun b acc => b.toNat + 256 * acc) 0
  ((s.write loc (256 * pitch) (value (all.take rows))).write (loc + size) 256 (value (all.drop rows))).bump
    (if r.struck s then all.length else 0)
/-- The links of a mask that are up. -/
def upLinks (up : BitVec 32) (links : Nat) : List Nat := (List.range 32).filter (fun l => links.testBit l && up.getLsbD l)
/-- A remote command's flits leave, spread round-robin over the up links of their window, each to be acknowledged (R284, R385). -/
def sendFlits (r : CpyRun) (s : State) : State × List Unacked :=
  let get := r.cmd.opt = 1
  r.pieces.foldl (fun (t : State × List Unacked) p =>
    let remote := (if get then p.src else p.dst).getD 0
    let home := (if get then p.dst else p.src).getD 0
    match windowOf remote with
    | none => t
    | some (i, o) =>
      let w := Tab.getD r.win i []
      let links := bytesNat w 0 4
      let ups := upLinks s.mgmt.link links
      (flitsOf o home (p.len / 64 + 2) p.len).foldl (fun (u : State × List Unacked) f =>
        let n := u.2.length
        let flit : Flit := { link := ups[n % ups.length]?.getD 0, module := bytesNat w 4 2, off := f.1, put := !get, answer := false, len := f.2.2,
                             data := if get then 0 else BitVec.ofNat 512 (bytesNat (sourceBytes s r p.sreg (s.freeCtr + 64 * n) f.2.1 f.2.2) 0 f.2.2) }
        ({ u.1 with remoteOut := u.1.remoteOut ++ [flit] },
         u.2 ++ [{ num := n, loc := f.2.1, len := f.2.2, links := links, flit := flit }])) t) (s, [])
/-- A part of a remote command has no link of its window that is up (R283). -/
def CpyRun.cutOff (r : CpyRun) (s : State) : Bool :=
  r.pieces.any (fun p => match (p.remote (r.cmd.opt == 1)).bind windowOf with
    | some (i, _) => (upLinks s.mgmt.link (bytesNat (Tab.getD r.win i []) 0 4)).isEmpty
    | none => false)
/-- COPY_COMPLETION: every write of the command is performed and its message posted; a put or get ends with its last
acknowledgement, a CPYRING with its TAIL advance. A command that stopped early keeps its STATUS 1, 2, 4 or 5 though struck source data would give 6
(R283; DESIGN CHOICE, entry 25 of the log). -/
def execCopyCompletion (die eng : Nat) (s : State) : Out :=
  match (s.engine die eng).running with
  | none => .next s
  | some r =>
    let k := r.cmd
    if r.written then .next (endCommand die eng s) else
    let st := if r.status = 0 ∧ r.struck s = true then 6 else r.status
    let s0 := s.modRun die eng (fun x => { x with status := st })
    match k.form with
    | .cpyrem =>
      if r.status = 5 then .next (endCommand die eng s0)
      else if r.cutOff s then .next (endCommand die eng (s0.modRun die eng (fun x => { x with status := 5 })))
      else
        let f := sendFlits r (if k.opt = 0 then watchSources die eng r.pieces s0 else s0)
        if f.2.isEmpty then .next (endCommand die eng s0)
        else .next ((f.1.modRun die eng (fun x => { x with unacked := f.2 })).bump (if r.struck s then 64 * f.2.length else 0))
    | .cpyring =>
      match r.slot, ringTarget s k with
      | some n, some (m, ix) =>
        let g := m.rings[ix.toNat]
        let off := g.slotAt n
        if s.ringHeld (saPkg m.sa) off (256 * (64 * 2 ^ (k.dst.toNat / 2 ^ 17 % 8))) || s.ringHeld (saPkg m.sa) (off + g.size) 256 then
          .next (s.after 1 (.copyCompletion die eng))
        else .next ((ringWrite (watchSources die eng r.pieces s0) r (clusterLoc (saPkg m.sa) (operandStore + off)) g.size).after 0
          (.cpyringTailAdvance die eng))
      | _, _ => .next (if r.status = 0 then s.after 0 (.ringReservation die eng) else endCommand die eng s0)
    | _ => .next (endCommand die eng (writePieces die eng r s0))
/-- An engine of the die holds an earlier reservation of the same ring (R282). -/
def State.earlierSlot (s : State) (die : Nat) (k : CpyCmd) (n : BitVec 32) : Bool :=
  (s.die die).engines.any (fun e => match e.2.running with
    | some x => (match x.slot with
      | some n2 => x.cmd.dst.toNat % 64 == k.dst.toNat % 64 && saCluster x.cmd.sa == saCluster k.sa && n2 != n && decide ((n - n2).toNat < 2 ^ 31)
      | none => false)
    | none => false)
/-- CPYRING_TAIL_ADVANCE: in the order of the reservations (R282). -/
def execCpyringTailAdvance (die eng : Nat) (s : State) : Out :=
  match (s.engine die eng).running with
  | none => .next s
  | some r => match r.slot, ringTarget s r.cmd with
    | some n, some (m, ix) =>
      if s.earlierSlot die r.cmd n then .next (s.after 1 (.cpyringTailAdvance die eng))
      else
        .next (endCommand die eng (((s.modStrand m.sa (fun x =>
          let g := x.rings[ix.toNat]
          x.setRing ix { g with tail := g.tail + 1 })).modRun die eng (fun x => { x with slot := none })).pokeSeq (saPkg m.sa) 0))
    | _, _ => .next (s.after 0 (.ringReservation die eng))

/-! ### Remote modules (R284, R385) -/

/-- REMOTE_FLIT_ACK: a flit is acknowledged, with its data for a get, or refused. -/
def execRemoteFlitAck (die eng flit : Nat) (ok : Bool) (data : BitVec 512) (s : State) : Out :=
  match (s.engine die eng).running with
  | none => .next s
  | some r => match r.unacked.find? (fun u => u.num == flit) with
    | none => .next s
    | some u =>
      let region := ((r.pieces.find? (fun p => match p.dst with | some d => decide (d ≤ u.loc) && decide (u.loc < d + p.len) | none => false)).map
        (·.dreg)).getD .coherent
      let s1 := if ok && r.cmd.opt == 1 then
          engineWatch (s.writeBelow r.cmd.sa (isPrivate true region) u.loc u.len (data.toNat % 2 ^ (8 * u.len))) die eng u.loc u.len false true region
        else s
      let s2 := s1.modRun die eng (fun x => { x with
        unacked := x.unacked.filter (fun y => y.num != flit)
        status := if ok then x.status else 5 })
      if r.unacked.length ≤ 1 then .next (endCommand die eng s2) else .next s2
/-- The entry of the window table that exports memory to a module, if it covers a flit at `off` (R385). -/
def State.exported (s : State) (src off : Nat) : Option Nat :=
  (s.mgmt.win.find? (fun w => bytesNat w.2 6 1 % 2 == 1 && bytesNat w.2 4 2 == src && decide (off + 64 ≤ bytesNat w.2 0x18 8))).map
    (fun w => bytesNat w.2 0x10 8 + off)
/-- REMOTE_FLIT_ARRIVAL: a flit of another module over a link is performed at the local address, at the LLC, or refused (R385). -/
def execRemoteFlitArrival (src : FlitSource) (off : Nat) (put : Bool) (data : BitVec 512) (s : State) : Out :=
  let n := min src.len 64
  let answer : Flit := { link := src.link, module := src.module, off := off, put := put, answer := true, len := 0, data := 0 }
  match s.exported src.module off with
  | none => .next { s with remoteOut := s.remoteOut ++ [answer] }
  | some pa =>
    let s1 := if put then s.write pa n data.toNat else s
    let s2 := s1.watchAll pa n (!put) put .coherent .slice (baseDie pa) 3 (baseDie pa + src.link * 8)
    .next { s2 with remoteOut := s2.remoteOut ++ [{ answer with len := n, data := if put then 0 else BitVec.ofNat 512 (s.read pa n) }] }
/-- A flit of a link that went down goes over another link of its window. -/
def Unacked.reroute (u : Unacked) (up : BitVec 32) : Unacked :=
  let ups := upLinks up u.links
  { u with flit := { u.flit with link := ups[u.num % ups.length]?.getD 0 } }
/-- The unacknowledged flits of a command that went over the link are sent again on others; a command that has none left for one of them ends
with STATUS 5 (R283, R385). -/
def linkLost (die eng link : Nat) (up : BitVec 32) (s : State) : State :=
  match (s.engine die eng).running with
  | none => s
  | some r =>
    let lost := r.unacked.filter (fun u => u.flit.link == link)
    if lost.isEmpty then s
    else if lost.any (fun u => (upLinks up u.links).isEmpty) then
      endCommand die eng (s.modRun die eng (fun x => { x with unacked := [], status := 5 }))
    else
      let s1 := s.modRun die eng (fun x => { x with
        unacked := x.unacked.map (fun u => if u.flit.link == link then u.reroute up else u) })
      { s1 with remoteOut := s1.remoteOut ++ lost.map (fun u => (u.reroute up).flit) }
/-- LINK_DOWN: its unacknowledged flits are resent on the others (R385). -/
def execLinkDown (link : Nat) (s : State) : Out :=
  let up := s.mgmt.link &&& ~~~((1 : BitVec 32) <<< (link % 32))
  let s1 : State := { s with mgmt := { s.mgmt with link := up } }
  .next ((s1.dies.flatMap (fun d => d.2.engines.map (fun e => (d.1, e.1)))).foldl (fun t p => linkLost p.1 p.2 (link % 32) up t) s1)
/-- LINK_TRAIN. -/
def execLinkTrain (up : BitVec 32) (s : State) : Out := .next { s with mgmt := { s.mgmt with link := up } }

end Sys2Proof.Machine
end

