-- ==== Sys2Proof/Machine/Debug.lean ====
section
/-! DEFINITION. The debug page, stops and steps, watchpoints and trace marks: major 0x3C and the debug commands (R369 to
R379). -/

namespace Sys2Proof.Machine

/-! ### Stops (R371 to R374) -/

/-- The slot that a debug command names. -/
def debugSlot (cl core slot : Nat) : Nat := mkSa (pcDie cl) (pcIndex cl) core slot
/-- Changes the debug state of a strand. -/
def Strand.modDebug (m : Strand) (f : DebugState → DebugState) : Strand := { m with dbg := f m.dbg }
/-- The stop record of a strand whose slot becomes VACANT (R374). -/
def Strand.stopRecord (m : Strand) (cycle reason : Nat) : List Byte :=
  natBytes 8 cycle ++ natBytes 8 m.pc.toNat ++ natBytes 4 (m.sa % 2 ^ 18) ++ natBytes 4 m.vcid ++ natBytes 4 m.troupe ++ natBytes 1 reason ++
  natBytes 1 (m.dbg.skid.toNat + m.h.toNat * 2) ++ natBytes 2 (if reason = 4 then m.dbg.brk.toNat else 0)
/-- A stop is complete: the slot counts VACANT from here, and its record follows 24 cycles later. -/
def State.stopNow (s : State) (m : Strand) (reason : Nat) : State :=
  (s.modStrand m.sa (fun x => { x with block := none }.modDebug (fun d => { d with
    stopped := true, stopReq := none, stepping := none, skid := false, pending := d.pending ++ [m.stopRecord s.cycle reason] }))).after 24
    (.stopComplete m.sa)
/-- STOP_COMPLETE: the oldest record is written to the cluster's debug page; a stage manager has none. -/
def execStopComplete (sa : Nat) (s : State) : Out :=
  match s.strand? sa with
  | none => .next s
  | some m => match m.dbg.pending with
    | [] => .next s
    | bs :: rest =>
      let s1 := s.modStrand sa (fun x => x.modDebug (fun d => { d with pending := rest }))
      if m.kind == .sm then .next s1
      else .next (s1.modCluster (saPkg sa) (fun c => { c with
        drec := Tab.put c.drec (c.drecTail.toNat % 64) bs, drecTail := c.drecTail + 1 }))
/-- STOP: takes effect at the strand's first turn after it arrives; a claimed BRK that is stopping already stays one. -/
def execStop (cl core slot : Nat) (s : State) : Out :=
  .next (s.modStrand (debugSlot cl core slot) (fun m =>
    if m.run == .vacant || m.dbg.stopped then m else m.modDebug (fun d => { d with stopReq := if d.stopReq = some 4 then some 4 else some 1 })))
/-- The strand may issue again. -/
def Strand.resumed (m : Strand) : Strand := m.modDebug (fun d => { d with stopReq := none, stopped := false, stepping := none, frozen := false })
/-- The vcores of a troupe that share a barrier with another. -/
def Troupe.partners (t : Troupe) (vcid : Nat) : List Nat :=
  ((t.bars.filter (fun b => b.2.members.contains vcid)).flatMap (fun b => b.2.members)).eraseDups.filter (fun v => v != vcid)
/-- A die that was too hot lets nothing resume (R394). -/
def State.tripped (s : State) (cl : Nat) : Bool := (s.die (pcDie cl)).tripped
/-- RESUME, of a strand whose stop is not complete too; a cluster that was blacked out serves guests again. With FREEZE the strand's frozen partners
resume too, which no other RESUME frees (R370, R373). -/
def execResume (cl core slot : Nat) (freeze : Bool) (s : State) : Out :=
  let sa := debugSlot cl core slot
  match s.strand? sa with
  | none => .next s
  | some m =>
    let s1 := (s.modStrand sa (fun x => if (x.dbg.stopped || x.dbg.stopReq.isSome) && (freeze || !x.dbg.frozen) then x.resumed else x)).modCluster cl (fun c => { c with blackout := none })
    if s.tripped cl then .next s else match freeze, s.troupe? m.troupe with
    | true, some t => .next ((t.partners m.vcid).foldl (fun u v => match u.residentOf m.troupe v with
        | some p => u.modStrand p.sa (fun x => if x.dbg.frozen then x.resumed else x)
        | none => u) s1)
    | _, _ => .next s1
/-- The time in which partners are frozen: 64 + 8·h (R190, R373). -/
def Troupe.freezeTime (t : Troupe) (vcid : Nat) : Nat :=
  (t.bars.filter (fun b => b.2.members.contains vcid)).foldl (fun x b => if t.barLocal b.2 then x else
    if x < t.barSpan b.2 then t.barSpan b.2 else x) 64
/-- STEP and STEPTRAP of a stopped strand: one virtual instruction; with H = 1 STEPTRAP acts as STEP. -/
def stepStrand (trap : Bool) (sa : Nat) (s : State) : State :=
  if s.tripped (saPkg sa) then s else s.modStrand sa (fun m =>
    if m.dbg.stopped then m.modDebug (fun d => { d with stopped := false, stepping := some (trap && !m.h, m.nextQ) }) else m)
/-- STEP and STEPTRAP; with FREEZE the partners are stopped first, and it begins when they have had the time to: `again` is the command without
FREEZE. -/
def stepCommand (trap : Bool) (sa : Nat) (freeze : Bool) (again : Instr) (s : State) : Out :=
  match s.strand? sa with
  | none => .next s
  | some m => match freeze, s.troupe? m.troupe with
    | true, some t =>
      let n := t.freezeTime m.vcid
      let s1 := (t.partners m.vcid).foldl (fun u v => match u.residentOf m.troupe v with
        | some p => (u.modStrand p.sa (fun x => if x.dbg.stopped then x else x.modDebug (fun d => { d with frozen := true }))).after n
            (.stop (saPkg p.sa) (saCore p.sa) (saSlot p.sa))
        | none => u) s
      .next (s1.after n again)
    | _, _ => .next (stepStrand trap sa s)
/-- STEP. -/
def execStep (cl core slot : Nat) (freeze : Bool) (s : State) : Out :=
  stepCommand false (debugSlot cl core slot) freeze (.step cl core slot false) s
/-- STEPTRAP. -/
def execSteptrap (cl core : Nat) (slot : StepSlot) (s : State) : Out :=
  stepCommand true (debugSlot cl core slot.slot) slot.freeze (.steptrap cl core ⟨slot.slot, false⟩) s
/-- BLACKOUT reaches every strand of the cluster; one in force goes on from its own cycle, and a stop that was asked for before stays what it is
(R371, R372). -/
def State.blackout (s : State) (cl : Nat) : State :=
  (s.strands.filter (fun m => m.kind != .sm && saPkg m.sa == cl && m.run != .vacant && !m.dbg.stopped)).foldl
    (fun t m => t.modStrand m.sa (fun x => x.modDebug (fun d => { d with stopReq := some (d.stopReq.getD 3) })))
    (s.modCluster cl (fun c => { c with blackout := some (c.blackout.getD s.cycle) }))
/-- BLACKOUT. -/
def execBlackout (cl : Nat) (s : State) : Out := .next (s.blackout cl)
/-- The claim of a slot is set or released. -/
def claim (on : Bool) (sa : Nat) (s : State) : State :=
  match s.slotAt sa with
  | none => s
  | some m => s.putStrand (m.modDebug (fun d => { d with claimed := on }))
/-- CLAIM. -/
def execClaim (cl core slot : Nat) (s : State) : Out := .next (claim true (debugSlot cl core slot) s)
/-- UNCLAIM. -/
def execUnclaim (cl core slot : Nat) (s : State) : Out := .next (claim false (debugSlot cl core slot) s)
/-- CLRHIST: the core counts anew from here. -/
def execClrhist (cl core : Nat) (s : State) : Out :=
  .next (s.modCluster cl (fun c => { c with hist := Tab.put (c.hist.filter (fun h => h.1 / 17 != core)) (17 * core) s.cycle }))

/-! ### Watchpoints (R375 to R378) -/

/-- A word of a DBG form. -/
def dbgWord (d a b minor aux : Nat) (c : Bool) : Word := formA 0x3C d a b minor aux c
/-- n of a watch specification is at most 4 and some access kind is watched. -/
def watchSpecOk (v : Word) : Bool := decide (v.toNat % 8 ≤ 4) && v.toNat / 8 % 4 != 0
/-- WPSET: the check of R143, then a translation of the watched bytes. -/
def execWpset (d a b : SReg) (n : SegIx) (c : Bool) (s : State) : Out :=
  let m := s.me
  let v := m.getS b
  let w := dbgWord d.toNat a.toNat b.toNat 0 n.toNat c
  let size := 8 * 2 ^ (v.toNat % 8)
  let g := m.getSeg n
  if watchSpecOk v = false then s.trap .illegal w
  else match segCheck m g true false (m.getS a) size size with
    | .bad cause addr => s.trap cause addr
    | .ok va =>
      if g.kind ≠ 1 then s.trap .segRights (m.getS a)
      else .next (s.issueMem (.wpset d (v.toNat % 8) (v.getLsbD 3) (v.getLsbD 4)) [.s d] [accessAt m g 0 va size 0] 0 1 c)
/-- WPSET.phys: no translation; the L2 comparator is one of the arming strand's die. -/
def execWpsetPhys (d a b : SReg) (c : Bool) (s : State) : Out :=
  let m := s.me
  let v := m.getS b
  let w := dbgWord d.toNat a.toNat b.toNat 1 0 c
  let size := 8 * 2 ^ (v.toNat % 8)
  let pa := (m.getS a).toNat % 2 ^ 48
  s.gate w true anyKind
    (if watchSpecOk v = false then s.trap .illegal w
     else if pa % size ≠ 0 then s.trap .misaligned (BitVec.ofNat 64 pa)
     else
       let x : Access := { lane := 0, va := pa, size := size, loc := some pa, region := .priv, data := 0 }
       let o : Op := { q := m.nextQ, pc := m.pc, what := .wpset d (v.toNat % 8) (v.getLsbD 3) (v.getLsbD 4), dsts := [.s d], accs := [x],
                       ord := 0, kind := 0, stage := .away, trappable := false, flags := m.flags, issued := s.cycle }
       .next ((s.mod (fun y => { y with ops := y.ops ++ [o] }.retire 4 c)).after 96 (.watchArmResult m.sa m.nextQ)))
/-- WPCLR: the answer comes 96 cycles later, when the comparators clear. -/
def execWpclr (d a : SReg) (c : Bool) (s : State) : Out :=
  let m := s.me
  let o : Op := { q := m.nextQ, pc := m.pc, what := .result d (m.getS a), dsts := [.s d], accs := [], ord := 0, kind := 0, stage := .away,
                  trappable := false, flags := m.flags, issued := s.cycle }
  .next ((s.mod (fun x => { x with ops := x.ops ++ [o] }.retire 4 c)).after 96 (.watchArmResult m.sa m.nextQ))
/-- The watches whose comparators lie in an L2 slice, or in an LLC slice. -/
def State.watchLoad (s : State) (p : Watch → Bool) : Nat :=
  s.dies.foldl (fun n d => n + (d.2.watches.filter (fun w => p w.2)).length) 0
/-- The watch that an access asks for. -/
def watchFor (m : Strand) (a : Access) (rd wr : Bool) : Watch :=
  let pa := a.loc.getD 0
  let die := if a.region == .coherent then baseDie pa else saDie m.sa
  { pa := pa, va := a.va, size := a.size, rd := rd, wr := wr, owner := m.cid, l2 := die * 128 + l2Slice pa, llc := baseDie pa * 64 + llcSlice pa }
/-- A free entry of a die's table. -/
def Die.freeWatch (d : Die) : Option Nat := (List.range 256).find? (fun i => (Tab.get? d.watches i).isNone)
/-- WATCH_ARM_RESULT: the comparators are armed if both slices and the table have room, or freed; the handle or status is
ready. -/
def execWatchArmResult (sa q : Nat) (s : State) : Out :=
  match s.strand? sa with
  | none => .next s
  | some m => match m.op? q anyWhat with
    | none => .next s
    | some o => match o.what, o.accs with
      | .wpset d _ rd wr, a :: _ =>
        let w := watchFor m a rd wr
        let room := decide (s.watchLoad (fun x => x.l2 == w.l2) < 16) && decide (s.watchLoad (fun x => x.llc == w.llc) < 16) &&
          decide (w.pa + w.size ≤ hbmTop)
        (match room, (s.die (saDie sa)).freeWatch with
         | true, some e =>
           let s1 := s.modDie (saDie sa) (fun x => { x with watches := Tab.put x.watches e w })
           .next ((s1.modStrand sa (fun x => x.landS q d (BitVec.ofNat 64 (2 ^ 63 + saDie sa * 256 + e)))).complete sa q anyWhat)
         | _, _ => .next ((s.modStrand sa (fun x => x.landS q d 0)).complete sa q anyWhat))
      | .result d v, _ =>
        let die := v.toNat / 256 % 8
        let e := v.toNat % 256
        let mine := v.toNat == 2 ^ 63 + die * 256 + e && (match Tab.get? (s.die die).watches e with | some w => w.owner == m.cid | none => false)
        let s1 := if mine then s.modDie die (fun x => { x with watches := Tab.del x.watches e }) else s
        .next ((s1.modStrand sa (fun x => x.landS q d (if mine then 0 else 1))).complete sa q anyWhat)
      | _, _ => .next s
/-- A hit goes to the log of its die, and to its owner unless that holds a WATCHPOINT already, is switched out or stopped. -/
def State.reportHit (s : State) (die : Nat) (h : WatchHit) : State :=
  let s1 := s.modDie die (fun d => { d with watchLog := Tab.put d.watchLog (d.watchCount % 256) h.record, watchCount := d.watchCount + 1 })
  match s1.strands.find? (fun m => m.run != .vacant && m.cid == h.owner) with
  | none => s1
  | some m =>
    if m.dbg.stopped || m.async.any (fun a => a.1 == .watchpoint) then s1
    else s1.modStrand m.sa (fun x => { x with async := x.async ++ [(.watchpoint, h.addr)] })
/-- WATCHPOINT_REPORT. -/
def execWatchpointReport (die : Nat) (s : State) : Out :=
  let due := (s.die die).hits.filter (fun h => decide (h.at_ ≤ s.cycle))
  let s1 := s.modDie die (fun d => { d with hits := d.hits.filter (fun h => decide (s.cycle < h.at_)) })
  .next (due.foldl (fun t h => t.reportHit die h) s1)

/-! ### Trace marks (R379) -/

/-- TRACEMARK: a record in the die's trace ring, if that is enabled; the places of its fields are the model's (the rule lists them
in order). -/
def execTracemark (a t : SReg) (c : Bool) (s : State) : Out :=
  let m := s.me
  let die := saDie m.sa
  let g := Tab.getD s.mgmt.trace die (0, 0)
  let len := g.2.toNat
  if g.1.getLsbD 63 = false ∨ len = 0 then .next (s.fin 4 c)
  else
    let bs := natBytes 8 s.cycle ++ natBytes 8 m.pc.toNat ++ natBytes 3 (m.sa % 2 ^ 18) ++ natBytes 4 m.vcid ++ natBytes 1 t.toNat ++
      natBytes 8 (m.getS a).toNat
    let pa := g.1.toNat % 2 ^ 48 / 64 * 64 + 32 * ((s.die die).traceCount % len)
    .next (((s.writeBytes pa bs).modDie die (fun d => { d with traceCount := d.traceCount + 1 })).fin 4 c)

end Sys2Proof.Machine
end

