-- ==== Sys2Proof/Machine/Dump.lean ====
section
/-! DEFINITION. Fatal faults and core dumps (R221 to R223). -/

namespace Sys2Proof.Machine

/-- The vcore count V. -/
def Troupe.vcores (t : Troupe) : Nat := t.place.length
/-- The 48 bytes of a fault record (R223). -/
def FaultRec.bytes (r : FaultRec) : List Byte :=
  natBytes 8 r.cycle ++ natBytes 8 r.pc.toNat ++ natBytes 8 r.addr.toNat ++ natBytes 4 r.vcid ++ natBytes 4 (r.sa % 2 ^ 18) ++
  natBytes 4 r.info.toNat ++ natBytes 1 r.cause.toNat ++ natBytes 1 r.reason ++ natBytes 10 0
/-- The first 512 bytes of a dump that ends in a cycle. -/
def Troupe.dumpHead (t : Troupe) (tr cycle : Nat) : List Byte :=
  let short := decide (t.field 0x0F8 8 < 0x200 + 1552 * t.vcores)
  let kept := t.faults.length - 1
  let first := match t.faults with | f :: _ => f.cycle | [] => 0
  natBytes 4 0x504D5544 ++ natBytes 2 1 ++ natBytes 2 ((if short then 1 else 0) + (if t.quietRecs.isEmpty then 0 else 2)) ++
  natBytes 4 tr ++ natBytes 4 t.vcores ++ natBytes 4 t.seconds ++ natBytes 4 kept ++ natBytes 8 first ++ natBytes 8 cycle ++
  natBytes 24 0 ++ ((t.faults.take 9).flatMap FaultRec.bytes) ++ natBytes (48 * (9 - (t.faults.take 9).length)) 0 ++ natBytes 16 0
/-- An item of a dump, if the dump area holds it. -/
def Troupe.dumpItem (t : Troupe) (off : Nat) (bs : List Byte) (s : State) : State :=
  if off + bs.length ≤ t.field 0x0F8 8 then s.writeBytes (t.field 0x0F0 8 + off) bs else s
/-- The quiescence records of a troupe in its dump area (R197, R346). -/
def Troupe.dumpQuiet (t : Troupe) (s : State) : State :=
  t.quietRecs.zipIdx.foldl (fun u p => t.dumpItem (0x200 + 1536 * t.vcores + 16 * p.2)
    (natBytes 8 p.1.1.toNat ++ natBytes 8 p.1.2.toNat) u) s
/-- The fields of the head, each an item of its own: offset and size. -/
def headFields : List (Nat × Nat) :=
  [(0x000, 4), (0x004, 2), (0x006, 2), (0x008, 4), (0x00C, 4), (0x010, 4), (0x014, 4), (0x018, 8), (0x020, 8), (0x028, 24)] ++
  (List.range 9).map (fun i => (0x040 + 48 * i, 48)) ++ [(0x1F0, 16)]
/-- The dump of a troupe as it stands when it ends; the place of a halted vcore's context, which was released (R220), stays as it is (entry 71 of
the log). -/
def State.writeDump (s : State) (tr : Nat) (t : Troupe) : State :=
  let head := t.dumpHead tr s.cycle
  let s1 := headFields.foldl (fun u f => t.dumpItem f.1 ((head.drop f.1).take f.2) u) s
  t.dumpQuiet (t.place.foldl (fun u p =>
    if t.halted.contains p.1 then u else t.dumpItem (0x200 + 1536 * p.1) (s.vcoreRecord tr p.1) u) s1)

/-- FATAL_REPORT: the first one starts the dump, later ones are counted and 8 of them kept. With no report on its way it is
the firmware's own request to end the troupe. A die whose dump writer has faulted writes no dump. -/
def execFatalReport (tr : Nat) (s : State) : Out :=
  match s.troupe? tr with
  | none => .next s
  | some t =>
    let die := saDie t.launcher
    let due := fun (r : FaultRec) => decide (r.cycle + diePath (saDie r.sa) die ≤ s.cycle)
    let rec_ := match t.reports.find? due, t.reports with
      | some r, _ => r
      | none, r :: _ => r
      | none, [] => s.requestRec t
    let s1 := (s.bump 6).modTroupe tr (fun x => { x with reports := dropFirst (fun r => r == rec_) x.reports })
    if t.ending then
      .next (s1.modTroupe tr (fun x => { x with
        seconds := x.seconds + 1, faults := if x.faults.length < 9 then x.faults ++ [rec_] else x.faults }))
    else
      let s2 := s1.modTroupe tr (fun x => { x with ending := true, faults := [rec_] })
      if (s.die die).hold then .next s2
      else
        let s3 := s2.modDie die (fun d => { d with dumps := d.dumps ++ [tr] })
        .next (if (s.die die).dumps.isEmpty then s3.after 0 (.coreDump tr) else s3)

/-- A vacating request for this vcore is on its way or being served. -/
def State.vacating (s : State) (m : Strand) : Bool :=
  m.swap.isSome || s.agenda.any (fun e => match e.2 with | .slotswapArrival i q => i == firmwareSwap m.sa && q == m.cid | _ => false)
/-- The resident vcores of a troupe that are to be vacated; a stopped slot answers with status 1. -/
def State.toVacate (s : State) (tr : Nat) : List Strand :=
  sortBy (fun a b => decide (a.vcid ≤ b.vcid))
    (s.strands.filter (fun m => m.troupe == tr && m.kind != .sm && m.run != .vacant && !m.dbg.stopped))
/-- The cycles that the copy of a dump takes (R221, R285). -/
def State.dumpTime (s : State) (tr : Nat) (t : Troupe) : Nat :=
  let die := saDie t.launcher
  let src := (t.place.filter (fun p => !t.halted.contains p.1)).foldl (fun x p =>
    let y := match s.residentOf tr p.1, s.cacheOf (cidOf tr p.1) with
      | none, none => llcLatency die (t.slot p.1)
      | _, _ => 24
    if x < y then y else x) 24
  let n := 0x200 + 1536 * t.vcores + 16 * t.quietRecs.length
  12 + src + (n + 255) / 256 + llcLatency die (t.field 0x0F0 8)
/-- CORE_DUMP: firmware vacates the troupe's strands in ascending vcid, at most 4 at a time (R67), one request in a turn;
when every status has returned, the dump is written (R221). A die whose dump writer has faulted goes no further (R222). -/
def execCoreDump (tr : Nat) (s : State) : Out :=
  match s.troupe? tr with
  | none => .next s
  | some t =>
    let die := saDie t.launcher
    let left := s.toVacate tr
    if (s.die die).hold then .next s
    else if left.isEmpty && !s.strands.any (fun m => match m.swap with
        | some r => (match r.cid with | some c => c / 2 ^ 32 == tr | none => false)
        | none => false) then
      if s.cycle < (s.die die).statusBack then .next (s.atCycle (s.die die).statusBack (.coreDump tr))
      else .next (s.after (s.dumpTime tr t) (.coreDumpEnd tr))
    else
      let s1 := s.after 32 (.coreDump tr)
      if 4 ≤ (left.filter s.vacating).length then .next s1
      else match left.find? (fun m => !s.vacating m) with
        | none => .next s1
        | some m => .next (s1.after (diePath die (saDie m.sa)) (.slotswapArrival (firmwareSwap m.sa) m.cid))
/-- CORE_DUMP_END: the last write of the dump; the troupe ends faulted, and the die's next dump begins. A die whose dump writer has faulted keeps its
contexts and dump areas as they stand (R222). -/
def execCoreDumpEnd (tr : Nat) (s : State) : Out :=
  match s.troupe? tr with
  | none => .next s
  | some t =>
    let die := saDie t.launcher
    let s1 := ((s.writeDump tr t).modDie die (fun d => { d with dumps := d.dumps.filter (fun x => x != tr) })).endTroupe tr 1
    if (s.die die).hold then .next s
    else .next (match (s1.die die).dumps with
      | n :: _ => s1.after 0 (.coreDump n)
      | [] => s1)

end Sys2Proof.Machine
end

