-- ==== Sys2Proof/Machine/Launch.lean ====
section
/-! DEFINITION. LAUNCH, the launch descriptor, the placement unit and the release of a troupe (R343 to R346). -/

namespace Sys2Proof.Machine

/-! ### The descriptor (R343, R344) -/

/-- The shape of a troupe: Lc, Sc, W and Hc. -/
structure Shape where
  lc : Nat
  sc : Nat
  w : Nat
  hc : Nat
deriving DecidableEq, Repr
/-- SHAPE of a descriptor. -/
def descShape (bs : List Byte) : Shape :=
  { lc := bytesNat bs 0x00C 1, sc := bytesNat bs 0x00D 1, w := bytesNat bs 0x00E 1, hc := bytesNat bs 0x00F 1 }
/-- P of R20: the vcores of one cluster. -/
def Shape.perCluster (h : Shape) : Nat := h.lc * h.sc + h.hc
/-- The vcore count V of a descriptor. -/
def descVcores (bs : List Byte) : Nat := (descShape bs).perCluster * bytesNat bs 0x00A 1 * bytesNat bs 0x00B 1
/-- SEGS. -/
def descSegs (bs : List Byte) : List Seg := (List.range 8).map (fun i => segOf bs (0x060 + 16 * i))
/-- The channel table: sender, its port, the receiver's port, receiver, and whether the entry is well formed. -/
def State.bindings (s : State) (bs : List Byte) : List (Binding × Bool) :=
  (List.range (bytesNat bs 0x110 4)).map (fun i =>
    let e := memBytes s.mem (bytesNat bs 0x108 8 + 16 * i) 16
    ({ src := bytesNat e 0 4, srcPort := bytesNat e 4 1, dst := bytesNat e 8 4, dstPort := bytesNat e 5 1 },
     decide (bytesNat e 4 1 < 8) && decide (bytesNat e 5 1 < 8) && bytesNat e 6 2 == 0 && bytesNat e 12 4 == 0))
/-- No key stands twice in a list. -/
def noTwice (l : List (Nat × Nat)) : Bool := decide (l.Nodup)
/-- A segment that a launch accepts: R140, and outside system code clear of the control page (R349). -/
def segOk (g : Seg) : Bool :=
  g.valid && !(g.kind == 4 && !g.sys && g.length != 0 && overlaps g.base.toNat g.length 0x1FF0000 0x10000)
/-- A code handle that a launch accepts: with SYS = 1 its range lies inside one placed object (R344). -/
def State.handleOk (s : State) (g : Seg) : Bool :=
  segOk g && (!g.sys || s.sysObjs.any (fun o => decide (o.1 ≤ g.base.toNat) && decide (g.base.toNat + g.length ≤ o.1 + o.2)))
/-- The reserved fields of a descriptor are zero. -/
def reservedClear (bs : List Byte) : Bool :=
  bytesNat bs 0x006 2 / 4 == 0 && bytesNat bs 0x011 3 == 0 && bytesNat bs 0x05C 4 == 0 && bytesNat bs 0x138 8 == 0 &&
  (List.range 8).all (fun i => bytesNat bs (0x148 + 16 * i) 8 == 0) && bytesNat bs 0x1C0 64 == 0
/-- The reserved bytes of the initial tasks are zero; an argument count above 3 counts modulo 4 (entry 68 of the log). -/
def State.initOk (s : State) (bs : List Byte) : Bool :=
  (List.range (bytesNat bs 0x114 4)).all (fun i => s.read (bytesNat bs 0x118 8 + 48 * i + 0x28) 8 == 0)
/-- The shape follows R19: a rectangle inside the package grid, and at least one vcore. -/
def shapeOk (bs : List Byte) : Bool :=
  let h := descShape bs
  let free := bytesNat bs 0x006 1 / 2 % 2 == 1
  let row0 := if free then 0 else bytesNat bs 0x008 1
  let col0 := if free then 0 else bytesNat bs 0x009 1
  let rows := bytesNat bs 0x00A 1
  let cols := bytesNat bs 0x00B 1
  decide (1 ≤ rows) && decide (1 ≤ cols) && decide (row0 + rows ≤ 6) && decide (col0 + cols ≤ 16) && decide (h.lc ≤ 48) &&
  decide (1 ≤ h.sc) && decide (h.sc ≤ h.w) && (h.w == 4 || h.w == 8 || h.w == 16) && decide (h.hc ≤ 4) && decide (1 ≤ h.perCluster)
/-- The descriptor is valid (R343). -/
def State.descOk (s : State) (bs : List Byte) : Bool :=
  let v := descVcores bs
  let ordered := bytesNat bs 0x006 1 % 2 == 1
  let init := bytesNat bs 0x114 4
  let binds := s.bindings bs
  bytesNat bs 0x000 4 == 0x48434E4C && bytesNat bs 0x004 2 == 1 && reservedClear bs && shapeOk bs && decide (bytesNat bs 0x010 1 ≤ 3) &&
  (descSegs bs).all segOk && s.handleOk (segOf bs 0x020) && s.handleOk (segOf bs 0x030) &&
  binds.all (fun b => b.2 && decide (b.1.src < v) && decide (b.1.dst < v)) &&
  noTwice (binds.map (fun b => (b.1.src, b.1.srcPort))) && noTwice (binds.map (fun b => (b.1.dst, b.1.dstPort))) &&
  s.initOk bs && (if ordered then init != 0 && decide (64 * bytesNat bs 0x00A 1 * bytesNat bs 0x00B 1 ≤ bytesNat bs 0x128 8) else init == 0)
/-- The barriers of a descriptor: the members of each from its bitmap. -/
def State.descBars (s : State) (bs : List Byte) : Tab Barrier :=
  (List.range 8).filterMap (fun n =>
    let a := bytesNat bs (0x140 + 16 * n) 8
    if a = 0 then none
    else some (n, { members := (List.range (descVcores bs)).filter (fun i => s.read (a + i / 8) 1 / 2 ^ (i % 8) % 2 == 1),
                    gen := 0, arrived := [], target := [], seen := [] }))
/-- Each channel or barrier table beyond 4 KiB adds 4 cycles per further KiB (R345), of which a part counts as a whole one (DESIGN CHOICE, entry 44 of the
log). -/
def tableCost (bs : List Byte) : Nat :=
  let f := fun (n : Nat) => if n ≤ 4096 then 0 else 4 * ((n - 4096 + 1023) / 1024)
  (List.range 8).foldl (fun x n => if bytesNat bs (0x140 + 16 * n) 8 = 0 then x else x + f ((descVcores bs + 7) / 8))
    (f (16 * bytesNat bs 0x110 4))

/-! ### Placement (R19, R217, R345) -/

/-- The free enabled slots of a lean core at width `w`, in ascending order. -/
def State.freeSlots (s : State) (core w : Nat) : List Nat :=
  (List.range w).filter (fun i => match s.slotAt (core + i) with | some m => m.enabled && !m.occupied | none => false)
/-- Every slot of a core is vacant. -/
def State.coreIdle (s : State) (core : Nat) : Bool := !s.strands.any (fun m => m.sa / 32 == core / 32 && m.occupied)
/-- KIND 2 ranges meet bytes of the core that another troupe holds or that are being cleared. -/
def State.coreClash (s : State) (core : Nat) (rs : List (Nat × Nat)) : Bool :=
  s.rangeClash core 0 rs ||
  (s.cluster (saPkg core)).clearing.any (fun x => x.1 == saCore core && rs.any (fun r => overlaps r.1 r.2 x.2.1 x.2.2))
/-- A cluster's heavy core is in the repair map that Stage B applied (R392). -/
def State.heavyFailed (s : State) (cl : Nat) : Bool := s.applied.contains (.core (mkSa (pcDie cl) (pcIndex cl) 48 0))
/-- Placement puts no heavy vcore in a cluster whose heavy core, or more than four columns of whose array, have failed (R392). -/
def State.noHeavy (s : State) (cl : Nat) : Bool :=
  s.heavyFailed cl || decide (4 < (s.applied.filter (fun u => match u with | .column c _ => c == cl | _ => false)).length)
/-- Placement uses no cluster of a die of which more than four L2 slices have failed (R392). -/
def State.noDie (s : State) (die : Nat) : Bool := decide (4 < (s.applied.filter (fun u => match u with | .l2 d _ => d == die | _ => false)).length)
/-- The slots that a cluster gives a shape: by ascending core, then heavy strands; none if it does not fit. -/
def State.fitCluster (s : State) (cl : Nat) (h : Shape) (rs : List (Nat × Nat)) : Option (List Nat) :=
  let cores := (List.range 48).map (fun c => mkSa (pcDie cl) (pcIndex cl) c 0)
  let fits := cores.filter (fun c => decide (h.sc ≤ (s.freeSlots c h.w).length) && !s.coreClash c rs)
  let busy := fits.filter (fun c => !s.coreIdle c && s.coreWidth c == h.w)
  let idle := fits.filter (fun c => s.coreIdle c)
  let taken := sortBy (fun a b => decide (a ≤ b)) ((busy ++ idle).take h.lc)
  let heavy := (List.range 4).filterMap (fun n =>
    let sa := mkSa (pcDie cl) (pcIndex cl) 48 n
    match s.slotAt sa with
    | some m => if m.enabled && !m.occupied && !s.noHeavy cl then some sa else none
    | none => none)
  if taken.length < h.lc ∨ heavy.length < h.hc ∨ s.noDie (pcDie cl) = true then none
  else some (taken.flatMap (fun c => ((s.freeSlots c h.w).take h.sc).map (fun i => c + i)) ++ heavy.take h.hc)
/-- The slots of every cluster of a rectangle, in vcid order (R20). -/
def State.fitRect (s : State) (row0 col0 rows cols : Nat) (h : Shape) (rs : List (Nat × Nat)) : Option (List Nat) :=
  if 6 < row0 + rows ∨ 16 < col0 + cols then none
  else (List.range (rows * cols)).foldl (fun acc r =>
    match acc with
    | none => none
    | some l => (s.fitCluster (16 * (row0 + r / cols) + (col0 + r % cols)) h rs).map (fun x => l ++ x)) (some [])
/-- The first rectangle that fits: the fixed origin, or with FLAGS[1] any in ascending package cluster number. -/
def State.findPlace (s : State) (bs : List Byte) : Option (Nat × Nat × List Nat) :=
  let rows := bytesNat bs 0x00A 1
  let cols := bytesNat bs 0x00B 1
  let h := descShape bs
  let rs := if h.lc = 0 then [] else kind2 (descSegs bs)
  let one := fun (r c : Nat) => (s.fitRect r c rows cols h rs).map (fun l => (r, c, l))
  if bytesNat bs 0x006 1 / 2 % 2 = 1 then (List.range 96).findSome? (fun p => one (p / 16) (p % 16))
  else one (bytesNat bs 0x008 1) (bytesNat bs 0x009 1)

/-- The next troupe number: the module-wide counter skips 0 and live numbers. -/
def State.freeNumber (s : State) : Nat → Nat → Nat
  | 0, n => n
  | k + 1, n => if n % 2 ^ 32 = 0 ∨ (s.troupe? (n % 2 ^ 32)).isSome = true then s.freeNumber k (n + 1) else n % 2 ^ 32
/-- A vcore at its start (R343). -/
def Strand.start (m : Strand) (bs : List Byte) (tr vcid release : Nat) : Strand :=
  let seed := bytesNat bs 0x058 4
  { m.emptied with
    width := match m.kind with | .lean => bytesNat bs 0x00E 1 | _ => m.width
    run := .active
    vcid := vcid
    troupe := tr
    asid := bytesNat bs 0x014 4
    root := bytesNat bs 0x018 8
    segs := Vector.ofFn (fun i => segOf bs (0x060 + 16 * i.val))
    codeSeg := segOf bs 0x020
    trapSeg := segOf bs 0x030
    pc := BitVec.ofNat 64 (bytesNat bs (match m.kind with | .heavy => 0x048 | _ => 0x040) 8)
    tvec := BitVec.ofNat 64 (bytesNat bs 0x050 8) &&& ~~~3
    flags := { fflags := 0, vstat := 0, srseed := BitVec.ofNat 32 (if seed = 0 then vcid + 1 else seed) }
    readyAt := release
    readyCls := .vacant }
/-- The troupe as it is placed. -/
def State.newTroupe (s : State) (r : PlaceReq) (p : Nat × Nat × List Nat) (release : Nat) : Troupe where
  desc := r.desc
  row0 := p.1
  col0 := p.2.1
  launcher := r.sa
  queue := r.queue
  notify := r.notify
  carried := r.carried
  released := release
  place := p.2.2.zipIdx.map (fun x => (x.2, x.1))
  halted := []
  homes := (p.2.2.zipIdx.filter (fun x => saCore x.1 != 48)).map (fun x => (x.2, x.1 - saSlot x.1))
  frames := []
  out := []
  discarded := 0
  binds := (s.bindings r.desc).map (·.1)
  bars := s.descBars r.desc
  quiet := 0
  stirred := false
  tasks := []
  spawnCtr := bytesNat r.desc 0x114 4
  spawns := []
  front := noKey
  pass := false
  sampled := none
  publishDue := false
  unitBusy := []
  requeued := none
  committing := none
  faults := []
  seconds := 0
  reports := []
  quietRecs := []
  ending := false
/-- The slots are taken and the troupe is to be released at a cycle. -/
def State.place (s : State) (r : PlaceReq) (p : Nat × Nat × List Nat) (release : Nat) : State :=
  let tr := s.freeNumber (s.troupes.length + 2) s.nextTroupe
  let s1 : State := { s with troupes := Tab.put s.troupes tr (s.newTroupe r p release), nextTroupe := tr + 1 }
  let s2 := p.2.2.zipIdx.foldl (fun t x => match t.slotAt x.1 with
    | some m => t.putStrand (m.start r.desc tr x.2 release)
    | none => t) s1
  let w := bytesNat r.desc 0x00E 1
  let wide := fun (m : Strand) => if m.kind == .lean && p.2.2.any (fun x => x / 32 == m.sa / 32) then { m with width := w } else m
  let s3 : State := { s2 with me := wide s2.me, others := s2.others.map (fun o => (o.1, wide o.2)) }
  (s3.modStrand r.sa (fun m => m.modOp r.q anyWhat (fun o => match o.what with
    | .launch d _ => { o with what := .launch d (some tr) }
    | _ => o))).atCycle release (.troupeRelease tr)

/-- Requests that have reached the unit get their turns to search, 32 cycles each, in order of arrival; after a slot has become
free, those that wait are among them. -/
def State.schedulePlace (s : State) : State :=
  let go := fun (u : State) (r : PlaceReq) =>
    if r.due.isSome || decide (u.cycle < r.arrives) || (r.waiting && !s.slotFreed) then { u with placeQ := u.placeQ ++ [r] }
    else
      let at_ := (if u.placeBusy < u.cycle then u.cycle else u.placeBusy) + 32
      { u with placeQ := u.placeQ ++ [{ r with due := some at_, waiting := false }], placeBusy := at_ }.atCycle at_ .placementRetry
  ((sortBy (fun a b => decide (a.arrives ≤ b.arrives)) s.placeQ).foldl go { s with placeQ := [] })
/-- A result of LAUNCH reaches s[d]. -/
def State.launchDone (s : State) (sa q : Nat) (v : Word) : State :=
  match s.strand? sa with
  | none => s
  | some m => match m.op? q anyWhat with
    | none => s
    | some o => match o.what with
      | .launch d _ => (s.modStrand sa (fun x => let y := x.landS q d v
                                                 { y with fixed := { q := q, reg := .s d, due := s.cycle + 1, fflags := false, vstat := false } :: y.fixed })).complete sa q anyWhat
      | _ => s
/-- PLACEMENT_RETRY: searches that end are decided, and new ones begin; a request of a die that no longer admits LAUNCH is answered with status 4
(R345). -/
def execPlacementRetry (s : State) : Out :=
  let s0 : State := { s.schedulePlace with slotFreed := false }
  let ended := s0.placeQ.filter (fun r => match r.due with | some c => decide (c ≤ s.cycle) | none => false)
  let drop := fun (u : State) (r : PlaceReq) => { u with placeQ := u.placeQ.filter (fun x => !(x.sa == r.sa && x.q == r.q)) }
  .next (ended.foldl (fun u r =>
    if u.mgmt.admits.getLsbD (saDie r.sa) = false ∨ (u.die (saDie r.sa)).hold = true then (drop u r).launchDone r.sa r.q (packed 0 4 0)
    else match u.findPlace r.desc with
    | some p => (drop u r).place r p (u.cycle + 180 + 2 * (bytesNat r.desc 0x00A 1 * bytesNat r.desc 0x00B 1) + tableCost r.desc)
    | none =>
      if r.once then (drop u r).launchDone r.sa r.q (packed 0 1 0)
      else { u with placeQ := u.placeQ.map (fun x => if x.sa == r.sa && x.q == r.q then { x with due := none, waiting := true } else x) }) s0)

/-! ### Release -/

/-- The entry block of a vcore is in its L1I and its page in its port, so that its first instruction loses no turn. -/
def State.preload (s : State) (m : Strand) : State :=
  let va := m.codeSeg.base.toNat + m.pc.toNat
  let asid := if m.codeSeg.sys then systemSpace else m.asid
  let root := if m.codeSeg.sys then s.sysRoot else m.root
  match s.tableLeaf (portDie m.port) va 3 root with
  | none => s
  | some l =>
    if m.codeSeg.kind ≠ 1 ∨ l.x = false ∨ (l.check (portDie m.port) (portCluster m.port) false false).isSome = true then s
    else
      let pa := l.addr va
      let key := xkey pa m.kind m.codeSeg.sys
      let next := (va / 65536 + 1) * 65536
      let tail := if s.straddles m pa && decide (next + 4 ≤ m.codeSeg.base.toNat + m.codeSeg.length) then (s.tableLeaf (portDie m.port) next 3 root).bind (fun t =>
          if t.x = false ∨ (t.check (portDie m.port) (portCluster m.port) false false).isSome = true then none else some (t.addr next, t.region))
        else none
      let b := (s.wordsOf (saDie m.sa) m.kind m.codeSeg.sys (tail.map (·.1)) pa).1
      let e : XEntry := { state := .valid, ends := s.cycle, pas := b.map (·.1), words := b.map (·.2), region := l.region, tail := tail, size := 0,
                          used := s.cycle }
      (((s.modPort m.port (fun p => p.use asid va l)).watchCode (saDie m.sa) l.region (b.map (·.1))).installBlock (saDie m.sa) key e).modStrand m.sa
        (fun x => { x with block := some (e.block m.pc key) })
/-- The initial tasks of a descriptor, with their spawn ids (R287, R343). -/
def State.initTasks (s : State) (bs : List Byte) : List (Nat × Task) :=
  let n := bytesNat bs 0x00A 1 * bytesNat bs 0x00B 1
  (List.range (bytesNat bs 0x114 4)).map (fun i =>
    let e := memBytes s.mem (bytesNat bs 0x118 8 + 48 * i) 48
    (i, { t := BitVec.ofNat 64 (bytesNat e 0 8), parent := BitVec.allOnes 32, entry := BitVec.ofNat 32 (bytesNat e 8 4),
          args := (List.range (bytesNat e 12 4 % 4)).map (fun j => BitVec.ofNat 64 (bytesNat e (16 + 8 * j) 8)),
          retries := 0, rerun := false, state := .queued, unit := i % n, worker := none, buffer := [], sig := 0, front := false,
          doomed := false, ending := none, slot := none, usedCores := [], committing := false, spawner := none }))
/-- TROUPE_RELEASE: the vcores start, spill areas are empty, the initial tasks are queued and their least key is published. -/
def execTroupeRelease (tr : Nat) (s : State) : Out :=
  match s.troupe? tr with
  | none => .next s
  | some t =>
    let s1 := t.place.foldl (fun u p => u.clear (t.spill p.1) 0x20) s
    let s2 := (s1.strands.filter (fun m => m.troupe == tr && m.kind != .sm && m.run != .vacant)).foldl State.preload s1
    let tasks := s2.initTasks t.desc
    let s3 := tasks.foldl (fun u k => u.queueTask tr k.1 k.2) s2
    let s4 := match minKey (tasks.map (fun k => taskKey k.1 k.2)) with
      | none => s3
      | some key => (s3.publish tr key).atCycle ((s.cycle / 128 + 1) * 128) (.frontierSample tr)
    let q := match s.strand? t.launcher with
      | some m => (m.ops.find? (fun o => match o.what with | .launch _ x => x == some tr | _ => false)).map (·.q)
      | none => none
    .next (match q with
      | some n => s4.launchDone t.launcher n (packed 0 0 tr)
      | none => s4)

/-! ### LAUNCH -/

/-- The latency T_d of a descriptor that no cache holds (R151). -/
def hbmRead (die pa : Nat) : Nat := if baseDie pa = die then 420 else 480
/-- The strand carries out a packet of a kind for a queue. -/
def Strand.carries (m : Strand) (kind qn : Nat) : Bool := m.packet.any (fun p => p.kind == kind && p.queue == qn)
/-- NOTIFY of the packet of a kind that the strand carries out for a queue. -/
def Strand.packetNotify (m : Strand) (kind qn : Nat) : Bool :=
  match m.packet with
  | some p => p.kind == kind && p.queue == qn && p.notify
  | none => false
/-- LAUNCH and LAUNCH.try (R345): without a mapped queue 0xFF; 4 while the die admits nothing; 3 or 2 on a descriptor that
cannot be read or is invalid; otherwise the placement unit decides. -/
def launch (once : Bool) (d a : SReg) (c : Bool) (s : State) : Out :=
  let m := s.me
  let va := (m.getS a).toNat
  let die := saDie m.sa
  s.gate (queueWord d.toNat a.toNat 0 4 once.toNat c) true smKind
    (match m.mapped with
     | none => .next (s.finS d (packed 0 0xFF 0) 4 c)
     | some qn =>
       let q := s.queue qn
       if s.mgmt.admits.getLsbD die = false ∨ (s.die die).hold = true then .next (s.finS d (packed 0 4 0) 4 c)
       else
         let look := fun (x : Nat) => s.xlate m.port (.strand m.sa) q.asid.toNat x true false
         let bad := fun (reason status wait : Nat) =>
           Host.Outcome.next ((((s.forgetWalk m).faultQueue qn reason q.rdidx).finS d (packed 0 status 0) 4 c).readyIn d (s.cycle + wait + 1))
         match look va, look (va + 511) with
         | .miss, _ => .next (s.parkFor .read q.asid.toNat q.root.toNat va)
         | .fail _, _ => bad 6 3 0
         | .hit _, .miss => .next (s.parkFor .read q.asid.toNat q.root.toNat (va + 511))
         | .hit _, .fail _ => bad 6 3 0
         | .hit l, .hit h =>
           let pas := (List.range 512).map (fun i => (if (va + i) / 65536 = va / 65536 then l else h).addr (va + i))
           let bs := pas.map (memGet s.mem)
           let td := hbmRead die (l.addr va)
           match s.poison.find? pas.contains with
           | some p => .next (s.readSick p)
           | none =>
           if va % 64 ≠ 0 ∨ s.descOk bs = false then bad 6 2 td
           else
             let o : Op := { q := m.nextQ, pc := m.pc, what := .launch d none, dsts := [.s d], accs := [], ord := 0, kind := 0,
                             stage := .away, trappable := false, flags := m.flags, issued := s.cycle }
             let r : PlaceReq := { sa := m.sa, q := m.nextQ, desc := bs, queue := qn, notify := m.packetNotify 1 qn, carried := m.carries 1 qn, once := once,
                                   arrives := s.cycle + td, due := none, waiting := false }
             .next ({ s.mod (fun x => { x with ops := x.ops ++ [o] }.retire 4 c) with placeQ := s.placeQ ++ [r] }.after td .placementRetry))
/-- LAUNCH. -/
def execLaunch (d a : SReg) (c : Bool) (s : State) : Out := launch false d a c s
/-- LAUNCH.try. -/
def execLaunchTry (d a : SReg) (c : Bool) (s : State) : Out := launch true d a c s

end Sys2Proof.Machine
end

