-- ==== Sys2Proof/Machine/Object.lean ====
section
/-! DEFINITION. Code objects: their checks, the places of their code sections and their relocations (R52 to R56). -/

namespace Sys2Proof.Machine

/-- A section entry (R53). -/
structure ObjSection where
  name : Nat
  kind : Nat
  align : Nat
  off : Nat
  size : Nat
deriving DecidableEq, Repr
/-- A symbol entry (R54). -/
structure ObjSymbol where
  name : Nat
  sec : Nat
  binding : Nat
  kind : Nat
  value : Nat
deriving DecidableEq, Repr
/-- A relocation entry (R55). -/
structure ObjReloc where
  off : Nat
  sec : Nat
  kind : Nat
  sym : Nat
  addend : Int
deriving DecidableEq, Repr

/-- The counts of the header (R52). -/
def objSections (bs : List Byte) : Nat := bytesNat bs 0x0C 2
def objSymbols (bs : List Byte) : Nat := bytesNat bs 0x20 4
def objRelocs (bs : List Byte) : Nat := bytesNat bs 0x38 4
/-- Where an entry of a table lies. -/
def sectionAt (bs : List Byte) (i : Nat) : Nat := bytesNat bs 0x10 8 + 32 * i
def symbolAt (bs : List Byte) (i : Nat) : Nat := bytesNat bs 0x18 8 + 24 * i
def relocAt (bs : List Byte) (i : Nat) : Nat := bytesNat bs 0x30 8 + 24 * i
/-- Section entry `i`. -/
def objSection (bs : List Byte) (i : Nat) : ObjSection :=
  let e := sectionAt bs i
  { name := bytesNat bs e 4, kind := bytesNat bs (e + 4) 1, align := bytesNat bs (e + 5) 1, off := bytesNat bs (e + 8) 8, size := bytesNat bs (e + 16) 8 }
/-- Symbol entry `i`. -/
def objSymbol (bs : List Byte) (i : Nat) : ObjSymbol :=
  let e := symbolAt bs i
  { name := bytesNat bs e 4, sec := bytesNat bs (e + 4) 2, binding := bytesNat bs (e + 6) 1, kind := bytesNat bs (e + 7) 1, value := bytesNat bs (e + 8) 8 }
/-- Relocation entry `i`. -/
def objReloc (bs : List Byte) (i : Nat) : ObjReloc :=
  let e := relocAt bs i
  { off := bytesNat bs e 8, sec := bytesNat bs (e + 8) 2, kind := bytesNat bs (e + 10) 2, sym := bytesNat bs (e + 12) 4
    addend := (BitVec.ofNat 64 (bytesNat bs (e + 16) 8)).toInt }
/-- A name: an offset in the string table with a zero byte at or after it (R53, R54). -/
def nameOk (bs : List Byte) (n : Nat) : Bool := (((bs.drop (bytesNat bs 0x28 8)).take (bytesNat bs 0x24 4)).drop n).contains 0
/-- A section entry keeps R53, and its bytes lie in the object. -/
def sectionOk (bs : List Byte) (i : Nat) : Bool :=
  let x := objSection bs i
  let e := sectionAt bs i
  nameOk bs x.name && decide (1 ≤ x.kind) && decide (x.kind ≤ 5) && decide (x.align ≤ 16) && bytesNat bs (e + 6) 2 == 0 && bytesNat bs (e + 24) 8 == 0 &&
  (if x.kind = 4 then x.off == 0 else decide (x.off + x.size ≤ bs.length)) && (x.kind != 1 || (decide (2 ≤ x.align) && x.size % 4 == 0))
/-- A symbol entry keeps R54. -/
def symbolOk (bs : List Byte) (i : Nat) : Bool :=
  let y := objSymbol bs i
  nameOk bs y.name && (y.sec == 0xFFFF || (decide (y.sec < objSections bs) && decide (y.value ≤ (objSection bs y.sec).size))) &&
  decide (y.binding ≤ 2) && decide (y.kind ≤ 2) && (y.kind != 2 || y.value % 4 == 0)

/-! ### Places and relocations (R55) -/

/-- The place of code section `i` behind those before it, each aligned as its entry says, and the bytes that the first `i` sections take. -/
def codePlace (bs : List Byte) : Nat → Nat
  | 0 => 0
  | i + 1 =>
    let x := objSection bs i
    let a := 2 ^ x.align
    if x.kind = 1 then (codePlace bs i + a - 1) / a * a + x.size else codePlace bs i
/-- The start of section `i`: a code section's among the object's code, and 0 for another, which is placed in a segment of its own. -/
def sectionStart (bs : List Byte) (i : Nat) : Nat :=
  let x := objSection bs i
  if x.kind = 1 then codePlace bs (i + 1) - x.size else 0
/-- The bytes of an object's code. -/
def codeSize (bs : List Byte) : Nat := codePlace bs (objSections bs)
/-- S of R55: an address counts from the start of the object's code, or of its data section's segment (entry 52 of the log). -/
def symbolAddr (bs : List Byte) (i : Nat) : Nat :=
  let y := objSymbol bs i
  if y.sec = 0xFFFF then y.value else sectionStart bs y.sec + y.value
/-- The word `w` with a field of `n` bits above its lowest bit replaced. -/
def setDisp (w n v : Nat) : Nat := w - w / 2 % 2 ^ n * 2 + v % 2 ^ n * 2
/-- A displacement of `n` bits in words; none where it is not whole or does not fit. -/
def dispOf (n : Nat) (d : Int) : Option Nat :=
  if d % 4 = 0 ∧ -(2 ^ (n - 1) : Int) ≤ d / 4 ∧ d / 4 < (2 ^ (n - 1) : Int) then some (d / 4 % 2 ^ n).toNat else none
/-- What a relocation stores: the offset in its section and the bytes; none where it fails or is reserved (R55). -/
def relocPatch (bs : List Byte) (r : ObjReloc) : Option (Nat × List Byte) :=
  let x := objSection bs r.sec
  let v : Int := symbolAddr bs r.sym + r.addend
  let p : Int := (sectionStart bs r.sec + r.off : Nat)
  let disp := fun (n : Nat) => (dispOf n (v - p)).map (fun d => (r.off, natBytes 4 (setDisp (bytesNat bs (x.off + r.off) 4) n d)))
  match r.kind with
  | 1 => some (r.off, natBytes 8 (v % 2 ^ 64).toNat)
  | 2 => if -(2 ^ 31 : Int) ≤ v ∧ v < (2 ^ 32 : Int) then some (r.off + (if x.kind = 1 then 4 else 0), natBytes 4 (v % 2 ^ 32).toNat) else none
  | 3 => disp 11
  | 4 => disp 25
  | _ => none
/-- A relocation names a section and a symbol of the object, its item lies in the section, and it does not fail. -/
def relocOk (bs : List Byte) (i : Nat) : Bool :=
  let r := objReloc bs i
  decide (r.sec < objSections bs) && decide (r.sym < objSymbols bs) &&
  (match relocPatch bs r with
   | some p => decide (p.1 + p.2.length ≤ (objSection bs r.sec).size)
   | none => false)
/-- Bytes of a list replaced from an offset. -/
def patchBytes (l : List Byte) (off : Nat) (bs : List Byte) : List Byte := l.take off ++ bs ++ l.drop (off + bs.length)
/-- The bytes of section `i`, relocated. -/
def sectionBytes (bs : List Byte) (i : Nat) : List Byte :=
  let x := objSection bs i
  ((List.range (objRelocs bs)).map (objReloc bs)).foldl (fun l r =>
    if r.sec = i then (match relocPatch bs r with
      | some p => patchBytes l p.1 p.2
      | none => l)
    else l) ((bs.drop x.off).take x.size)
/-- The code of an object as it is placed: its code sections, relocated, with zero bytes between them. -/
def objectCode (bs : List Byte) : List Byte :=
  (List.range (objSections bs)).foldl (fun l i =>
    if (objSection bs i).kind = 1 then l ++ List.replicate (sectionStart bs i - l.length) 0 ++ sectionBytes bs i else l) []

/-! ### The loader's checks -/

/-- A loader accepts a code object (R52 to R55). -/
def objectOk (bs : List Byte) : Bool :=
  let secs := objSections bs
  let table := fun (off n size : Nat) => decide (off + n * size ≤ bs.length)
  decide (64 ≤ bs.length) && bytesNat bs 0 4 == 0x414F434B && bytesNat bs 4 2 == 1 && bytesNat bs 8 4 / 2 == 0 && bytesNat bs 0x0E 2 == 0 &&
  bytesNat bs 0x3C 4 == 0 && decide (1 ≤ secs) && decide (secs ≤ 255) && bytesNat bs 0x10 8 % 8 == 0 && bytesNat bs 0x18 8 % 8 == 0 &&
  bytesNat bs 0x30 8 % 8 == 0 && table (bytesNat bs 0x10 8) secs 32 && table (bytesNat bs 0x18 8) (objSymbols bs) 24 &&
  table (bytesNat bs 0x28 8) (bytesNat bs 0x24 4) 1 && table (bytesNat bs 0x30 8) (objRelocs bs) 24 &&
  (List.range secs).all (sectionOk bs) && (List.range (objSymbols bs)).all (symbolOk bs) && (List.range (objRelocs bs)).all (relocOk bs)
/-- A system object: flag bit 0, and one signature section of 1,280 bytes at its end (R56). -/
def systemObjectOk (bs : List Byte) : Bool :=
  let sigs := ((List.range (objSections bs)).map (objSection bs)).filter (fun x => x.kind == 5)
  objectOk bs && bytesNat bs 8 4 % 2 == 1 && sigs.length == 1 && sigs.all (fun x => x.size == 1280 && x.off + 1280 == bs.length)

end Sys2Proof.Machine
end

