-- ==== Sys2Proof/Machine/Device.lean ====
section
/-! DEFINITION. The host port, the management window, start-up, update, errors, power and cooling (R351, R369, R370, R380
to R394). -/

namespace Sys2Proof.Machine

/-- Changes the management registers. -/
def State.modMgmt (s : State) (f : Mgmt → Mgmt) : State := { s with mgmt := f s.mgmt }
/-- A discarded host access is counted (R380). -/
def State.portError (s : State) : State := s.modMgmt (fun g => { g with portErr := g.portErr + 1 })
/-- A stage begins; the host is told (R381, R382). -/
def State.setStage (s : State) (n : Nat) : State := (s.modMgmt (fun g => { g with stage := BitVec.ofNat 8 n })).interrupt 7 0 0
/-- `n` free bytes. -/
def freeList (ctr n : Nat) : List Byte := (List.range n).map (fun i => Config.freeByte (ctr + i))
/-- A free time of at most `n` cycles, and at least 1. -/
def State.freeTime (s : State) (n : Nat) : Nat := (Config.freeWord s.freeCtr).toNat % n + 1

/-! ### Requests of the management window (R344, R383) -/

/-- The code of an object is written where the system code space has its pages; a page that firmware maps later arrives with its mapping (entry 52 of
the log). -/
def State.placeCode (s : State) (base : Nat) (code : List Byte) : State :=
  (List.range ((code.length + 65535) / 65536)).foldl (fun t i => match t.tableLeaf 0 (base + 65536 * i) 3 t.sysRoot with
    | some l => t.writeBytes (l.addr (base + 65536 * i)) ((code.drop (65536 * i)).take 65536)
    | none => t) s
/-- SYSTEM_OBJECT_PLACE: the request is busy for a time that is not promised; an object whose form and signature verify is placed where there is
space for it, and any other is refused (R56, R344). -/
def execSystemObjectPlace (s : State) : Out :=
  let g := s.mgmt
  if g.sysCtl.toNat % 4 ≠ 1 then
    .next (({ s with mgmt := { g with sysCtl := 1 } }.bump 1).after (s.freeTime (2 ^ 32)) .systemObjectPlace)
  else
    let bs := memBytes s.mem g.sysObj.toNat g.sysLen.toNat
    if systemObjectOk bs && Config.objectSigned s.image bs && Config.freeBool s.freeCtr then
      let base := (Config.freeWord (s.freeCtr + 1)).toNat % 2 ^ 25 * 2 ^ 16
      .next (({ s with
        sysObjs := s.sysObjs ++ [(base, codeSize bs)]
        mgmt := { g with sysCtl := BitVec.ofNat 64 (2 + base * 2 ^ 16) } }.placeCode base (objectCode bs)).bump 2)
    else .next ({ s with mgmt := { g with sysCtl := 3 } }.bump 2)
/-- ATTESTATION_REQUEST: the digests of the running image and of the configuration record, and a signature, whose value the spec leaves to the
module's key. -/
def execAttestationRequest (s : State) : Out :=
  let put := fun (t : Tab Byte) (off : Nat) (bs : List Byte) => bs.zipIdx.foldl (fun x p => Tab.put x (off + p.2) p.1) t
  let digests := (List.range 32).map (Config.imageDigest s.image) ++ (List.range 32).map Config.recordDigest
  let a1 := put (put s.mgmt.attest 0x40 digests) 0x80 (freeList s.freeCtr 1280)
  .next ((s.modMgmt (fun g => { g with attest := put a1 0x20 (natBytes 8 2) })).bump 1280)

/-! ### Start-up (R386, R387) -/

/-- An image is verified: its signature, unless an error has struck it, and its version (R387). -/
def verify (img : Image) (bad : Bool) : SlotResult :=
  if bad || !Config.imageSigned img then .badSignature
  else if Config.imageVersion img < Config.minVersion then .oldVersion else .good
/-- Stage A copies the image's stage-manager code into every die's instruction memory (R347). -/
def State.copyCode (s : State) : State :=
  (List.range 8).foldl (fun t d => t.modDie d (fun x => { x with smImage := some s.image, smLost := [] })) s
/-- The boot ROM tries one slot, then the other, the newly written one first; the first that verifies runs, and Stage A begins. -/
def State.boot (s : State) : State :=
  let bFirst := s.mgmt.bFirst
  let a := verify s.mgmt.flashA s.mgmt.flashBad.1
  let b := verify s.mgmt.flashB s.mgmt.flashBad.2
  let ra := if bFirst && b == .good then .untried else a
  let rb := if !bFirst && a == .good then .untried else b
  let slot : BitVec 2 := if ra == .good then 1 else if rb == .good then 2 else 0
  let s1 := (s.modMgmt (fun g => { g with slot := slot, slotA := ra, slotB := rb })).bump 1
  if slot = 0 then s1.setStage 0xFF
  else (s1.copyCode.setStage 1).after ((Config.freeWord s.freeCtr).toNat % 2100000 + 1) .stageB
/-- POWER_GOOD. -/
def execPowerGood (s : State) : Out := .next s.boot

/-- A stage-manager strand starts; firmware's first state is not stated, beyond executable code handles with SYS = 1. -/
def startSm (ctr : Nat) (m : Strand) : Strand :=
  let w := fun (i : Nat) => Config.freeWord (ctr + i)
  let code := fun (i : Nat) => ({ base := w i, desc := (w (i + 1) &&& 0x1FFFFFFFFFF) ||| 0x1180000000000 } : Seg)
  { m with run := .active, codeSeg := code 0, trapSeg := code 2, pc := w 4 &&& ~~~3, tvec := w 5 &&& ~~~3 }
/-- Failed lean cores of a cluster beyond the two spares keep their slots disabled; the first two in the map have the spares (R392, entry 53 of the
log). -/
def State.worn (s : State) (cl : Nat) : List Nat :=
  (s.applied.reverse.filterMap (fun u => match u with
    | .core sa => if saPkg sa = cl ∧ saCore sa < 48 then some sa else none
    | _ => none)).drop 2
/-- The ship map as firmware loads it at Stage B: a cluster whose heavy core has failed is served by that of another cluster, which is free, and by none
where every heavy core has failed (R230, R392). -/
def State.loadShipMap (s : State) : Tab (BitVec 8) :=
  let up := (List.range 96).filter (fun c => !s.heavyFailed c)
  ((List.range 96).filter s.heavyFailed).map (fun c =>
    (c, match up[(Config.freeWord (s.freeCtr + c)).toNat % up.length]? with
      | some p => BitVec.ofNat 8 (128 + pcDie p * 16 + pcIndex p)
      | none => 0))
/-- Stage B applies the newest copy of the repair map that verifies; without one it applies no map and raises an error (R392). -/
def State.applyMap (s : State) : State :=
  if Config.mapSigned s.repair then { s with applied := s.repair }
  else if Config.mapSigned s.repairOld then { s with applied := s.repairOld, repair := s.repairOld }
  else { s with applied := [] }.interrupt 5 0 0
/-- A slot that the repair map keeps disabled. -/
def State.disableSlots (s : State) (core : Nat) : State :=
  (List.range 16).foldl (fun t i => match t.slotAt (core + i) with
    | some m => t.putStrand { m with enabled := false }
    | none => t) s
/-- STAGE_B: links train, the repair map is applied, the ship map loaded, the queue tables written, the runtime object placed, and the stage managers start with empty
translation caches; those of a die that has tripped stay stopped (R386, R394). -/
def execStageB (s : State) : Out :=
  if s.mgmt.stage ≠ 1 then .next s
  else
    let w := fun (i : Nat) => Config.freeWord (s.freeCtr + i)
    let s1 := (s.modMgmt (fun g => { g with link := (w 0).setWidth 32 })).setStage 2
    let s2 := (List.range 8).foldl (fun t d => t.modDie d (fun x => { x with
      xcache := [], xqueue := [], qtab := some ((w (1 + d)).toNat % hbmTop / 64 * 64) })) s1.applyMap
    let s3 : State := { s2.queues.foldl (fun t q => t.modQueue q.1 id) s2 with
      sysRoot := if s.updating.isSome then s2.sysRoot else (w 9).toNat % hbmTop / 65536 * 65536
      sysObjs := s2.sysObjs ++ [((w 11).toNat % 2 ^ 25 * 2 ^ 16, (w 12).toNat % 2 ^ 32 / 4 * 4)]
      shipMap := s2.loadShipMap }
    let s4 := (List.range 96).foldl (fun t cl => (t.worn cl).foldl State.disableSlots t) s3
    let s5 := (List.range 256).foldl (fun t i =>
      let sa := mkSa (i / 32) 15 63 (i % 32)
      let m := startSm (s.freeCtr + 16 + 6 * i) (((s.slotAt sa).map Strand.emptied).getD (Strand.fresh sa .sm 32))
      t.putStrand (if (s.die (i / 32)).tripped then m.modDebug (fun d => { d with stopReq := some 3 }) else m)) s4
    .next ((s5.bump 2100).after ((w 10).toNat % 2 ^ 32 + 1) .stageC)

/-! ### Update (R389, R390) -/

/-- An input from outside: what the host, the debugger, the sensors, the links or another module does. -/
def isInput : Instr → Bool
  | .hostPortAccess _ _ _ => true | .registerWrite _ _ => true | .arrivalWrite _ _ => true | .mqdataWrite _ => true
  | .queueEnable => true | .queueDisable => true | .coldReset => true | .firmwareUpdate => true | .installUpload => true
  | .remoteFlitArrival _ _ _ _ => true | .linkDown _ => true | .linkTrain _ => true | .attestationRequest => true | .stop _ _ _ => true | .resume _ _ _ _ => true | .step _ _ _ _ => true
  | .steptrap _ _ _ => true | .blackout _ => true | .claim _ _ _ => true | .unclaim _ _ _ => true | .clrhist _ _ => true
  | .thermalSample _ _ _ => true | .powerSample _ => true | .heavyThermalSample _ _ => true | .dieThermalTrip _ => true
  | .correctedError _ => true | .uncorrectableError _ _ => true | .patrolScrub => true | .shipMapChange _ _ => true
  | _ => false
/-- The inputs still to come, seen from CYCLE 0, and with `busy` the end of a placement that is under way; a placement that has not begun is an input
(R382). -/
def State.inputsLater (s : State) (busy : Bool) : List (Nat × Instr) :=
  (s.agenda.filter (fun e => isInput e.2 || (e.2 == .systemObjectPlace && (busy || s.mgmt.sysCtl.toNat % 4 != 1)))).map (fun e => (e.1 - s.cycle, e.2))
/-- COLD_RESET: as at power-good; flash, the host's memory and the inputs to come are outside what it resets. -/
def execColdReset (s : State) : Out :=
  .next ({ State.reset with
    freeCtr := s.freeCtr, repair := s.repair, repairOld := s.repairOld, struck := s.struck, agenda := s.inputsLater false
    mgmt := { Mgmt.fresh with
      flashA := s.mgmt.flashA, flashB := s.mgmt.flashB, bFirst := s.mgmt.bFirst, flashBad := s.mgmt.flashBad, host := s.mgmt.host } }.after 0
    .powerGood)
/-- FIRMWARE_UPDATE: a failing image is refused; an accepted one is written to the slot that is not running, and UTIME begins. -/
def execFirmwareUpdate (s : State) : Out :=
  let img : Image := .written (memBytes s.mem s.mgmt.updImg.toNat s.mgmt.updLen.toNat)
  if s.mgmt.stage ≠ 3 then .next s
  else if verify img false ≠ .good then .next (s.modMgmt (fun g => { g with update := 2 }))
  else
    let s1 := s.modMgmt (fun g => if g.slot = 1 then { g with update := 1, admits := 0, flashB := img, bFirst := true, flashBad := (g.flashBad.1, false) }
      else { g with update := 1, admits := 0, flashA := img, bFirst := false, flashBad := (false, g.flashBad.2) })
    let s2 := (s1.setStage 4).after Config.utime .updateUtimeExpiry
    .next { s2 with updating := some (s.cycle + Config.utime) }

/-- The lean and heavy strands that hold a vcore. -/
def State.residents (s : State) : List Strand := s.strands.filter (fun m => m.kind != .sm && m.run != .vacant)
/-- Something is still on its way to a vcore or a barrier. -/
def State.inFlight (s : State) : Bool :=
  s.agenda.any (fun e => match e.2 with
    | .inboxMessageArrival _ _ _ => true | .channelEntryArrival _ _ _ _ _ => true | .creditReturn _ _ _ => true
    | .wakeArrival _ _ => true | .barrierArrival _ _ _ => true | .genUpdateArrival _ _ _ _ => true | .slotswapArrival _ _ => true
    | .scratchpadCopy _ _ _ => true | .contextRestore _ => true | _ => false)
/-- Everything that an update waits for has ended. -/
def State.quiesced (s : State) : Bool :=
  s.residents.all (fun m => m.dbg.stopped) && s.strands.all (fun m => m.swap.isNone) &&
  s.dies.all (fun d => d.2.dumps.isEmpty && d.2.engines.all (fun e => e.2.load == 0)) && !s.inFlight
/-- The tier images of a vcore's segments: KIND, offset, length, bytes. -/
def State.tierImages (s : State) (t : Troupe) (tr vcid : Nat) : List Byte :=
  let sa := (Tab.get? t.place vcid).getD 0
  let loc := fun (g : Seg) => match g.kind with
    | 2 => coreLoc (coreNumber ((Tab.get? t.homes vcid).getD sa)) g.base.toNat
    | 3 => clusterLoc (saPkg sa) g.base.toNat
    | _ => dieLoc (saDie sa) g.base.toNat
  ((s.vcoreSegs tr vcid).filter (fun g => decide (2 ≤ g.kind) && g.length != 0)).flatMap (fun g =>
    natBytes 8 g.kind ++ natBytes 8 g.base.toNat ++ natBytes 8 g.length ++ memBytes s.mem (loc g) g.length)
/-- A switched-out heavy vcore has a configured ring. -/
def State.ringed (s : State) (t : Troupe) (vcid : Nat) : Bool := (List.range 16).any (fun i => (s.savedRing (t.saveArea vcid) i).slots != 0)
/-- The images of the operand stores of the clusters in which the troupe has a configured ring, as part of cluster shared memory (R390, entry 50 of the
log). -/
def State.storeImages (s : State) (t : Troupe) : List Byte :=
  let cls := ((t.place.filter (fun p => !t.halted.contains p.1 && saCore p.2 == 48 && s.ringed t p.1)).map (fun p => saPkg p.2)).eraseDups
  cls.flatMap (fun cl => natBytes 8 3 ++ natBytes 8 operandStore ++ natBytes 8 0x1000000 ++ memBytes s.mem (clusterLoc cl operandStore) 0x1000000)
/-- The section of a troupe in the update record. -/
def State.troupeSection (s : State) (tr : Nat) (t : Troupe) : List Byte :=
  let body := t.place.flatMap (fun p => if t.halted.contains p.1 then List.replicate 1536 0 else s.vcoreRecord tr p.1) ++
    t.place.flatMap (fun p => if t.halted.contains p.1 then [] else s.tierImages t tr p.1) ++ s.storeImages t
  t.desc ++ natBytes 8 tr ++ natBytes 8 body.length ++ body
/-- The 64 bytes of SHAKE256 output over some bytes. -/
def digest64 (bs : List Byte) : List Byte := (List.range 64).map (Config.shake256 bs)
/-- The update record (R390). -/
def State.updateRecord (s : State) (u : Nat) : List Byte :=
  let qs := s.queues.filter (fun q => q.2.state != .disabled)
  let body := qs.flatMap (fun q => natBytes 8 q.1 ++ q.2.bytes) ++ s.troupes.flatMap (fun t => s.troupeSection t.1 t.2)
  natBytes 4 0x44505550 ++ natBytes 2 1 ++ natBytes 2 0 ++ natBytes 4 qs.length ++ natBytes 4 s.troupes.length ++ natBytes 8 u ++
  natBytes 8 (0x80 + body.length) ++ digest64 body ++ natBytes 32 0 ++ body
/-- The digest of the record at MUPDREC fits the bytes that stand there (R389, R390). -/
def State.recordGood (s : State) : Bool :=
  let pa := s.mgmt.updRec.toNat
  memBytes s.mem (pa + 0x20) 64 == digest64 (memBytes s.mem (pa + 0x80) (s.read (pa + 0x18) 8 - 0x80))
/-- A queue as the update saves it. -/
def Queue.saved (q : Queue) : Queue := { q with state := if q.state = .mapped then .ready else q.state }
/-- A slot that is kept for the vcore it held. -/
def keptSlot (s : State) (r : Nat × Nat × Nat) : Option (Nat × Strand) :=
  (s.slotAt r.2.2).map (fun m => (r.2.2, { Strand.fresh m.sa m.kind m.width with
    swap := some { issuer := firmwareSwap m.sa, q := 0, cid := some (cidOf r.1 r.2.1), saving := false } }))
/-- The record is written and the module resets; HBM, contexts and the management registers stay, and a die that holds goes on doing so (R389,
R394). -/
def State.warmReset (s : State) (u : Nat) : State :=
  let s1 := (s.residents.foldl (fun t m => t.saveOut m) s).flushAll
  let s2 := s1.queues.foldl (fun t q => t.modQueue q.1 Queue.saved) s1
  let pa := (Config.freeWord s.freeCtr).toNat % hbmTop / 64 * 64
  let s3 := s2.writeBytes pa (s2.updateRecord u)
  let kept := s3.toRestore.filterMap (fun r => if (s3.troupe? r.1).isSome then keptSlot s3 r else none)
  let s4 : State := { State.reset with
    mem := s3.mem, freeCtr := s3.freeCtr + 1, poison := s3.poison, repair := s3.repair, repairOld := s3.repairOld, struck := s3.struck
    agenda := s3.inputsLater true
    dies := (s3.dies.filter (fun d => d.2.hold || d.2.tripped)).map (fun d => (d.1, { Die.fresh with hold := d.2.hold, tripped := d.2.tripped }))
    troupes := s3.troupes.map (fun t => (t.1, { t.2 with quiet := 0, stirred := false }))
    nextTroupe := s3.nextTroupe, queues := s3.queues, sysObjs := s3.sysObjs, sysRoot := s3.sysRoot, lostCtx := s3.lostCtx
    clusters := s3.clusters.map (fun c => (c.1, { Cluster.fresh with
      tcc := c.2.tcc, blackout := if (s3.die (pcDie c.1)).tripped then c.2.blackout.map (fun _ => 0) else none }))
    mgmt := { s3.mgmt with updRec := BitVec.ofNat 48 pa }
    updating := some u, toRestore := s3.toRestore }
  let s5 : State := match kept.find? (fun k => k.2.kind == .lean && k.1 / 32 == s4.me.sa / 32) with
    | some k => { s4 with me := { s4.me with width := k.2.width } }
    | none => s4
  (kept.foldl (fun t k => t.putStrand k.2) s5).boot
/-- UPDATE_UTIME_EXPIRY: at U the ordered-task troupes are ended and the vacating begins; the save follows when everything has
ended. -/
def execUpdateUtimeExpiry (s : State) : Out :=
  match s.updating with
  | none => .next s
  | some u =>
    if s.mgmt.stage ≠ 4 ∨ s.cycle < u then .next s
    else
      let s0 : State := if s.cycle ≠ u then s
        else (s.troupes.filter (fun t => t.2.ordered && !t.2.ending)).foldl (fun t p => t.after 0 (.fatalReport p.1))
          { s with toRestore := s.residents.map (fun m => (m.troupe, m.vcid, m.sa)) }
      if s0.quiesced && decide (u < s.cycle) then .next (s0.warmReset u)
      else
        let ask := s0.residents.filter (fun m => !m.dbg.stopped && !s0.vacating m)
        .next ((ask.foldl (fun t m =>
          let from_ := match s.troupe? m.troupe with | some x => saDie x.launcher | none => 0
          t.after (diePath from_ (saDie m.sa)) (.slotswapArrival (firmwareSwap m.sa) m.cid)) s0).after 32 .updateUtimeExpiry)

/-- A PARK deadline of a saved context moves with CYCLE. -/
def shiftDeadline (u now : Nat) (bs : List Byte) : List Byte :=
  if bytesNat bs 0x00C 4 / 1024 % 2 = 1 then
    let d := bytesNat bs 0x1F8 8 + now - u
    setBytes bs 0x1F8 8 (if d = 0 then 1 else d)
  else bs
/-- Every queue is DISABLED. -/
def State.disableAll (s : State) : State := s.queues.foldl (fun t q => t.modQueue q.1 (fun x => { x with state := .disabled })) s
/-- The queues and troupes of an update come back; with a record whose digest fails, or in a slot that is gone, they fault. -/
def State.restoreAll (s : State) (u : Nat) : State :=
  let good := s.recordGood
  let s1 : State := { s with updating := none, toRestore := [] }
  let s2 := if good then (s1.queues.filter (fun q => q.2.state == .ready)).foldl (fun t q => t.insertQueue q.1) s1
    else s1.disableAll
  let lost := fun (tr : Nat) (t : Troupe) => !good || t.ending ||
    s.toRestore.any (fun r => r.1 == tr && (match s.slotAt r.2.2 with | some m => !m.enabled | none => true))
  let s3 := s2.troupes.foldl (fun t p =>
    let t1 := p.2.out.foldl (fun x v => x.patchContext p.1 v (shiftDeadline u (s.cycle + 24))) t
    if lost p.1 p.2 then
      (s.toRestore.filter (fun r => r.1 == p.1)).foldl (fun x r => x.modStrand r.2.2 Strand.emptied) (t1.endTroupe p.1 1)
    else t1) s2
  (s.toRestore.filter (fun r => (s3.troupe? r.1).isSome)).foldl (fun t r => t.after 24 (.contextRestore r.2.2)) s3
/-- STAGE_C: arrival windows, debug pages and launches are available; after an update what it saved is restored, and after a cold reset every queue is
DISABLED. -/
def execStageC (s : State) : Out :=
  if s.mgmt.stage ≠ 2 then .next s
  else
    let s1 := (s.modMgmt (fun g => { g with admits := 0xFF })).setStage 3
    .next (match s1.updating with
      | some u => s1.restoreAll u
      | none => s1.disableAll)
/-- INSTALL_UPLOAD: in recovery an image that verifies goes to slot A and the module cold-resets. -/
def execInstallUpload (s : State) : Out :=
  if s.mgmt.stage ≠ 0xFF then .next s
  else
    let up := s.mgmt.upload
    let word := fun (o : Nat) => bytesNat ((List.range 8).map (fun i => Tab.getD up (o + i) 0)) 0 8
    let img : Image := .written ((List.range (word 0x3FFFFF8)).map (fun i => Tab.getD up i 0))
    match verify img false with
    | .good => execColdReset (s.modMgmt (fun g => { g with flashA := img, bFirst := false, flashBad := (false, g.flashBad.2) }))
    | r => .next (s.modMgmt (fun g => { g with slotA := r }))

/-! ### Errors (R307, R331, R347, R391) -/

/-- An error counter goes up. -/
def State.countError (s : State) (cls : Nat) : State :=
  s.modMgmt (fun g => { g with merr := Tab.put g.merr cls (Tab.getD g.merr cls 0 + 1) })
/-- A failed unit goes into the repair map; the copy before it is kept (R392). -/
def State.failUnit (s : State) (u : WearUnit) : State :=
  if s.repair.contains u then s else { s with repair := u :: s.repair, repairOld := s.repair }
/-- A corrected error of a unit: its wear monitor trips when the count of the last 2^40 cycles passes the threshold (R392). -/
def State.wearOn (s : State) (u : WearUnit) : State :=
  let w := s.wear.filter (fun e => decide (s.cycle < e.2 + 2 ^ 40)) ++ [(u, s.cycle)]
  let s1 : State := { s with wear := w }
  if Config.wearLimit < (w.filter (fun e => e.1 == u)).length then s1.failUnit u else s1
/-- An uncorrectable error of a unit: one that recurs puts it into the repair map (R392). -/
def State.strikeUnit (s : State) (u : WearUnit) : State :=
  if s.struck.contains u then s.failUnit u else { s with struck := u :: s.struck }
/-- CORRECTED_ERROR. -/
def execCorrectedError (cls : ErrorClass) (s : State) : Out :=
  let s1 := s.countError cls.cls
  .next (match cls.part with | some u => s1.wearOn u | none => s1)
/-- PATROL_SCRUB changes nothing that an instruction sees. -/
def execPatrolScrub (s : State) : Out := .next s
/-- An uncorrectable error is counted, logged and reported; the fields of a log entry are not stated. -/
def State.logError (s : State) (cls die pa : Nat) : State :=
  let s1 := (s.countError (cls + 8)).modMgmt (fun g => { g with
    mlog := Tab.put g.mlog (g.mlogCount % 256) (freeList s.freeCtr 32), mlogCount := g.mlogCount + 1 })
  (s1.bump 32).interrupt 5 die pa
/-- The strand's own state is struck: its task runs again, or its context is lost. -/
def State.strandError (s : State) (m : Strand) : State :=
  match s.taskOf m with
  | some (id, _) => s.taskError m.troupe id true
  | none => (s.modStrand m.sa (fun x => { x with lost := true })).machineCheck m.sa 0
/-- The word at a location is poisoned, as a dirty private line of a strand's L1D or not. -/
def State.poisonWord (s : State) (loc : Nat) (dirtyOf : Option Nat) : State :=
  let ls := (List.range 8).map (fun i => loc / 8 * 8 + i)
  { s with
    poison := s.poison ++ ls.filter (fun l => !s.poison.contains l)
    dirtyPoison := s.dirtyPoison.filter (fun p => !ls.contains p.1) ++ (match dirtyOf with | some sa => ls.map (fun l => (l, sa)) | none => []) }
/-- The result of an error at its place. -/
def State.strike (s : State) (site : ErrorSite) : State :=
  match site with
  | .strandState sa =>
    (match s.strand? sa with
     | none => s
     | some m => if m.run == .vacant then s else s.strandError m)
  | .cleanLine => s
  | .data loc dirtyOf => s.poisonWord loc dirtyOf
  | .savedContext cl tr vcid =>
    if ((s.cluster cl).cached (cidOf tr vcid)).isSome then { s with lostCtx := cidOf tr vcid :: s.lostCtx } else s
  | .translation die key =>
    (match Tab.get? (s.die die).xcache key with
     | some e => if e.state == .valid then s.modDie die (fun d => { d with xcache := Tab.del d.xcache key }) else s
     | none => s)
  | .codeWord die key =>
    (match Tab.get? (s.die die).xcache key with
     | some e =>
       if e.state == .valid then s
       else
         let pa := e.pas[(Config.freeWord s.freeCtr).toNat % (e.pas.length + 1)]?.getD (key / 8)
         let s1 := (s.bump 1).modDie die (fun d => { d with xcache := Tab.del d.xcache key })
         ((s.waiters die key).foldl (fun t m => (t.modStrand m.sa (fun x => { x with block := none })).machineCheck m.sa (BitVec.ofNat 64 pa)) s1).letIn
           die 8
     | none => s)
  | .template die => ((s.bump 1).modDie die (fun d => { d with reloading := true })).after (s.freeTime (2 ^ 32)) (.templateReload die)
  | .smCode die line => s.modDie die (fun d => { d with smLost := line :: d.smLost })
  | .queueTable qn pa => s.faultQueue qn 4 (BitVec.ofNat 64 pa)
  | .task tr id => s.taskError tr id false
  | .copySource die eng loc => s.modRun die eng (fun r => { r with bad := r.bad ++ (List.range 8).map (fun i => loc / 8 * 8 + i) })
  | .flash slotB => s.modMgmt (fun g => { g with flashBad := if slotB then (g.flashBad.1, true) else (true, g.flashBad.2) })
/-- The die and the physical address that are reported for a site; where the spec gives none, free values. -/
def State.siteAddr (s : State) (site : ErrorSite) : Nat × Nat :=
  match site with
  | .data loc _ => if loc < hbmTop then (baseDie loc, loc) else ((Config.freeWord s.freeCtr).toNat % 8, (Config.freeWord (s.freeCtr + 1)).toNat % 2 ^ 48)
  | .queueTable qn pa => (queueDie qn % 8, pa)
  | .strandState sa => (saDie sa, (Config.freeWord s.freeCtr).toNat % 2 ^ 48)
  | _ => ((Config.freeWord s.freeCtr).toNat % 8, (Config.freeWord (s.freeCtr + 1)).toNat % 2 ^ 48)
/-- The unit that an error in a strand's own state strikes is its core. -/
def struckUnit (site : ErrorSite) (part : Option WearUnit) : Option WearUnit :=
  match site with
  | .strandState sa => some (.core (sa - saSlot sa))
  | _ => part
/-- UNCORRECTABLE_ERROR: a clean line is read again and counts as corrected, and so does an error in a translation (R330, R331). -/
def execUncorrectableError (cls : ErrorClass) (site : ErrorSite) (s : State) : Out :=
  let count := fun (t : State) => match cls.part with | some u => t.wearOn u | none => t
  match site with
  | .cleanLine => .next (count (s.countError cls.cls))
  | .translation _ _ => .next ((count (s.countError cls.cls)).strike site)
  | _ =>
    let a := s.siteAddr site
    let s1 := (s.bump 2).logError cls.cls a.1 a.2
    .next ((match struckUnit site cls.part with | some u => s1.strikeUnit u | none => s1).strike site)

/-! ### Temperature and power (R351, R393, R394) -/

/-- The weather table of a die is rewritten in its control page (R349). -/
def State.writeWeather (s : State) (die : Nat) : State :=
  let at_ := dieLoc die 0x1FF0000
  let words := (s.weather die).flatMap (fun e => natBytes 4 (e.1 % 4096 * 2 ^ 20 + e.2.1 * 2 ^ 16 + e.2.2 * 256))
  (s.write at_ 8 s.cycle).writeBytes (at_ + 8) words
/-- A hot core gives up its highest enabled slot; a stopped slot counts as disabled. -/
def State.relieve (s : State) (core : Nat) : State :=
  match ((List.range (s.coreWidth core)).filterMap (fun i => s.slotAt (core + i))).reverse.find? (fun m => m.enabled && !m.dbg.stopped) with
  | none => s
  | some m =>
    if m.occupied then
      (if m.swap.isSome then s
       else s.beginSwap m (relocation m.sa) m.cid none)
    else s.putStrand { m with enabled := false }
/-- A cool core gets its lowest disabled slot back. -/
def State.refresh (s : State) (core : Nat) : State :=
  if (s.worn (saPkg core)).contains core then s
  else match ((List.range (s.coreWidth core)).filterMap (fun i => s.slotAt (core + i))).find? (fun m => !m.enabled) with
    | none => s
    | some m => (s.putStrand { m with enabled := true }).pokePlacement
/-- A displaced vcore waits no more. -/
def State.placed (s : State) (tr vcid : Nat) : State := { s with displaced := s.displaced.filter (fun d => d != (tr, vcid)) }
/-- A displaced vcore is still switched out, and no SLOTSWAP is restoring it. -/
def State.awaits (s : State) (tr vcid : Nat) : Bool :=
  match s.troupe? tr with
  | none => false
  | some t => t.out.contains vcid && !t.halted.contains vcid &&
    !s.strands.any (fun m => match m.swap with | some r => r.cid == some (cidOf tr vcid) | none => false)
/-- THERMAL_SAMPLE: the sample of one core, in units of 0.125 °C. -/
def execThermalSample (cl core temp : Nat) (s : State) : Out :=
  let die := pcDie cl
  let at_ := mkSa die (pcIndex cl) core 0
  let s1 := (s.modCluster cl (fun c => { c with temps := Tab.put c.temps core temp })).writeWeather die
  let s2 := s1.displaced.foldl (fun t d => match t.troupe? d.1 with
    | none => t.placed d.1 d.2
    | some x => if t.awaits d.1 d.2 then t.relocate d.1 d.2 ((Tab.get? x.place d.2).getD 0) else t.placed d.1 d.2) s1
  if Config.hot < temp then .next (s2.relieve at_)
  else if temp < Config.cool then .next (s2.refresh at_)
  else .next s2
/-- POWER_SAMPLE: above PLIMIT the alarm is set in every cluster 64 cycles later; 16 low samples clear it. -/
def execPowerSample (milliwatts : Nat) (s : State) : Out :=
  .next ((List.range 96).foldl (fun t cl => t.modCluster cl (fun c =>
    let n := if milliwatts + 300000 < Config.plimit.val && !c.warm then c.coolSamples + 1 else 0
    { c with
      alarmAt := if Config.plimit.val < milliwatts then c.alarmAt.or (some (s.cycle + 64)) else c.alarmAt
      coolSamples := if 16 ≤ n then 16 else n
      alarm := c.alarm && decide (n < 16) })) s)
/-- HEAVY_THERMAL_SAMPLE. -/
def execHeavyThermalSample (cl temp : Nat) (s : State) : Out :=
  .next (s.modCluster cl (fun c => { c with
    alarmAt := if Config.matrixHot < temp then c.alarmAt.or (some (s.cycle + 64)) else c.alarmAt
    warm := decide (Config.cool ≤ temp)
    coolSamples := if Config.cool ≤ temp then 0 else c.coolSamples }))
/-- DIE_THERMAL_TRIP: every strand of the die is stopped, the die holds, and the host is told. -/
def execDieThermalTrip (die : Nat) (s : State) : Out :=
  let s1 := (List.range 12).foldl (fun t i => t.blackout (pkgCluster die i)) s
  let s2 := (s1.strands.filter (fun m => m.kind == .sm && saDie m.sa == die && m.run != .vacant)).foldl
    (fun t m => t.modStrand m.sa (fun x => x.modDebug (fun d => { d with stopReq := some 3 }))) s1
  .next ((s2.modDie die (fun d => { d with hold := true, tripped := true })).interrupt 6 die 0)

/-! ### Registers of the management window (R382) -/

/-- Byte `j` and the seven above it of a byte table, as a host write of a word sets them. -/
def putWord (t : Tab Byte) (off : Nat) (data : Word) : Tab Byte :=
  (List.range 8).foldl (fun x i => Tab.put x (off + i) (BitVec.ofNat 8 (data.toNat / 256 ^ i))) t
/-- One word of a window-table entry replaced. -/
def winWord (e : List Byte) (w : Nat) (data : Word) : List Byte :=
  let full := (e ++ List.replicate 32 0).take 32
  full.take (8 * w) ++ natBytes 8 data.toNat ++ full.drop (8 * w + 8)
/-- The queue word that MQDATA + 8·j writes, if the queue is DISABLED. -/
def Queue.setWord (q : Queue) (j : Nat) (d : Word) : Queue :=
  match j with
  | 0 => { q with ring := d }
  | 1 => { q with logn := d.setWidth 8, prio := d.extractLsb' 8 8, asid := d.extractLsb' 32 32 }
  | 2 => { q with root := d }
  | _ => q
/-- What a host write brings about is performed at the write, in the order of the writes (R381). -/
def State.performed (s : State) (o : Out) : State := match o with | .next t => t | _ => s
/-- A write to a register of the management window; read-only and reserved offsets ignore it. -/
def State.writeWindow (s : State) (o : Nat) (d : Word) : State :=
  let g := s.mgmt
  if o = 0x10 then { s with mgmt := { g with admits := d.setWidth 8 } }
  else if o = 0x18 then
    (match d.toNat % 256 with
     | 1 => s.performed (execColdReset s)
     | 2 => s.performed (execFirmwareUpdate s)
     | 3 => s.performed (execInstallUpload s)
     | _ => s)
  else if o = 0x20 then { s with mgmt := { g with intrBase := d.setWidth 48 &&& ~~~63 } }
  else if o = 0x28 then { s with mgmt := { g with intrLen := d.setWidth 16 } }
  else if o = 0x30 then { s with mgmt := { g with intrPtr := (g.intrPtr &&& 0xFFFFFFFF00000000) ||| (d &&& 0xFFFFFFFF) } }
  else if o = 0x38 then { s with mgmt := { g with portErr := d } }
  else if o = 0x60 then { s with mgmt := { g with updImg := d.setWidth 48 } }
  else if o = 0x68 then { s with mgmt := { g with updLen := d.setWidth 32 } }
  else if o = 0x80 then { s with mgmt := { g with qsel := d.setWidth 17 } }
  else if o = 0x88 then
    (match d.toNat % 4 with
     | 1 => s.performed (execQueueEnable s)
     | 2 => s.performed (execQueueDisable s)
     | _ => s)
  else if o = 0xA0 then { s with mgmt := { g with intrLost := d } }
  else if o = 0xA8 then { s with mgmt := { g with sysObj := d.setWidth 48 } }
  else if o = 0xB0 then { s with mgmt := { g with sysLen := d.setWidth 32 } }
  else if o = 0xB8 then (if d.toNat % 4 = 1 ∧ g.sysCtl.toNat % 4 ≠ 1 then s.performed (execSystemObjectPlace s) else s)
  else if 0xC0 ≤ o ∧ o < 0x100 then
    (if (s.queue g.qsel.toNat).state = .disabled then
       (s.modQueue g.qsel.toNat (fun q => q.setWord ((o - 0xC0) / 8) d)).modMgmt (fun x => { x with qstat := false })
     else { s with mgmt := { g with qstat := true } })
  else if 0x100 ≤ o ∧ o < 0x180 then { s with mgmt := { g with merr := Tab.put g.merr ((o - 0x100) / 8) d } }
  else if 0x200 ≤ o ∧ o < 0x280 then
    let die := (o - 0x200) / 16
    let t := Tab.getD g.trace die (0, 0)
    { s with mgmt := { g with trace := Tab.put g.trace die (if o % 16 < 8 then (d &&& 0x8000FFFFFFFFFFC0, t.2) else (t.1, d)) } }
  else if 0x400 ≤ o ∧ o < 0xC00 then
    let e := (o - 0x400) / 32
    { s with mgmt := { g with win := Tab.put g.win e (winWord (Tab.getD g.win e []) (o % 32 / 8) d) } }
  else if 0x30000 ≤ o ∧ o < 0x31000 then
    let s1 : State := { s with mgmt := { g with attest := putWord g.attest (o - 0x30000) d } }
    if o = 0x30020 ∧ d = 1 then s1.performed (execAttestationRequest s1) else s1
  else s

/-! ### The debug page (R369, R370) -/

/-- A command written to DCMD takes effect 4 cycles later; BLACKOUT addresses the cluster, and its core and slot are ignored (R370). -/
def State.debugCommand (s : State) (cl : Nat) (d : Word) : State :=
  let core := d.toNat / 16 % 64
  let slot := d.toNat / 1024 % 32
  let freeze := d.getLsbD 15
  if d.toNat % 16 = 5 then s.after 4 (.blackout cl)
  else if 48 < core then s
  else match d.toNat % 16 with
    | 1 => s.after 4 (.stop cl core slot)
    | 2 => s.after 4 (.resume cl core slot freeze)
    | 3 => s.after 4 (.step cl core slot freeze)
    | 4 => s.after 4 (.steptrap cl core ⟨slot, freeze⟩)
    | 6 => s.after 4 (.claim cl core slot)
    | 7 => s.after 4 (.unclaim cl core slot)
    | 8 => s.after 4 (.clrhist cl core)
    | _ => s
/-- A counter of the census is set. -/
def Census.setWord (c : Census) (j n : Nat) : Census :=
  match j with
  | 0 => { c with issued := n } | 1 => { c with mem := n } | 2 => { c with ship := n }
  | 3 => { c with msg := n } | 4 => { c with xlate := n } | _ => { c with vacant := n }
/-- A write to a debug page. -/
def State.writeDebug (s : State) (cl o : Nat) (d : Word) : State :=
  if o = 0 then s.debugCommand cl d
  else if o = 8 then s.modCluster cl (fun c => { c with drecHead := d })
  else if 0x1000 ≤ o ∧ o < 0x1000 + 49 * 768 then
    let k := (o - 0x1000) / 768
    let r := (o - 0x1000) % 768
    match s.slotAt (mkSa (pcDie cl) (pcIndex cl) k (r / 48)) with
    | some m => s.putStrand { m with census := m.census.setWord (r % 48 / 8) d.toNat }
    | none => s
  else s

/-! ### Host accesses (R380, R381) -/

/-- A region of the host port. -/
inductive HostRegion where
  | window (o : Nat) | upload (o : Nat) | arrival (q : Nat) | dbg (cl o : Nat) | hbm (pa : Nat)
deriving DecidableEq, Repr
/-- The region of a host offset. -/
def hostRegion (off : Nat) : Option HostRegion :=
  if off < 0x100000 then some (.window off)
  else if off < 0x4100000 then some (.upload (off - 0x100000))
  else if 0x10000000 ≤ off ∧ off < 0x10100000 then some (.arrival ((off - 0x10000000) / 8))
  else if 0x20000000 ≤ off ∧ off < 0x20600000 then some (.dbg ((off - 0x20000000) / 65536) (off % 65536))
  else if 0x1000000000 ≤ off ∧ off < 0x1000000000 + hbmTop then some (.hbm (off - 0x1000000000))
  else none
/-- What of the management window responds in recovery. -/
def recoveryOffset (o : Nat) : Bool :=
  o / 8 == 0 || o / 8 == 1 || o / 8 == 3 || (decide (0x40 ≤ o) && decide (o < 0x60)) || (decide (0x100 ≤ o) && decide (o < 0x180)) ||
  (decide (0x1000 ≤ o) && decide (o < 0x3000))
/-- The stage makes a region available. -/
def State.hostOpen (s : State) (r : HostRegion) : Bool :=
  let st := s.mgmt.stage.toNat
  let up := st == 3 || st == 4
  match r with
  | .window o => st != 0 && (st != 0xFF || recoveryOffset o)
  | .upload _ => st == 0xFF
  | .arrival _ => s.arrivalsOpen
  | .dbg _ _ => up
  | .hbm _ => st == 2 || up
/-- A host write or read of an aligned word; what a read returns goes to the host. -/
def State.hostAccess (s : State) (write : Bool) (off : Nat) (d : Word) : State :=
  let o := off / 8 * 8
  match hostRegion o with
  | none => s.portError
  | some r =>
    if s.hostOpen r = false then s.portError
    else match r, write with
      | .hbm pa, _ =>
        let s1 := if write then s.write pa 8 d.toNat else s
        s1.watchAll pa 8 (!write) write .coherent .slice (baseDie pa) 3 0
      | _, false => s
      | .window x, true => s.writeWindow x d
      | .upload x, true => s.modMgmt (fun g => { g with upload := putWord g.upload x d })
      | .arrival q, true => s.performed (execArrivalWrite q d s)
      | .dbg cl x, true => s.writeDebug cl x d
/-- HOST_PORT_ACCESS. -/
def execHostPortAccess (write : Bool) (off : Nat) (data : BitVec 64) (s : State) : Out := .next (s.hostAccess write off data)
/-- REGISTER_WRITE. -/
def execRegisterWrite (off : Nat) (data : BitVec 64) (s : State) : Out := .next (s.hostAccess true off data)

end Sys2Proof.Machine
end

