-- ==== Sys2Proof/Machine/Flags.lean ====
section
/-! DEFINITION. Flag computations: exception conditions, their traps, sticky flags, the normaliser, and VSTAT
(R74, R102 to R104, R123, R124). -/

namespace Sys2Proof.Machine

/-- FFLAGS of the current strand gain the conditions raised (R102). -/
def Strand.orF (m : Strand) (cond : BitVec 5) : Strand := { m with flags := { m.flags with fflags := m.flags.fflags ||| cond } }
/-- VSTAT gains bits (R124). -/
def Strand.orV (m : Strand) (bits : BitVec 2) : Strand := { m with flags := { m.flags with vstat := m.flags.vstat ||| bits } }
/-- SRSEED := g. -/
def Strand.seed (m : Strand) (g : BitVec 32) : Strand := { m with flags := { m.flags with srseed := g } }

/-- The trap of the first enabled condition raised, in the order NV, DZ, OF, UF, NX (R102). -/
def fpCause (fctl : BitVec 10) (cond : BitVec 5) : Option Cause :=
  let hit := (fctl.extractLsb' 3 5) &&& cond
  if hit.getLsbD 4 then some .fpInvalid
  else if hit.getLsbD 3 then some .fpDivzero
  else if hit.getLsbD 2 then some .fpOverflow
  else if hit.getLsbD 1 then some .fpUnderflow
  else if hit.getLsbD 0 then some .fpInexact
  else none

/-- The turns forfeited to the shared normaliser; a heavy strand loses none (R104). -/
def Strand.normalise (m : Strand) (sub : Bool) : Strand :=
  if sub && m.kind != .heavy then { m with forfeit := 2, forfeitCls := .mem, forfeitQ := m.nextQ } else m

/-- The end of a scalar floating-point instruction: a trap leaves s[d], FFLAGS and SRSEED unwritten (R102). -/
def fpEnd (d : SReg) (bits : Word) (cond : BitVec 5) (sub : Bool) (g : Option (BitVec 32)) (c : Bool) (s : State) : Out :=
  match fpCause s.me.fctl cond with
  | some cause => s.trap cause (zx cond)
  | none =>
    .next (s.mod (fun m =>
      let m1 := ((m.setS d bits).orF cond).normalise sub
      (match g with | some x => m1.seed x | none => m1).retire 4 c))

end Sys2Proof.Machine
end

