-- ==== Sys2Proof/Machine/Fp.lean ====
section
/-! DEFINITION. Scalar floating point: majors 0x10, 0x11 and 0x12 (R105 to R116). -/

namespace Sys2Proof.Machine

/-- The format of a minor code's low bits (R105). -/
def fmtOf (f : BitVec 2) : Fmt := match f.toNat with | 1 => fp16 | 2 => bf16 | _ => fp32
/-- The format of a float code of R113. -/
def cvtFmt (n : Nat) : Fmt :=
  match n with | 1 => fp16 | 2 => bf16 | 3 => e4m3 | 4 => e5m2 | _ => fp32
/-- The low bits of a scalar source that its format reads (R91). -/
def Strand.fbits (m : Strand) (f : Fmt) (r : SReg) : Nat := (m.getS r).toNat % 2 ^ f.width

/-- A two-source form: it may go through the normaliser (R104). -/
def fp2 (f : Fmt) (op : Bool → FVal → FVal → FRes) (d a b : SReg) (c : Bool) (s : State) : Out :=
  let z := ftzOf s.me.fctl
  let x := s.me.fbits f a
  let y := s.me.fbits f b
  let r := op z (f.source z x) (f.source z y)
  fpEnd d (BitVec.ofNat 64 r.bits) r.cond (!z && (f.isSub x || f.isSub y || f.isSub r.bits)) none c s
/-- A fused form with the addend s[d] (R112). -/
def fp3 (f : Fmt) (aux : BitVec 3) (negP negZ : Bool) (d a b : SReg) (c : Bool) (s : State) : Out :=
  let z := ftzOf s.me.fctl
  let x := s.me.fbits f a
  let y := s.me.fbits f b
  let w := s.me.fbits f d
  let p := if negP then (f.source z x).negate else f.source z x
  let t := if negZ then (f.source z w).negate else f.source z w
  let r := fFma (modeOf aux s.me.fctl) f z p (f.source z y) t
  fpEnd d (BitVec.ofNat 64 r.bits) r.cond (!z && (f.isSub x || f.isSub y || f.isSub w || f.isSub r.bits)) none c s
/-- A comparison: its result is 0 or 1 (R108). -/
def fpCmp (f : Fmt) (p : FVal → FVal → Bool) (loud : Bool) (d a b : SReg) (c : Bool) (s : State) : Out :=
  let z := ftzOf s.me.fctl
  let x := s.me.fbits f a
  let y := s.me.fbits f b
  let r := fCompare p loud (f.source z x) (f.source z y)
  fpEnd d (BitVec.ofNat 64 r.bits) r.cond (!z && (f.isSub x || f.isSub y)) none c s
/-- FMIN and FMAX (R107). -/
def fpMinMax (f : Fmt) (max : Bool) (d a b : SReg) (c : Bool) (s : State) : Out :=
  let z := ftzOf s.me.fctl
  let x := s.me.fbits f a
  let y := s.me.fbits f b
  let r := fMinMax f max z x y
  fpEnd d (BitVec.ofNat 64 r.bits) r.cond (!z && (f.isSub x || f.isSub y || f.isSub r.bits)) none c s
/-- An estimate (R110, R111). -/
def fpEst (f : Fmt) (op : FVal → FRes) (d a : SReg) (c : Bool) (s : State) : Out :=
  let z := ftzOf s.me.fctl
  let x := s.me.fbits f a
  let r := op (f.source z x)
  fpEnd d (BitVec.ofNat 64 r.bits) r.cond (!z && (f.isSub x || f.isSub r.bits)) none c s

/-- FADD (R106). -/
def execFadd (d a b : SReg) (f : BitVec 2) (r : BitVec 3) (c : Bool) (s : State) : Out :=
  fp2 (fmtOf f) (fun z x y => fAdd (modeOf r s.me.fctl) (fmtOf f) z x y) d a b c s
/-- FSUB (R106). -/
def execFsub (d a b : SReg) (f : BitVec 2) (r : BitVec 3) (c : Bool) (s : State) : Out :=
  fp2 (fmtOf f) (fun z x y => fAdd (modeOf r s.me.fctl) (fmtOf f) z x y.negate) d a b c s
/-- FMUL (R106). -/
def execFmul (d a b : SReg) (f : BitVec 2) (r : BitVec 3) (c : Bool) (s : State) : Out :=
  fp2 (fmtOf f) (fun z x y => fMul (modeOf r s.me.fctl) (fmtOf f) z x y) d a b c s
/-- FMIN (R107). -/
def execFmin (d a b : SReg) (f : BitVec 2) (c : Bool) (s : State) : Out := fpMinMax (fmtOf f) false d a b c s
/-- FMAX (R107). -/
def execFmax (d a b : SReg) (f : BitVec 2) (c : Bool) (s : State) : Out := fpMinMax (fmtOf f) true d a b c s
/-- FABS: the sign bit cleared; no condition, no flush (R103, R106). -/
def execFabs (d a : SReg) (f : BitVec 2) (c : Bool) (s : State) : Out :=
  let b := s.me.fbits (fmtOf f) a
  .next (s.finS d (BitVec.ofNat 64 (b % (fmtOf f).signBit)) 4 c)
/-- FNEG: the sign bit inverted (R103, R106). -/
def execFneg (d a : SReg) (f : BitVec 2) (c : Bool) (s : State) : Out :=
  let b := s.me.fbits (fmtOf f) a
  .next (s.finS d (BitVec.ofNat 64 (b ^^^ (fmtOf f).signBit)) 4 c)
/-- FSGNJ: the bits of s[a] with the sign of s[b] (R103, R106). -/
def execFsgnj (d a b : SReg) (f : BitVec 2) (c : Bool) (s : State) : Out :=
  let x := s.me.fbits (fmtOf f) a
  let y := s.me.fbits (fmtOf f) b
  .next (s.finS d (BitVec.ofNat 64 (x % (fmtOf f).signBit + (if (fmtOf f).negF y then (fmtOf f).signBit else 0))) 4 c)
/-- FEQ (R108). -/
def execFeq (d a b : SReg) (f : BitVec 2) (c : Bool) (s : State) : Out := fpCmp (fmtOf f) fEqual false d a b c s
/-- FLT (R108). -/
def execFlt (d a b : SReg) (f : BitVec 2) (c : Bool) (s : State) : Out := fpCmp (fmtOf f) fLess true d a b c s
/-- FLE (R108). -/
def execFle (d a b : SReg) (f : BitVec 2) (c : Bool) (s : State) : Out := fpCmp (fmtOf f) (fun x y => fLess x y || fEqual x y) true d a b c s
/-- FCLASS: the mask of R109 of the bits as stored. -/
def execFclass (d a : SReg) (f : BitVec 2) (c : Bool) (s : State) : Out :=
  .next (s.finS d (BitVec.ofNat 64 (fClass (fmtOf f) (s.me.fbits (fmtOf f) a))) 4 c)
/-- FRCPE (R110). -/
def execFrcpe (d a : SReg) (f : BitVec 2) (c : Bool) (s : State) : Out := fpEst (fmtOf f) (fRcpe (fmtOf f)) d a c s
/-- FRSQE (R111). -/
def execFrsqe (d a : SReg) (f : BitVec 2) (c : Bool) (s : State) : Out := fpEst (fmtOf f) (fRsqe (fmtOf f)) d a c s
/-- FMADD (R112). -/
def execFmadd (d a b : SReg) (f : BitVec 2) (r : BitVec 3) (c : Bool) (s : State) : Out := fp3 (fmtOf f) r false false d a b c s
/-- FMSUB (R112). -/
def execFmsub (d a b : SReg) (f : BitVec 2) (r : BitVec 3) (c : Bool) (s : State) : Out := fp3 (fmtOf f) r false true d a b c s
/-- FNMADD (R112). -/
def execFnmadd (d a b : SReg) (f : BitVec 2) (r : BitVec 3) (c : Bool) (s : State) : Out := fp3 (fmtOf f) r true true d a b c s
/-- FNMSUB (R112). -/
def execFnmsub (d a b : SReg) (f : BitVec 2) (r : BitVec 3) (c : Bool) (s : State) : Out := fp3 (fmtOf f) r true false d a b c s

/-- The range of an integer type code (R113, R115). -/
def intRange (t : Nat) : Int × Int :=
  match t with
  | 0 => (-(2 ^ 31), 2 ^ 31 - 1)
  | 1 => (-(2 ^ 63), 2 ^ 63 - 1)
  | 2 => (0, 2 ^ 32 - 1)
  | _ => (0, 2 ^ 64 - 1)
/-- A register read as an integer type (R116). -/
def intOf (t : Nat) (x : Word) : Int :=
  match t with
  | 0 => sextN x.toNat 32
  | 1 => x.toInt
  | 2 => (x.toNat % 2 ^ 32 : Nat)
  | _ => x.toNat

/-- The codes of R113 are ordered so that a conversion narrows unless its source is narrower in both fields. -/
def widens (dst src : Nat) : Bool := (dst == 0 && src != 0) || ((dst == 1 || dst == 2) && (src == 3 || src == 4))
/-- The mode of a conversion: stochastic only where it narrows, with the generator's new state (R100, R101). -/
def cvtMode (code : Nat) (narrow : Bool) (seed : BitVec 32) : RMode × Option (BitVec 32) :=
  if code = 5 ∧ narrow = true then (.sr (srNext seed).toNat, some (srNext seed)) else (rmode code, none)

/-- FCVT: floating to floating (R114), to integer (R115) and from integer (R116), by the minor code (R113). -/
def execFcvt (d a : SReg) (mi : BitVec 7) (r : BitVec 3) (c : Bool) (s : State) : Out :=
  let n := mi.toNat
  let z := ftzOf s.me.fctl
  let code := roundCode r s.me.fctl
  if n % 2 = 0 then
    let src := cvtFmt (n / 2 % 8)
    let dst := cvtFmt (n / 16)
    let x := s.me.fbits src a
    let md := cvtMode code (!widens (n / 16) (n / 2 % 8)) s.me.flags.srseed
    let v := fConvert md.1 dst z (src.source z x)
    fpEnd d (BitVec.ofNat 64 v.bits) v.cond (!z && (src.isSub x || dst.isSub v.bits)) md.2 c s
  else
    let f := cvtFmt (n / 2 % 8)
    let t := n / 16 % 4
    if n / 64 = 0 then
      let x := s.me.fbits f a
      let v := fToInt (rmode code) (intRange t).1 (intRange t).2 (f.source z x)
      fpEnd d (cut 64 v.1) v.2 (!z && f.isSub x) none c s
    else
      let v := intToF (rmode code) f (intOf t (s.me.getS a))
      fpEnd d (BitVec.ofNat 64 v.bits) v.cond false none c s

end Sys2Proof.Machine
end

