-- ==== Sys2Proof/Machine/Quiesce.lean ====
section
/-! DEFINITION. Troupe quiescence (R196, R197, R203). -/

namespace Sys2Proof.Machine

/-- A wait of the strand's next instruction: its word in the block the strand runs. -/
def Strand.nextWord (m : Strand) : Option Nat :=
  match m.block with
  | some b => b.words[(m.pc - b.base).toNat / 4]?
  | none => none
/-- WAIT, NUM and PC of a waiting vcore (R197). -/
def State.waitOf (s : State) (m : Strand) : Option (Nat × Nat × Word) :=
  if m.run == .parked then some (6, 0, m.pc)
  else if m.run != .active then none
  else match m.ops.find? (fun o => match o.what with | .barArrive _ _ true _ => true | _ => false) with
    | some o => (match o.what with
      | .barArrive _ n _ _ => some (3, n, o.pc)
      | _ => none)
    | none => match m.nextWord with
      | none => none
      | some w =>
        let j := fld w 26 6
        let minor := fld w 4 7
        let n := fld w 11 3
        let port : BitVec 3 := BitVec.ofNat 3 n
        let late := match s.barrier? m.troupe n with
          | some b => b.member m && (b.mustWait m.vcid (saPkg m.sa) || m.arriving n)
          | none => false
        if j = 0x17 ∧ minor < 2 ∧ (s.outBind m n).isSome = true ∧ m.credits[port.toNat] = 0 then some (2, n, m.pc)
        else if j = 0x17 ∧ (minor = 2 ∨ minor = 3) ∧ (s.inBind m n).isSome = true ∧ (untaken (m.inPort port)).isEmpty = true then some (1, n, m.pc)
        else if j = 0x18 ∧ minor = 0 ∧ late = true then some (5, n, m.pc)
        else if j = 0x18 ∧ minor = 2 ∧ late = true then some (3, n, m.pc)
        else if j = 0x18 ∧ minor = 1 ∧ (s.barrier? m.troupe n).isSome = true then some (3, n, m.pc)
        else if j = 0x19 ∧ minor = 0 ∧ (m.inbox.filter (fun e => e.taken.isNone)).isEmpty = true then some (4, 0, m.pc)
        else if ((j = 0x34 ∧ minor = 0x25) ∨ (j = 0x38 ∧ minor = 9)) ∧ (blockRing m).isSome = true then some (7, 0, m.pc)
        else none
/-- The quiescence record of a waiting vcore. -/
def quietRecord (vcid : Nat) (w : Nat × Nat × Word) : Word × Word :=
  (BitVec.ofNat 64 (w.2.1 % 8 * 2 ^ 37 + w.1 * 2 ^ 32 + vcid % 2 ^ 32), w.2.2)
/-- The records of a troupe, by vcid. -/
def State.quietRecordsOf (s : State) (tr : Nat) : List (Word × Word) :=
  (sortBy (fun a b => decide (a.vcid ≤ b.vcid)) (s.strands.filter (fun m => m.troupe == tr && m.kind != .sm))).filterMap (fun m =>
    (s.waitOf m).map (quietRecord m.vcid))

/-! ### The count (R196) -/

/-- An operation that keeps its troupe from being quiet. -/
def Op.busy (o : Op) : Bool :=
  match o.what, o.stage with
  | .barArrive _ _ true _, .away => false
  | _, _ => true
/-- A message of a troupe is in flight. -/
def State.trafficOf (s : State) (tr : Nat) : Bool :=
  s.agenda.any (fun e => match e.2 with
    | .channelEntryArrival t _ _ _ _ => t == tr | .barrierArrival t _ _ => t == tr | .genUpdateArrival t _ _ _ => t == tr
    | .inboxMessageArrival t _ _ => t == tr | _ => false)
/-- A copy command of a troupe is queued or runs. -/
def State.copiesOf (s : State) (tr : Nat) : Bool :=
  s.dies.any (fun d => d.2.engines.any (fun e => e.2.queue.any (fun k => k.troupe == tr) ||
    (match e.2.running with | some r => r.cmd.troupe == tr | none => false)))
/-- A walk or fault service of the troupe's strands, or of a PREF or XLATPRE of theirs, is not over. -/
def State.walksOf (s : State) (tr : Nat) : Bool :=
  s.ports.any (fun p => p.2.walks.any (fun w => match w.who with
    | .background t => t == tr
    | .strand sa => !w.failed && (s.strand? sa).any (fun m => m.troupe == tr && m.kind != .sm)
    | _ => false))
/-- The troupe is quiet in this cycle. -/
def State.quietNow (s : State) (tr : Nat) (t : Troupe) : Bool :=
  !t.stirred && !s.trafficOf tr && !s.copiesOf tr && !s.walksOf tr &&
  s.strands.all (fun m => m.troupe != tr || m.kind == .sm || (m.ops.all (fun o => !o.busy) && m.xwait.isNone && m.forfeit == 0 &&
    !(m.readyCls == .vacant && decide (s.cycle < m.readyAt)) && !(m.run == .parked && m.parkDl != 0) &&
    m.mq.all (fun o => o.started.isNone) && (m.mq.isEmpty || (blockRing m).isSome)))
/-- The cycle counts: no vcore is switched out or stopped (R196, R371). -/
def State.quietCounts (s : State) (tr : Nat) (t : Troupe) : Bool :=
  t.out.isEmpty && s.strands.all (fun m => m.troupe != tr || m.kind == .sm || !m.dbg.stopped)
/-- Counted cycles of quiet that a report needs. -/
def quietLimit : Nat := 65536
/-- One cycle of a troupe's monitors: one that does not count breaks no count, but an issue, arrival or completion in it restarts the count (R196,
R371). -/
def State.countQuiet (s : State) (tr : Nat) : State :=
  match s.troupe? tr with
  | none => s
  | some t =>
    if s.quietCounts tr t = false then s.modTroupe tr (fun x => { x with quiet := if x.stirred then 0 else x.quiet, stirred := false })
    else if s.quietNow tr t = false then s.modTroupe tr (fun x => { x with quiet := 0, stirred := false })
    else
      let s1 := s.modTroupe tr (fun x => { x with quiet := x.quiet + 1 })
      if t.quiet + 1 = quietLimit then s1.after 0 (.quiescenceCountExpiry tr) else s1

/-! ### The report (R196, R197, R203) -/

/-- QUIESCENCE_COUNT_EXPIRY: the monitors combine through the cluster tree. -/
def execQuiescenceCountExpiry (tr : Nat) (s : State) : Out :=
  match s.troupe? tr with
  | none => .next s
  | some t => if t.quiet < quietLimit then .next s else .next (s.after (64 + 8 * t.reach) (.troupeQuiescent tr))
/-- The records go to the dump area, with FLAGS[1] of the dump set. -/
def State.writeQuiet (s : State) (tr : Nat) : State :=
  let s1 := s.modTroupe tr (fun t => { t with quietRecs := s.quietRecordsOf tr })
  match s1.troupe? tr with
  | none => s1
  | some t =>
    let s2 := t.dumpQuiet s1
    if t.field 0x0F8 8 < 8 then s2
    else s2.write (t.field 0x0F0 8 + 6) 1 (s2.read (t.field 0x0F0 8 + 6) 1 ||| 2)
/-- TROUPE_QUIESCENT: the die that launched the troupe holds the report, 64 at most; beyond that it is offered again. -/
def execTroupeQuiescent (tr : Nat) (s : State) : Out :=
  match s.troupe? tr with
  | none => .next s
  | some t =>
    let die := saDie t.launcher
    let s1 := s.writeQuiet tr
    if 64 ≤ (s.die die).quiescent.length then .next (s1.after 65536 (.quiescenceReoffer tr))
    else .next (s1.modDie die (fun d => { d with quiescent := d.quiescent ++ [tr] }))
/-- QUIESCENCE_REOFFER: of a troupe that is still quiet. -/
def execQuiescenceReoffer (tr : Nat) (s : State) : Out :=
  match s.troupe? tr with
  | none => .next s
  | some t => if t.quiet < quietLimit then .next s else .next (s.after 0 (.troupeQuiescent tr))

end Sys2Proof.Machine
end

