-- ==== Sys2Proof/Machine/Trans.lean ====
section
/-! DEFINITION. The transcendental functions of majors 0x31 and 0x32 (R243, R244): the exact mathematical value,
correctly rounded with RNE. Each function is enclosed between two integers at a working precision; the enclosure is
narrowed until both ends round to the same encoding. Fixed-point values are integers at scale 2^p. -/

namespace Sys2Proof.Machine

/-- Σ z^(2k+1)/(2k+1), with alternating signs when `alt`: atan or atanh of z at scale 2^p; `t` is the running power. -/
def atanSeries (p : Nat) (z2 : Nat) (alt : Bool) : Nat → Nat → Nat → Int → Int
  | 0, _, _, acc => acc
  | n + 1, k, t, acc =>
    let term : Int := (t / (2 * k + 1) : Nat)
    atanSeries p z2 alt n (k + 1) (t * z2 / 2 ^ p) (if alt && k % 2 == 1 then acc - term else acc + term)

/-- ln 2 = 2·atanh(1/3) at scale 2^p. -/
def ln2At (p : Nat) : Nat := (2 * atanSeries p (2 ^ p / 9) false (p / 3 + 2) 0 (2 ^ p / 3) 0).toNat
/-- π = 16·atan(1/5) − 4·atan(1/239) at scale 2^p (Machin). -/
def piAt (p : Nat) : Nat :=
  (16 * atanSeries p (2 ^ p / 25) true (p / 4 + 2) 0 (2 ^ p / 5) 0
    - 4 * atanSeries p (2 ^ p / 57121) true (p / 15 + 2) 0 (2 ^ p / 239) 0).toNat

/-- Σ t^k/k! for 0 ≤ t < 1: e^t at scale 2^p. -/
def expSeries (p t : Nat) : Nat → Nat → Nat → Nat → Nat
  | 0, _, _, acc => acc
  | n + 1, k, term, acc => expSeries p t n (k + 1) (term * t / 2 ^ p / (k + 1)) (acc + term)
/-- e^t for 0 ≤ t < 1. -/
def expFrac (p t : Nat) : Nat := expSeries p t (p / 3 + 8) 0 (2 ^ p) 0

/-- Σ (−1)^k t^(2k+j)/(2k+j)!: cos (j = 0) or sin (j = 1) of 0 ≤ t < 2. -/
def trigSeries (p t2 : Nat) : Nat → Nat → Nat → Bool → Int → Int
  | 0, _, _, _, acc => acc
  | n + 1, k, term, neg, acc =>
    trigSeries p t2 n (k + 2) (term * t2 / 2 ^ p / ((k + 1) * (k + 2))) (!neg) (if neg then acc - term else acc + term)

/-- An enclosure: lo · 2^e ≤ |v| ≤ hi · 2^e, with the sign of v. -/
structure Encl where
  neg : Bool
  lo : Nat
  hi : Nat
  e : Int
deriving DecidableEq, Repr

/-- The slack of an approximation, in units of its last place: above every truncation of the series. -/
def slack : Nat := 2 ^ 16
/-- An enclosure around an approximation at scale 2^p, times 2^n. -/
def around (p : Nat) (v : Int) (n : Int) : Encl :=
  { neg := decide (v < 0), lo := v.natAbs - slack, hi := v.natAbs + slack, e := n - p }

/-- A signed dyadic at scale 2^p, rounded toward −∞. -/
def fixAt (p : Nat) (neg : Bool) (m : Nat) (e : Int) : Int :=
  let v := signed neg m
  let sh := e + p
  if 0 ≤ sh then v * 2 ^ sh.toNat else v / 2 ^ (-sh).toNat

/-- e^y for y at scale 2^p: a mantissa at scale 2^p and a power of two. -/
def expParts (p : Nat) (y : Int) : Nat × Int :=
  let l := ln2At p
  let n := y / l
  (expFrac p (y - n * l).toNat, n)

/-- 2^x. -/
def exp2Encl (p : Nat) (neg : Bool) (m : Nat) (e : Int) : Encl :=
  let x := fixAt p neg m e
  let n := x / 2 ^ p
  let f := (x - n * 2 ^ p).toNat
  around p (expFrac p (f * ln2At p / 2 ^ p)) n
/-- log2 of m · 2^e. -/
def log2Encl (p : Nat) (m : Nat) (e : Int) : Encl :=
  let l := Nat.log2 m
  let a := m * 2 ^ p / 2 ^ l
  let z := (a - 2 ^ p) * 2 ^ p / (a + 2 ^ p)
  let ln := 2 * atanSeries p (z * z / 2 ^ p) false (p / 3 + 2) 0 z 0
  around p ((e + (l : Int)) * 2 ^ p + ln * 2 ^ p / (ln2At p : Int)) 0
/-- sin, or cos, of the dyadic: reduced by multiples of π/2. -/
def trigEncl (p : Nat) (cosine : Bool) (neg : Bool) (m : Nat) (e : Int) : Encl :=
  let h := piAt (p + 160) / 2
  let x := fixAt (p + 160) false m e
  let k := x / h
  let r := (x - k * h).toNat / 2 ^ 160
  let t2 := r * r / 2 ^ p
  let quad := (k + (if cosine then 1 else 0)) % 4
  let s := trigSeries p t2 (p / 6 + 8) 1 r false 0
  let c := trigSeries p t2 (p / 6 + 8) 0 (2 ^ p) false 0
  let v := match quad.toNat with
    | 0 => s
    | 1 => c
    | 2 => -s
    | _ => -c
  around p (if neg && !cosine then -v else v) 0
/-- tanh of a magnitude: (E − 1)/(E + 1) with E = e^(2x). -/
def tanhEncl (p : Nat) (neg : Bool) (m : Nat) (e : Int) : Encl :=
  let q := p + 160
  let x := expParts q (2 * fixAt q false m e)
  let big := x.1 * 2 ^ x.2.toNat
  let v : Int := ((big - 2 ^ q) * 2 ^ q / (big + 2 ^ q) : Nat)
  around q (if neg then -v else v) 0
/-- 1/(1 + e^−x): from E = e^x as E/(1 + E). -/
def sigmEncl (p : Nat) (neg : Bool) (m : Nat) (e : Int) : Encl :=
  let q := p + 320
  let x := expParts q (fixAt q neg m e)
  let big := if 0 ≤ x.2 then x.1 * 2 ^ x.2.toNat else x.1 / 2 ^ (-x.2).toNat
  around q (big * 2 ^ q / (big + 2 ^ q) : Nat) 0

/-- Rounds an enclosure when both of its ends round alike. -/
def roundEncl (ftz : Bool) (v : Encl) : Option FRes :=
  if v.lo = 0 then none
  else
    let a := roundTo .rne fp32 ftz v.neg v.lo v.e true
    let b := roundTo .rne fp32 ftz v.neg v.hi v.e true
    if a = b then some a else none

/-- Raises the precision until the enclosure rounds; the last precision's lower end stands in if none does. -/
def refine (ftz : Bool) (enc : Nat → Encl) : List Nat → FRes
  | [] => let v := enc 1024; roundTo .rne fp32 ftz v.neg v.lo v.e true
  | p :: r => match roundEncl ftz (enc p) with
    | some x => x
    | none => refine ftz enc r

/-- The precisions tried. -/
def precisions : List Nat := [96, 192, 384, 768]

/-- A value too small or too close to 1 for its exact digits to matter. -/
def tinyRes (ftz : Bool) : FRes := roundTo .rne fp32 ftz false 1 (-400) true
def nearOne (ftz neg : Bool) : FRes := roundTo .rne fp32 ftz neg (2 ^ 60 - 1) (-60) true

/-- |m · 2^e| ≥ 2^k. -/
def atLeast (m : Nat) (e : Int) (k : Int) : Bool := decide (k ≤ e + (Nat.log2 m : Int))

/-- FEXP2 (R243, R244). -/
def tExp2 (ftz : Bool) (x : FVal) : FRes :=
  match x with
  | .nan q => fp32.nanRes q
  | .inf s => { bits := if s then 0 else fp32.inf false, cond := 0 }
  | .zero _ => { bits := 0x3F800000, cond := 0 }
  | .fin s m e =>
    if atLeast m e 10 then (if s then tinyRes ftz else roundTo .rne fp32 ftz false 1 400 false)
    else if 0 ≤ e ∨ m % 2 ^ (-e).toNat = 0 then roundTo .rne fp32 ftz false 1 (fixAt 0 s m e) false
    else refine ftz (fun p => exp2Encl (p + 160) s m e) precisions
/-- FLOG2. -/
def tLog2 (ftz : Bool) (x : FVal) : FRes :=
  match x with
  | .nan q => fp32.nanRes q
  | .inf s => if s then fp32.nanRes true else { bits := fp32.inf false, cond := 0 }
  | .zero _ => { bits := fp32.inf true, cond := condDZ }
  | .fin s m e =>
    if s then fp32.nanRes true
    else if m = 2 ^ Nat.log2 m then intToF .rne fp32 (e + (Nat.log2 m : Int))
    else refine ftz (fun p => log2Encl p m e) precisions
/-- FSIN. -/
def tSin (ftz : Bool) (x : FVal) : FRes :=
  match x with
  | .nan q => fp32.nanRes q
  | .inf _ => fp32.nanRes true
  | .zero s => { bits := fp32.zero s, cond := 0 }
  | .fin s m e => refine ftz (fun p => trigEncl (p + 160) false s m e) precisions
/-- FCOS. -/
def tCos (ftz : Bool) (x : FVal) : FRes :=
  match x with
  | .nan q => fp32.nanRes q
  | .inf _ => fp32.nanRes true
  | .zero _ => { bits := 0x3F800000, cond := 0 }
  | .fin s m e => refine ftz (fun p => trigEncl (p + 160) true s m e) precisions
/-- FTANH. -/
def tTanh (ftz : Bool) (x : FVal) : FRes :=
  match x with
  | .nan q => fp32.nanRes q
  | .inf s => { bits := (if s then 2 ^ 31 else 0) + 0x3F800000, cond := 0 }
  | .zero s => { bits := fp32.zero s, cond := 0 }
  | .fin s m e => if atLeast m e 6 then nearOne ftz s else refine ftz (fun p => tanhEncl p s m e) precisions
/-- FSIGM. -/
def tSigm (ftz : Bool) (x : FVal) : FRes :=
  match x with
  | .nan q => fp32.nanRes q
  | .inf s => { bits := if s then 0 else 0x3F800000, cond := 0 }
  | .zero _ => { bits := 0x3F000000, cond := 0 }
  | .fin s m e =>
    if atLeast m e 8 then (if s then tinyRes ftz else nearOne ftz false)
    else refine ftz (fun p => sigmEncl p s m e) precisions
/-- FRCP: 1 ÷ x. -/
def tRcp (ftz : Bool) (x : FVal) : FRes := fDiv .rne fp32 ftz (.fin false 1 0) x
/-- FRSQRT: 1 ÷ √x. -/
def tRsqrt (ftz : Bool) (x : FVal) : FRes :=
  match x with
  | .nan q => fp32.nanRes q
  | .inf s => if s then fp32.nanRes true else { bits := 0, cond := 0 }
  | .zero s => { bits := fp32.inf s, cond := condDZ }
  | .fin s m e =>
    if s then fp32.nanRes true
    else
      let odd := e % 2 ≠ 0
      let m1 := if odd then 2 * m else m
      let e1 := if odd then e - 1 else e
      let k := 40 + Nat.log2 m1
      let r := isqrt (2 ^ (2 * k) / m1) (k + 1) 0
      roundTo .rne fp32 ftz false r (-(e1 / 2) - (k : Int)) (r * r * m1 != 2 ^ (2 * k))

end Sys2Proof.Machine
end

