-- ==== Sys2Proof/Machine/Vector.lean ====
section
/-! DEFINITION. Vector and predicate instructions: majors 0x20 to 0x27 (R117 to R139). -/

namespace Sys2Proof.Machine

/-! ### Elements and lanes (R117 to R121) -/

/-- Element `i` of `n` bits. -/
def vget (v : VWord) (n i : Nat) : Nat := v.toNat / 2 ^ (n * i) % 2 ^ n
/-- A register built from its elements of `n` bits. -/
def vpack (n : Nat) (f : Nat → Nat) : VWord :=
  BitVec.ofNat 512 ((List.range (512 / n)).foldr (fun i acc => f i % 2 ^ n + 2 ^ n * acc) 0)
/-- The element's lane is active. -/
def active (p : BitVec 16) (n i : Nat) : Bool := p.getLsbD (n * i / 32)
/-- The merge of R119: an inactive element keeps its old value, or becomes zero. -/
def vmerge (p : BitVec 16) (z : Bool) (n : Nat) (old : VWord) (f : Nat → Nat) : VWord :=
  vpack n (fun i => if active p n i then f i else if z then 0 else vget old n i)
/-- The same rule for a predicate destination. -/
def kmerge (p : BitVec 16) (z : Bool) (old : BitVec 16) (f : Nat → Bool) : BitVec 16 :=
  BitVec.ofNat 16 ((List.range 16).foldr (fun j acc =>
    ofBit (if p.getLsbD j then f j else if z then false else old.getLsbD j) + 2 * acc) 0)
where ofBit (b : Bool) : Nat := if b then 1 else 0
/-- Element `i` of the operand in the b position: a register, or the broadcast scalar (R118). -/
def Strand.vb (m : Strand) (b : SReg) (bs : Bool) (n i : Nat) : Nat :=
  if bs then (m.getS b).toNat % 2 ^ n else vget (m.getV (b.setWidth 4)) n i
/-- The word of format V (R121). -/
def vWord (major vd va b : Nat) (bs : Bool) (k : KReg) (minor : Nat) (z c : Bool) : Word :=
  words (major * 2 ^ 26 + vd * 2 ^ 22 + va * 2 ^ 18 + b * 2 ^ 13 + (if bs then 2 ^ 12 else 0) + k.toNat * 2 ^ 9 +
    minor * 4 + (if z then 2 else 0) + (if c then 1 else 0)) 0
/-- A vector instruction: ILLEGAL on a stage-manager strand (R120). -/
def vgate (w : Word) (s : State) (body : Out) : Out := s.gate w false vcoreKind body

/-! ### Vector integer (R125) -/

/-- The element width of a V-INT width field. -/
def widthOf (w : BitVec 2) : Nat := 8 * 2 ^ w.toNat
/-- The result of a wrapping operation. -/
def plain (n : Nat) (x : Int) : Nat × Bool := ((x % (2 ^ n : Nat)).toNat, false)
/-- A result clamped to a range, and whether it was clamped. -/
def clamp (n : Nat) (lo hi x : Int) : Nat × Bool :=
  let y := if x < lo then lo else if hi < x then hi else x
  ((y % (2 ^ n : Nat)).toNat, y != x)
/-- Clamped to the signed range of n bits. -/
def clampI (n : Nat) (x : Int) : Nat × Bool := clamp n (-(2 ^ (n - 1) : Nat)) ((2 ^ (n - 1) : Nat) - 1) x
/-- Clamped to the unsigned range of n bits. -/
def clampN (n : Nat) (x : Int) : Nat × Bool := clamp n 0 ((2 ^ n : Nat) - 1) x

/-- A V-INT form with an element result: elements that clamp set SAT (R124). -/
def vInt (op : Nat) (f : Nat → Nat → Nat → Nat × Bool) (vd va : VReg) (b : SReg) (bs : Bool) (k : KReg) (w : BitVec 2)
    (z c : Bool) (s : State) : Out :=
  let n := widthOf w
  let p := s.me.getK k
  let r := fun i => f n (vget (s.me.getV va) n i) (s.me.vb b bs n i)
  let sat := (List.range (512 / n)).any (fun i => active p n i && (r i).2)
  vgate (vWord 0x20 vd.toNat va.toNat b.toNat bs k (op * 4 + w.toNat) z c) s
    (.next (s.mod (fun m => ((m.setV vd (vmerge p z n (m.getV vd) (fun i => (r i).1))).orV (if sat then 2 else 0)).retire 4 c)))
/-- A V-INT compare of 32-bit elements into a predicate register. -/
def vIntCmp (op : Nat) (f : Nat → Nat → Bool) (kd : KReg) (va : VReg) (b : SReg) (bs : Bool) (k : KReg)
    (z c : Bool) (s : State) : Out :=
  vgate (vWord 0x20 kd.toNat va.toNat b.toNat bs k (op * 4 + 2) z c) s
    (.next (s.mod (fun m =>
      (m.setK kd (kmerge (m.getK k) z (m.getK kd) (fun j => f (vget (m.getV va) 32 j) (m.vb b bs 32 j)))).retire 4 c)))

/-- VADD on integers. -/
def execVadd (vd va : VReg) (b : SReg) (bs : Bool) (k : KReg) (w : BitVec 2) (z c : Bool) (s : State) : Out :=
  vInt 0x00 (fun n x y => plain n (x + y)) vd va b bs k w z c s
/-- VSUB on integers. -/
def execVsub (vd va : VReg) (b : SReg) (bs : Bool) (k : KReg) (w : BitVec 2) (z c : Bool) (s : State) : Out :=
  vInt 0x01 (fun n x y => plain n ((x : Int) - y)) vd va b bs k w z c s
/-- VMUL on integers. -/
def execVmul (vd va : VReg) (b : SReg) (bs : Bool) (k : KReg) (w : BitVec 2) (z c : Bool) (s : State) : Out :=
  vInt 0x02 (fun n x y => plain n (sextN x n * sextN y n)) vd va b bs k w z c s
/-- VADDS.iN. -/
def execVaddsI (vd va : VReg) (b : SReg) (bs : Bool) (k : KReg) (w : BitVec 2) (z c : Bool) (s : State) : Out :=
  vInt 0x03 (fun n x y => clampI n (sextN x n + sextN y n)) vd va b bs k w z c s
/-- VADDS.nN. -/
def execVaddsN (vd va : VReg) (b : SReg) (bs : Bool) (k : KReg) (w : BitVec 2) (z c : Bool) (s : State) : Out :=
  vInt 0x04 (fun n x y => clampN n ((x : Int) + y)) vd va b bs k w z c s
/-- VSUBS.iN. -/
def execVsubsI (vd va : VReg) (b : SReg) (bs : Bool) (k : KReg) (w : BitVec 2) (z c : Bool) (s : State) : Out :=
  vInt 0x05 (fun n x y => clampI n (sextN x n - sextN y n)) vd va b bs k w z c s
/-- VSUBS.nN. -/
def execVsubsN (vd va : VReg) (b : SReg) (bs : Bool) (k : KReg) (w : BitVec 2) (z c : Bool) (s : State) : Out :=
  vInt 0x06 (fun n x y => clampN n ((x : Int) - y)) vd va b bs k w z c s
/-- VMIN.iN. -/
def execVminI (vd va : VReg) (b : SReg) (bs : Bool) (k : KReg) (w : BitVec 2) (z c : Bool) (s : State) : Out :=
  vInt 0x07 (fun n x y => (if sextN y n < sextN x n then y else x, false)) vd va b bs k w z c s
/-- VMIN.nN. -/
def execVminN (vd va : VReg) (b : SReg) (bs : Bool) (k : KReg) (w : BitVec 2) (z c : Bool) (s : State) : Out :=
  vInt 0x08 (fun _ x y => (if y < x then y else x, false)) vd va b bs k w z c s
/-- VMAX.iN. -/
def execVmaxI (vd va : VReg) (b : SReg) (bs : Bool) (k : KReg) (w : BitVec 2) (z c : Bool) (s : State) : Out :=
  vInt 0x09 (fun n x y => (if sextN x n < sextN y n then y else x, false)) vd va b bs k w z c s
/-- VMAX.nN. -/
def execVmaxN (vd va : VReg) (b : SReg) (bs : Bool) (k : KReg) (w : BitVec 2) (z c : Bool) (s : State) : Out :=
  vInt 0x0A (fun _ x y => (if x < y then y else x, false)) vd va b bs k w z c s
/-- VAND. -/
def execVand (vd va : VReg) (b : SReg) (bs : Bool) (k : KReg) (w : BitVec 2) (z c : Bool) (s : State) : Out :=
  vInt 0x0B (fun _ x y => (x &&& y, false)) vd va b bs k w z c s
/-- VOR. -/
def execVor (vd va : VReg) (b : SReg) (bs : Bool) (k : KReg) (w : BitVec 2) (z c : Bool) (s : State) : Out :=
  vInt 0x0C (fun _ x y => (x ||| y, false)) vd va b bs k w z c s
/-- VXOR. -/
def execVxor (vd va : VReg) (b : SReg) (bs : Bool) (k : KReg) (w : BitVec 2) (z c : Bool) (s : State) : Out :=
  vInt 0x0D (fun _ x y => (x ^^^ y, false)) vd va b bs k w z c s
/-- VANDN. -/
def execVandn (vd va : VReg) (b : SReg) (bs : Bool) (k : KReg) (w : BitVec 2) (z c : Bool) (s : State) : Out :=
  vInt 0x0E (fun n x y => (x &&& (2 ^ n - 1 - y), false)) vd va b bs k w z c s
/-- VSLL: the shift count is the low log2(n) bits of y. -/
def execVsll (vd va : VReg) (b : SReg) (bs : Bool) (k : KReg) (w : BitVec 2) (z c : Bool) (s : State) : Out :=
  vInt 0x0F (fun n x y => plain n ((x * 2 ^ (y % n) : Nat) : Int)) vd va b bs k w z c s
/-- VSRL. -/
def execVsrl (vd va : VReg) (b : SReg) (bs : Bool) (k : KReg) (w : BitVec 2) (z c : Bool) (s : State) : Out :=
  vInt 0x10 (fun n x y => (x / 2 ^ (y % n), false)) vd va b bs k w z c s
/-- VSRA. -/
def execVsra (vd va : VReg) (b : SReg) (bs : Bool) (k : KReg) (w : BitVec 2) (z c : Bool) (s : State) : Out :=
  vInt 0x11 (fun n x y => plain n (sextN x n / (2 ^ (y % n) : Nat))) vd va b bs k w z c s
/-- VCMPEQ.b32. -/
def execVcmpeqB32 (kd : KReg) (va : VReg) (b : SReg) (bs : Bool) (k : KReg) (z c : Bool) (s : State) : Out :=
  vIntCmp 0x12 (fun x y => x == y) kd va b bs k z c s
/-- VCMPLT.i32. -/
def execVcmpltI32 (kd : KReg) (va : VReg) (b : SReg) (bs : Bool) (k : KReg) (z c : Bool) (s : State) : Out :=
  vIntCmp 0x13 (fun x y => decide (sextN x 32 < sextN y 32)) kd va b bs k z c s
/-- VCMPLT.n32. -/
def execVcmpltN32 (kd : KReg) (va : VReg) (b : SReg) (bs : Bool) (k : KReg) (z c : Bool) (s : State) : Out :=
  vIntCmp 0x14 (fun x y => decide (x < y)) kd va b bs k z c s
/-- VABSS.iN. -/
def execVabss (vd va : VReg) (k : KReg) (w : BitVec 2) (z c : Bool) (s : State) : Out :=
  vInt 0x15 (fun n x _ => clampI n (sextN x n).natAbs) vd va 0 false k w z c s

/-! ### Floating-point elements (R123, R126) -/

/-- What one element gives: bits, conditions, and whether it read or delivered a subnormal. -/
structure VRes where
  bits : Nat
  cond : BitVec 5
  sub : Bool
deriving DecidableEq, Repr

/-- The traps, flags and normaliser of R123 over what the active elements gave, with their lane masks; `w` writes the
destination. -/
def vfEnd (rs : List (Nat × VRes)) (w : Strand → Strand) (c : Bool) (s : State) : Out :=
  let cond := rs.foldl (fun a r => a ||| r.2.cond) (0 : BitVec 5)
  let en := s.me.fctl.extractLsb' 3 5
  let mask := rs.foldl (fun a r => if r.2.cond &&& en = 0 then a else a ||| r.1) 0
  match fpCause s.me.fctl cond with
  | some cause => s.trap cause (BitVec.ofNat 64 (cond.toNat + mask % 65536 * 65536))
  | none => .next (s.mod (fun m => (((w m).orF cond).normalise (!ftzOf m.fctl && rs.any (fun r => r.2.sub))).retire 4 c))

/-- The results of the active elements of `n` bits, each with the mask of its lane. -/
def vfLanes (p : BitVec 16) (n count : Nat) (r : Nat → VRes) : List (Nat × VRes) :=
  ((List.range count).filter (fun i => active p n i)).map (fun i => (2 ^ (n * i / 32), r i))

/-- Whether one of the encodings is subnormal. -/
def anySub (f : Fmt) (xs : List Nat) : Bool := xs.any f.isSub
/-- An element result with its normaliser use. -/
def FRes.el (r : FRes) (f : Fmt) (xs : List Nat) : VRes := { bits := r.bits, cond := r.cond, sub := anySub f (r.bits :: xs) }

/-- A V-FP or V-FMA form with an element result: the operation takes FTZ, x, y and the old element of vd. -/
def vFp (major op : Nat) (g : Fmt → Bool → Nat → Nat → Nat → VRes) (vd va : VReg) (b : SReg) (bs : Bool) (k : KReg)
    (f : BitVec 2) (z c : Bool) (s : State) : Out :=
  let fm := fmtOf f
  let n := fm.width
  let p := s.me.getK k
  let r := fun i => g fm (ftzOf s.me.fctl) (vget (s.me.getV va) n i) (s.me.vb b bs n i) (vget (s.me.getV vd) n i)
  vgate (vWord major vd.toNat va.toNat b.toNat bs k (op * 4 + f.toNat) z c) s
    (vfEnd (vfLanes p n (512 / n) r) (fun m => m.setV vd (vmerge p z n (m.getV vd) (fun i => (r i).bits))) c s)
/-- A V-FP compare of FP32 elements. -/
def vFpCmp (op : Nat) (q : FVal → FVal → Bool) (loud : Bool) (kd : KReg) (va : VReg) (b : SReg) (bs : Bool) (k : KReg)
    (z c : Bool) (s : State) : Out :=
  let p := s.me.getK k
  let t := ftzOf s.me.fctl
  let r := fun i =>
    let x := vget (s.me.getV va) 32 i
    let y := s.me.vb b bs 32 i
    let v := fCompare q loud (fp32.source t x) (fp32.source t y)
    ({ bits := v.bits, cond := v.cond, sub := anySub fp32 [x, y] } : VRes)
  vgate (vWord 0x21 kd.toNat va.toNat b.toNat bs k (op * 4) z c) s
    (vfEnd (vfLanes p 32 16 r) (fun m => m.setK kd (kmerge p z (m.getK kd) (fun i => (r i).bits == 1))) c s)
/-- FCTL.RM of the current strand as a mode that does not narrow. -/
def State.rm (s : State) : RMode := rmode (s.me.fctl.toNat % 8)
/-- A two-source element operation. -/
def el2 (h : Fmt → Bool → FVal → FVal → FRes) (f : Fmt) (t : Bool) (x y _z : Nat) : VRes :=
  (h f t (f.source t x) (f.source t y)).el f [x, y]
/-- An operation on bits only. -/
def elBits (h : Fmt → Nat → Nat → Nat) (f : Fmt) (_t : Bool) (x y _z : Nat) : VRes := { bits := h f x y, cond := 0, sub := false }
/-- A fused element operation. -/
def el3 (md : RMode) (negP negZ : Bool) (f : Fmt) (t : Bool) (x y w : Nat) : VRes :=
  let a := if negP then (f.source t x).negate else f.source t x
  let d := if negZ then (f.source t w).negate else f.source t w
  (fFma md f t a (f.source t y) d).el f [x, y, w]

/-- VADD on floats. -/
def execVaddFp (vd va : VReg) (b : SReg) (bs : Bool) (k : KReg) (f : BitVec 2) (z c : Bool) (s : State) : Out :=
  vFp 0x21 0x00 (el2 (fun g t x y => fAdd s.rm g t x y)) vd va b bs k f z c s
/-- VSUB on floats. -/
def execVsubFp (vd va : VReg) (b : SReg) (bs : Bool) (k : KReg) (f : BitVec 2) (z c : Bool) (s : State) : Out :=
  vFp 0x21 0x01 (el2 (fun g t x y => fAdd s.rm g t x y.negate)) vd va b bs k f z c s
/-- VMUL on floats. -/
def execVmulFp (vd va : VReg) (b : SReg) (bs : Bool) (k : KReg) (f : BitVec 2) (z c : Bool) (s : State) : Out :=
  vFp 0x21 0x02 (el2 (fun g t x y => fMul s.rm g t x y)) vd va b bs k f z c s
/-- VMIN on floats (R107). -/
def execVminFp (vd va : VReg) (b : SReg) (bs : Bool) (k : KReg) (f : BitVec 2) (z c : Bool) (s : State) : Out :=
  vFp 0x21 0x03 (fun g t x y _ => (fMinMax g false t x y).el g [x, y]) vd va b bs k f z c s
/-- VMAX on floats (R107). -/
def execVmaxFp (vd va : VReg) (b : SReg) (bs : Bool) (k : KReg) (f : BitVec 2) (z c : Bool) (s : State) : Out :=
  vFp 0x21 0x04 (fun g t x y _ => (fMinMax g true t x y).el g [x, y]) vd va b bs k f z c s
/-- VABS. -/
def execVabs (vd va : VReg) (k : KReg) (f : BitVec 2) (z c : Bool) (s : State) : Out :=
  vFp 0x21 0x05 (elBits (fun g x _ => x % g.signBit)) vd va 0 false k f z c s
/-- VNEG. -/
def execVneg (vd va : VReg) (k : KReg) (f : BitVec 2) (z c : Bool) (s : State) : Out :=
  vFp 0x21 0x06 (elBits (fun g x _ => x ^^^ g.signBit)) vd va 0 false k f z c s
/-- VSGNJ. -/
def execVsgnj (vd va : VReg) (b : SReg) (bs : Bool) (k : KReg) (f : BitVec 2) (z c : Bool) (s : State) : Out :=
  vFp 0x21 0x07 (elBits (fun g x y => x % g.signBit + (if g.negF y then g.signBit else 0))) vd va b bs k f z c s
/-- VCMPEQ.s. -/
def execVcmpeqS (kd : KReg) (va : VReg) (b : SReg) (bs : Bool) (k : KReg) (z c : Bool) (s : State) : Out :=
  vFpCmp 0x08 fEqual false kd va b bs k z c s
/-- VCMPLT.s. -/
def execVcmpltS (kd : KReg) (va : VReg) (b : SReg) (bs : Bool) (k : KReg) (z c : Bool) (s : State) : Out :=
  vFpCmp 0x09 fLess true kd va b bs k z c s
/-- VCMPLE.s. -/
def execVcmpleS (kd : KReg) (va : VReg) (b : SReg) (bs : Bool) (k : KReg) (z c : Bool) (s : State) : Out :=
  vFpCmp 0x0A (fun x y => fLess x y || fEqual x y) true kd va b bs k z c s
/-- VMADD. -/
def execVmadd (vd va : VReg) (b : SReg) (bs : Bool) (k : KReg) (f : BitVec 2) (z c : Bool) (s : State) : Out :=
  vFp 0x22 0x00 (el3 s.rm false false) vd va b bs k f z c s
/-- VMSUB. -/
def execVmsub (vd va : VReg) (b : SReg) (bs : Bool) (k : KReg) (f : BitVec 2) (z c : Bool) (s : State) : Out :=
  vFp 0x22 0x01 (el3 s.rm false true) vd va b bs k f z c s
/-- VNMADD. -/
def execVnmadd (vd va : VReg) (b : SReg) (bs : Bool) (k : KReg) (f : BitVec 2) (z c : Bool) (s : State) : Out :=
  vFp 0x22 0x02 (el3 s.rm true true) vd va b bs k f z c s
/-- VNMSUB. -/
def execVnmsub (vd va : VReg) (b : SReg) (bs : Bool) (k : KReg) (f : BitVec 2) (z c : Bool) (s : State) : Out :=
  vFp 0x22 0x03 (el3 s.rm true false) vd va b bs k f z c s

/-! ### Conversions (R127, R128) -/

/-- The source and destination widths of a conversion code. -/
def cvtWidths (mi : Nat) : Nat × Nat :=
  if mi % 2 = 0 then ((cvtFmt (mi / 2 % 8)).width, (cvtFmt (mi / 16)).width) else (32, 32)
/-- One element of a conversion, with the generator's state after it. -/
def cvtEl (mi code : Nat) (t : Bool) (seed : BitVec 32) (x : Nat) : VRes × BitVec 32 :=
  if mi % 2 = 0 then
    let src := cvtFmt (mi / 2 % 8)
    let dst := cvtFmt (mi / 16)
    let md := cvtMode code (!widens (mi / 16) (mi / 2 % 8)) seed
    let v := fConvert md.1 dst t (src.source t x)
    ({ bits := v.bits, cond := v.cond, sub := src.isSub x || dst.isSub v.bits }, md.2.getD seed)
  else
    let ty := mi / 16 % 4
    if mi / 64 = 0 then
      let v := fToInt (rmode code) (intRange ty).1 (intRange ty).2 (fp32.source t x)
      ({ bits := (v.1 % (2 ^ 32 : Nat)).toNat, cond := v.2, sub := fp32.isSub x }, seed)
    else
      let v := intToF (rmode code) fp32 (intOf ty (BitVec.ofNat 64 x))
      ({ bits := v.bits, cond := v.cond, sub := false }, seed)
/-- The converted elements in ascending order; only an active one advances the generator (R128). -/
def cvtRun (mi code : Nat) (t : Bool) (src : Nat → Nat) (act : Nat → Bool) : List Nat → BitVec 32 → List (Nat × VRes) × BitVec 32
  | [], g => ([], g)
  | i :: r, g =>
    if act i then
      let e := cvtEl mi code t g (src i)
      let q := cvtRun mi code t src act r e.2
      ((i, e.1) :: q.1, q.2)
    else cvtRun mi code t src act r g

/-- VCVT: ILLEGAL for a part the conversion does not have. -/
def execVcvt (vd va : VReg) (p : BitVec 2) (k : KReg) (m : BitVec 7) (z c : Bool) (s : State) : Out :=
  let mi := m.toNat
  let w := cvtWidths mi
  let ns := w.1
  let nd := w.2
  let wide := if ns ≤ nd then nd else ns
  let narrow := if ns ≤ nd then ns else nd
  let cnt := 512 / wide
  let base := cnt * p.toNat
  let word := vWord 0x23 vd.toNat va.toNat p.toNat false k mi z c
  let kk := s.me.getK k
  let code := s.me.fctl.toNat % 8
  let srcIx := fun i => if ns ≤ nd then base + i else i
  let q := cvtRun mi code (ftzOf s.me.fctl) (fun i => vget (s.me.getV va) ns (srcIx i)) (fun i => active kk wide i)
    (List.range cnt) s.me.flags.srseed
  let old := s.me.getV vd
  let out : Nat → Nat := fun e =>
    let i := if ns ≤ nd then e else e - base
    if decide (ns ≤ nd) || (decide (base ≤ e) && decide (e < base + cnt)) then
      match Tab.get? q.1 i with
      | some r => r.bits
      | none => if z then 0 else vget old nd e
    else vget old nd e
  vgate word s
    (if wide ≤ p.toNat * narrow then s.trap .illegal word
    else vfEnd (q.1.map (fun r => (2 ^ (wide * r.1 / 32), r.2))) (fun x => (x.setV vd (vpack nd out)).seed q.2) c s)

/-! ### Permutation (R129) -/

/-- A form whose lane j is `f j`. -/
def vPerm (minor : Nat) (f : Strand → Nat → Nat) (vd va : VReg) (b : SReg) (bs : Bool) (k : KReg) (z c : Bool) (s : State) : Out :=
  vgate (vWord 0x24 vd.toNat va.toNat b.toNat bs k minor z c) s
    (.next (s.mod (fun m => (m.setV vd (vmerge (m.getK k) z 32 (m.getV vd) (f m))).retire 4 c)))
/-- The numbers of the active lanes, ascending. -/
def lanesOf (p : BitVec 16) : List Nat := (List.range 16).filter (fun j => p.getLsbD j)

/-- VMOV. -/
def execVmov (vd va : VReg) (k : KReg) (z c : Bool) (s : State) : Out :=
  vPerm 0x00 (fun m j => vget (m.getV va) 32 j) vd va 0 false k z c s
/-- VBCAST. -/
def execVbcast (vd : VReg) (b : SReg) (k : KReg) (z c : Bool) (s : State) : Out :=
  vPerm 0x01 (fun m _ => (m.getS b).toNat % 2 ^ 32) vd 0 b true k z c s
/-- VSHUF. -/
def execVshuf (vd va : VReg) (b : SReg) (bs : Bool) (k : KReg) (z c : Bool) (s : State) : Out :=
  vPerm 0x02 (fun m j => let i := m.vb b bs 32 j; if i < 16 then vget (m.getV va) 32 i else 0) vd va b bs k z c s
/-- VSLIDE. -/
def execVslide (vd va : VReg) (b : SReg) (k : KReg) (z c : Bool) (s : State) : Out :=
  vPerm 0x03 (fun m j =>
    let i := (j : Int) + (m.getS b).toInt
    if 0 ≤ i ∧ i ≤ 15 then vget (m.getV va) 32 i.toNat else 0) vd va b true k z c s
/-- VCOMPRESS: the predicate selects lanes. -/
def execVcompress (vd va : VReg) (k : KReg) (z c : Bool) (s : State) : Out :=
  vgate (vWord 0x24 vd.toNat va.toNat 0 false k 0x04 z c) s
    (.next (s.mod (fun m =>
      let ls := lanesOf (m.getK k)
      (m.setV vd (vpack 32 (fun j => match ls[j]? with
        | some i => vget (m.getV va) 32 i
        | none => if z then 0 else vget (m.getV vd) 32 j))).retire 4 c)))
/-- VEXPAND. -/
def execVexpand (vd va : VReg) (k : KReg) (z c : Bool) (s : State) : Out :=
  vPerm 0x05 (fun m j => vget (m.getV va) 32 ((lanesOf (m.getK k)).filter (fun i => decide (i < j))).length) vd va 0 false k z c s
/-- VEXTR. -/
def execVextr (l : BitVec 4) (va : VReg) (d : SReg) (c : Bool) (s : State) : Out :=
  vgate (vWord 0x24 l.toNat va.toNat d.toNat true 0 0x06 false c) s
    (.next (s.finS d (BitVec.ofNat 64 (vget (s.me.getV va) 32 l.toNat)) 4 c))
/-- VINS. -/
def execVins (vd : VReg) (l : BitVec 4) (b : SReg) (c : Bool) (s : State) : Out :=
  vgate (vWord 0x24 vd.toNat l.toNat b.toNat true 0 0x07 false c) s
    (.next (s.mod (fun m => (m.setV vd (vpack 32 (fun j =>
      if j = l.toNat then (m.getS b).toNat % 2 ^ 32 else vget (m.getV vd) 32 j))).retire 4 c)))

/-! ### Reductions (R130, R131) -/

/-- An integer reduction over the active lanes. -/
def vRed (minor : Nat) (f : List Nat → Int) (va : VReg) (d : SReg) (k : KReg) (c : Bool) (s : State) : Out :=
  vgate (vWord 0x25 0 va.toNat d.toNat true k minor false c) s
    (.next (s.finS d (cut 64 (f ((lanesOf (s.me.getK k)).map (fun j => vget (s.me.getV va) 32 j)))) 4 c))
/-- The largest of a list, at least `lo`. -/
def maxFrom (lo : Int) (xs : List Int) : Int := xs.foldl (fun a x => if a < x then x else a) lo
/-- The smallest of a list, at most `hi`. -/
def minFrom (hi : Int) (xs : List Int) : Int := xs.foldl (fun a x => if x < a then x else a) hi

/-- VREDADD.i32. -/
def execVredaddI32 (va : VReg) (d : SReg) (k : KReg) (c : Bool) (s : State) : Out :=
  vRed 0x00 (fun xs => xs.foldl (fun a x => a + sextN x 32) 0) va d k c s
/-- VREDADD.n32. -/
def execVredaddN32 (va : VReg) (d : SReg) (k : KReg) (c : Bool) (s : State) : Out :=
  vRed 0x01 (fun xs => (xs.foldl (fun a x => a + x) 0 : Nat)) va d k c s
/-- VREDMAX.i32. -/
def execVredmaxI32 (va : VReg) (d : SReg) (k : KReg) (c : Bool) (s : State) : Out :=
  vRed 0x02 (fun xs => maxFrom (-(2 ^ 31)) (xs.map (fun x => sextN x 32))) va d k c s
/-- VREDMAX.n32. -/
def execVredmaxN32 (va : VReg) (d : SReg) (k : KReg) (c : Bool) (s : State) : Out :=
  vRed 0x03 (fun xs => maxFrom 0 (xs.map Int.ofNat)) va d k c s
/-- VREDMIN.i32. -/
def execVredminI32 (va : VReg) (d : SReg) (k : KReg) (c : Bool) (s : State) : Out :=
  vRed 0x04 (fun xs => minFrom (2 ^ 31 - 1) (xs.map (fun x => sextN x 32))) va d k c s
/-- VREDMIN.n32. -/
def execVredminN32 (va : VReg) (d : SReg) (k : KReg) (c : Bool) (s : State) : Out :=
  vRed 0x05 (fun xs => minFrom 0xFFFFFFFF (xs.map Int.ofNat)) va d k c s

/-- One level of the pairwise tree: a value with the mask of the active lanes under it, and what each node gave. -/
def treeLevel (g : Nat × Nat → Nat × Nat → VRes) : List (Nat × Nat) → List (Nat × Nat) × List (Nat × VRes)
  | (x, p) :: (y, q) :: r =>
    let v := g (x, p) (y, q)
    let t := treeLevel g r
    ((v.bits, p ||| q) :: t.1, (p ||| q, v) :: t.2)
  | _ => ([], [])
/-- The tree of R131 over 16 lanes: the value at the root, and what every node gave. -/
def tree16 (g : Nat × Nat → Nat × Nat → VRes) (ts : List (Nat × Nat)) : Nat × List (Nat × VRes) :=
  let a := treeLevel g ts
  let b := treeLevel g a.1
  let d := treeLevel g b.1
  let e := treeLevel g d.1
  ((e.1.map (·.1)).headD 0, a.2 ++ b.2 ++ d.2 ++ e.2)
/-- A floating-point reduction whose inactive lanes hold `pad`. -/
def vRedF (minor pad : Nat) (g : Nat × Nat → Nat × Nat → VRes) (va : VReg) (d : SReg) (k : KReg) (c : Bool) (s : State) : Out :=
  let p := s.me.getK k
  let t := tree16 g ((List.range 16).map (fun j => if p.getLsbD j then (vget (s.me.getV va) 32 j, 2 ^ j) else (pad, 0)))
  vgate (vWord 0x25 0 va.toNat d.toNat true k minor false c) s (vfEnd t.2 (fun m => m.setS d (BitVec.ofNat 64 t.1)) c s)

/-- A node of VREDFADD: padding, which is −0 with no active lane under it, is the identity for a zero too. -/
def redAdd (mode : RMode) (t : Bool) (x y : Nat × Nat) : VRes :=
  let v := el2 (fun f t a b => fAdd mode f t a b) fp32 t x.1 y.1 0
  let keep := fun (u : Nat) => match fp32.source t u with
    | .zero n => { v with bits := fp32.zero n }
    | _ => v
  if x.2 = 0 then keep y.1 else if y.2 = 0 then keep x.1 else v
/-- VREDFADD. -/
def execVredfadd (va : VReg) (d : SReg) (k : KReg) (c : Bool) (s : State) : Out :=
  vRedF 0x06 0x80000000 (redAdd s.rm (ftzOf s.me.fctl)) va d k c s
/-- VREDMAX.s: an absent value is a quiet NaN. -/
def execVredmaxS (va : VReg) (d : SReg) (k : KReg) (c : Bool) (s : State) : Out :=
  vRedF 0x07 fp32.nan (fun x y => (fMinMax fp32 true (ftzOf s.me.fctl) x.1 y.1).el fp32 [x.1, y.1]) va d k c s
/-- VREDMIN.s. -/
def execVredminS (va : VReg) (d : SReg) (k : KReg) (c : Bool) (s : State) : Out :=
  vRedF 0x08 fp32.nan (fun x y => (fMinMax fp32 false (ftzOf s.me.fctl) x.1 y.1).el fp32 [x.1, y.1]) va d k c s

/-! ### Narrow dot products (R132 to R138) -/

/-- VDOT4: four products added to each active lane, wrapping. -/
def vDot4 (minor : Nat) (ext : Nat → Int) (vd va : VReg) (b : SReg) (bs : Bool) (k : KReg) (z c : Bool) (s : State) : Out :=
  let y := fun j i => s.me.vb b bs 32 j / 2 ^ (8 * i) % 256
  let r := fun j => (List.range 4).foldl (fun acc i => acc + ext (vget (s.me.getV va) 8 (4 * j + i)) * ext (y j i))
    ((vget (s.me.getV vd) 32 j : Nat) : Int)
  vgate (vWord 0x26 vd.toNat va.toNat b.toNat bs k minor z c) s
    (.next (s.mod (fun m => (m.setV vd (vmerge (m.getK k) z 32 (m.getV vd) (fun j => (plain 32 (r j)).1))).retire 4 c)))
/-- VDOT4.i8. -/
def execVdot4I8 (vd va : VReg) (b : SReg) (bs : Bool) (k : KReg) (z c : Bool) (s : State) : Out :=
  vDot4 0x00 (fun x => sextN x 8) vd va b bs k z c s
/-- VDOT4.n8. -/
def execVdot4N8 (vd va : VReg) (b : SReg) (bs : Bool) (k : KReg) (z c : Bool) (s : State) : Out :=
  vDot4 0x01 (fun x => (x : Int)) vd va b bs k z c s

/-- The exact product of two values, and whether it is 0 × ∞. -/
def mulExact (x y : FVal) : FVal × Bool :=
  let s := x.neg != y.neg
  match x, y with
  | .nan _, _ => (.nan false, false)
  | _, .nan _ => (.nan false, false)
  | .inf _, .zero _ => (.nan false, true)
  | .zero _, .inf _ => (.nan false, true)
  | .inf _, _ => (.inf s, false)
  | _, .inf _ => (.inf s, false)
  | .fin _ m e, .fin _ n g => (.fin s (m * n) (e + g), false)
  | _, _ => (.zero s, false)
/-- The exact sum of two finite or zero values; a zero sum is −0 for two −0, or under RDN where the signs differ. -/
def sumExact (mode : RMode) (x y : FVal) : FVal :=
  match x, y with
  | .fin a m e, .fin b n g =>
    let r := addExact (signed a m) e (signed b n) g
    if r.1 = 0 then .zero (mode == .rdn) else .fin (decide (r.1 < 0)) r.1.natAbs r.2
  | .fin a m e, _ => .fin a m e
  | _, .fin b n g => .fin b n g
  | x, y => .zero (zeroSign mode x.neg y.neg)
/-- The sign of an infinity. -/
def FVal.infNeg : FVal → Option Bool | .inf s => some s | _ => none
/-- One lane of VDOT2H (R133). -/
def dot2 (mode : RMode) (f : Fmt) (t : Bool) (acc x0 y0 x1 y1 : Nat) : VRes :=
  let a := fp32.source t acc
  let p := mulExact (f.source t x0) (f.source t y0)
  let q := mulExact (f.source t x1) (f.source t y1)
  let ins := [a, f.source t x0, f.source t y0, f.source t x1, f.source t y1]
  let infs := [a, p.1, q.1].filterMap FVal.infNeg
  let opposed := infs.contains true && infs.contains false
  let nv := ins.any FVal.signaling || p.2 || q.2 || opposed
  let r : FRes :=
    if a.isNan || p.1.isNan || q.1.isNan || opposed then fp32.nanRes nv
    else match infs with
      | i :: _ => { bits := fp32.inf i, cond := 0 }
      | [] => fAdd mode fp32 t a (sumExact mode p.1 q.1)
  { bits := r.bits, cond := r.cond, sub := anySub fp32 [acc, r.bits] || anySub f [x0, y0, x1, y1] }
/-- VDOT2H. -/
def vDot2 (minor : Nat) (f : Fmt) (vd va : VReg) (b : SReg) (bs : Bool) (k : KReg) (z c : Bool) (s : State) : Out :=
  let p := s.me.getK k
  let y := fun j i => s.me.vb b bs 32 j / 2 ^ (16 * i) % 65536
  let x := fun j i => vget (s.me.getV va) 16 (2 * j + i)
  let r := fun j => dot2 s.rm f (ftzOf s.me.fctl) (vget (s.me.getV vd) 32 j) (x j 0) (y j 0) (x j 1) (y j 1)
  vgate (vWord 0x26 vd.toNat va.toNat b.toNat bs k minor z c) s
    (vfEnd (vfLanes p 32 16 r) (fun m => m.setV vd (vmerge p z 32 (m.getV vd) (fun j => (r j).bits))) c s)
/-- VDOT2H.h. -/
def execVdot2hH (vd va : VReg) (b : SReg) (bs : Bool) (k : KReg) (z c : Bool) (s : State) : Out :=
  vDot2 0x02 fp16 vd va b bs k z c s
/-- VDOT2H.bf. -/
def execVdot2hBf (vd va : VReg) (b : SReg) (bs : Bool) (k : KReg) (z c : Bool) (s : State) : Out :=
  vDot2 0x03 bf16 vd va b bs k z c s

/-- VUNPK3: twelve ternary bytes to sixty weights; a byte is decoded when one of its weights lands in an active lane (R135). -/
def execVunpk3 (vd va : VReg) (k : KReg) (z c : Bool) (s : State) : Out :=
  let src := fun m => trits (vget (s.me.getV va) 8 m)
  let out := fun e => if e < 60 then (plain 8 ((src (e / 5)).1.getD (e % 5) 0)).1 else 0
  let p := s.me.getK k
  let bad := (List.range 60).any (fun e => active p 8 e && (src (e / 5)).2)
  vgate (vWord 0x26 vd.toNat va.toNat 0 false k 0x04 z c) s
    (.next (s.mod (fun m => ((m.setV vd (vmerge p z 8 (m.getV vd) out)).orV (if bad then 1 else 0)).retire 4 c)))
/-- VDOTT: ternary weights times INT8 activations into lanes 0 to 11 (R136). -/
def execVdott (vd va : VReg) (b : SReg) (k : KReg) (z c : Bool) (s : State) : Out :=
  let p := s.me.getK k
  let act := s.me.getV (b.setWidth 4)
  let wt := fun j => trits (vget (s.me.getV va) 8 j)
  let r := fun j => (List.range 5).foldl (fun acc i => acc + (wt j).1.getD i 0 * sextN (vget act 8 (5 * j + i)) 8)
    ((vget (s.me.getV vd) 32 j : Nat) : Int)
  let bad := (List.range 12).any (fun j => p.getLsbD j && (wt j).2)
  vgate (vWord 0x26 vd.toNat va.toNat b.toNat false k 0x05 z c) s
    (.next (s.mod (fun m => ((m.setV vd (vpack 32 (fun j =>
      if 12 ≤ j then vget (m.getV vd) 32 j
      else if p.getLsbD j then (plain 32 (r j)).1 else if z then 0 else vget (m.getV vd) 32 j))).orV
        (if bad then 1 else 0)).retire 4 c)))
/-- VDECQ: sixteen codes of part s[b][10:8] under scale byte s[b][7:0] (R137). -/
def execVdecq (vd va : VReg) (b : SReg) (k : KReg) (z c : Bool) (s : State) : Out :=
  let y := (s.me.getS b).toNat
  let r := fun j => (roundVal .rne fp32 false (codeDecode (y % 256) (vget (s.me.getV va) 4 (16 * (y / 256 % 8) + j)))).bits
  vgate (vWord 0x26 vd.toNat va.toNat b.toNat true k 0x06 z c) s
    (.next (s.mod (fun m => (m.setV vd (vmerge (m.getK k) z 32 (m.getV vd) r)).retire 4 c)))
/-- VDOTQ: one pair of blocks of 256 codes into lane 0 of vd; a NaN raises nothing (R98, R138). -/
def execVdotq (vd : VReg) (a b : BitVec 3) (c : Bool) (s : State) : Out :=
  let reg := fun (r : BitVec 3) (h : Nat) => s.me.getV (BitVec.ofNat 4 (2 * r.toNat + h))
  let code := fun (r : BitVec 3) (j : Nat) => vget (reg r (j / 128)) 4 (j % 128)
  let old := s.me.getV vd
  let ea := vget old 8 4
  let eb := vget old 8 5
  let d := codeDot (ea / 64) (eb / 64) ((List.range 256).map (fun j => (code a j, code b j)))
  let t := ftzOf s.me.fctl
  let acc := fp32.source t (vget old 32 0)
  let cv := blockC d.1 ea eb d.2
  let r := fAdd .rne fp32 t acc cv
  let res : VRes :=
    { bits := r.bits, cond := if acc.isNan || cv.isNan then 0 else r.cond, sub := anySub fp32 [vget old 32 0, r.bits] }
  vgate (vWord 0x26 vd.toNat (2 * a.toNat) (2 * b.toNat) false 0 0x07 false c) s
    (vfEnd [(1, res)] (fun m => m.setV vd (vpack 32 (fun j => if j = 0 then r.bits else vget old 32 j))) c s)

/-! ### Predicate instructions (R139) -/

/-- A K-op that writes a predicate register. -/
def kOp (minor : Nat) (f : BitVec 16 → BitVec 16 → BitVec 16) (kd ka kb : KReg) (c : Bool) (s : State) : Out :=
  vgate (vWord 0x27 kd.toNat ka.toNat kb.toNat false 0 minor false c) s
    (.next (s.mod (fun m => (m.setK kd (f (m.getK ka) (m.getK kb))).retire 4 c)))
/-- KAND. -/
def execKand (kd ka kb : KReg) (c : Bool) (s : State) : Out := kOp 0x00 (fun x y => x &&& y) kd ka kb c s
/-- KOR. -/
def execKor (kd ka kb : KReg) (c : Bool) (s : State) : Out := kOp 0x01 (fun x y => x ||| y) kd ka kb c s
/-- KXOR. -/
def execKxor (kd ka kb : KReg) (c : Bool) (s : State) : Out := kOp 0x02 (fun x y => x ^^^ y) kd ka kb c s
/-- KANDN. -/
def execKandn (kd ka kb : KReg) (c : Bool) (s : State) : Out := kOp 0x03 (fun x y => x &&& ~~~y) kd ka kb c s
/-- KNOT. -/
def execKnot (kd ka : KReg) (c : Bool) (s : State) : Out := kOp 0x04 (fun x _ => ~~~x) kd ka 0 c s
/-- A K-op that writes a scalar register. -/
def kGet (minor : Nat) (f : BitVec 16 → Nat) (ka : KReg) (d : SReg) (c : Bool) (s : State) : Out :=
  vgate (vWord 0x27 0 ka.toNat d.toNat true 0 minor false c) s (.next (s.finS d (BitVec.ofNat 64 (f (s.me.getK ka))) 4 c))
/-- KPOPC. -/
def execKpopc (ka : KReg) (d : SReg) (c : Bool) (s : State) : Out := kGet 0x05 (fun x => (lanesOf x).length) ka d c s
/-- KFIRST: 16 for no set bit. -/
def execKfirst (ka : KReg) (d : SReg) (c : Bool) (s : State) : Out := kGet 0x06 (fun x => (lanesOf x).headD 16) ka d c s
/-- KSET. -/
def execKset (kd : KReg) (b : SReg) (c : Bool) (s : State) : Out :=
  vgate (vWord 0x27 kd.toNat 0 b.toNat true 0 0x07 false c) s
    (.next (s.mod (fun m => (m.setK kd ((m.getS b).setWidth 16)).retire 4 c)))
/-- KGET. -/
def execKget (ka : KReg) (d : SReg) (c : Bool) (s : State) : Out := kGet 0x08 (fun x => x.toNat) ka d c s

end Sys2Proof.Machine
end

