-- ==== Sys2Proof/Machine/Ship.lean ====
section
/-! DEFINITION. Shipped instructions: majors 0x30 to 0x33, the ship path, the guest queue, results and wide atomics
(R224 to R250). A heavy strand executes the same forms locally. -/

namespace Sys2Proof.Machine

/-! ### Issue at the sender (R224 to R230, R233, R236) -/

/-- NV, OF, UF and NX. -/
def condArith : BitVec 5 := 0x17
/-- All five conditions. -/
def condAll : BitVec 5 := 0x1F
/-- NV and NX. -/
def condRoot : BitVec 5 := 0x11

/-- The guest priority of a strand's troupe (R227, R343). -/
def State.gprio (s : State) (m : Strand) : Nat := match s.troupe? m.troupe with | some t => bytesNat t.desc 0x010 1 | none => 0

/-- A guest-queue attempt of a cluster is already due. -/
def State.guestDue (s : State) (cl : Nat) : Bool := s.agenda.any (fun e => match e.2 with | .guestIssue x => x == cl | _ => false)
/-- The guest queue of a cluster is tried `n` cycles later while it holds anything, unless that is due already. -/
def State.pokeGuest (s : State) (cl n : Nat) : State :=
  if (s.cluster cl).guestQ.isEmpty || s.guestDue cl then s else s.after n (.guestIssue cl)
/-- A packet goes out: it arrives at the serving core's guest queue N cycles later (R229). -/
def State.sendGuest (s : State) (h : Nat) (g : Guest) : State :=
  (s.modCluster h (fun x => { x with guestIn := x.guestIn ++ [g] })).atCycle g.entered (.guestQueueEntry h)

/-- A checked instruction: on a heavy strand its result is delivered as a local one's; a lean strand ships it. The destination is
written from `data` under `mask`; `rs` is what the active lanes gave. -/
def shipRun (w : Word) (lat : Nat) (can : BitVec 5) (d : RegName) (data mask : VWord) (rs : List (Nat × VRes)) (c : Bool) (s : State) : Out :=
  let m := s.me
  let cond := rs.foldl (fun a r => a ||| r.2.cond) (0 : BitVec 5)
  let en := m.fctl.extractLsb' 3 5
  let lanes := rs.foldl (fun a r => if r.2.cond &&& en = 0 then a else a ||| r.1) 0
  let addr : Word := match d with
    | .v _ => BitVec.ofNat 64 (cond.toNat + lanes % 65536 * 65536)
    | _ => zx cond
  s.gate w false vcoreKind
    (match m.kind with
     | .heavy =>
       (match fpCause m.fctl cond with
        | some cause => s.trap cause addr
        | none => .next (s.mod (fun x =>
            let y := match d with
              | .s r => x.setS r (data.setWidth 64)
              | .v r => x.setV r ((x.getV r &&& ~~~mask) ||| (data &&& mask))
              | .k r => x.setK r (data.setWidth 16)
            { (y.orF cond).retire 4 c with
              fixed := { q := x.nextQ, reg := d, due := s.cycle + lat, fflags := can != 0, vstat := false } :: x.fixed })))
     | _ =>
       match s.shipTarget (saPkg m.sa) with
       | none => s.trap .shipUnavailable 0
       | some h =>
         let res : ShipResult := { data := data, mask := mask, cond := cond, trap := (fpCause m.fctl cond).map (fun k => (k, addr)),
                                   lanes := BitVec.ofNat 16 lanes, sets := can != 0, core := h }
         let o : Op := { q := m.nextQ, pc := m.pc, what := .ship d res, dsts := [d], accs := [], ord := 0, kind := 0,
                         stage := .away, trappable := en &&& can != 0, flags := m.flags, issued := s.cycle }
         let n := shipNet (saPkg m.sa) h
         .next ((s.mod (fun x => { x with ops := x.ops ++ [o] }.retire 4 c)).sendGuest h
           { sa := m.sa, q := m.nextQ, prio := s.gprio m, entered := s.cycle + n, latency := lat, wide := false, net := n }))

/-- The word of format A (R31). -/
def aWord (major d a b minor aux : Nat) (c : Bool) : Word :=
  words (major * 2 ^ 26 + d * 2 ^ 21 + a * 2 ^ 16 + b * 2 ^ 11 + minor * 16 + aux * 2 + (if c then 1 else 0)) 0
/-- A scalar result for a register. -/
def shipScalar (w : Word) (lat : Nat) (can : BitVec 5) (d : SReg) (r : FRes) (c : Bool) (s : State) : Out :=
  shipRun w lat can (.s d) (BitVec.ofNat 512 r.bits) (BitVec.allOnes 512) [(1, { bits := r.bits, cond := r.cond, sub := false })] c s
/-- A scalar source as FP64, under FTZ. -/
def srcD (s : State) (r : SReg) : FVal := fp64.source (ftzOf s.me.fctl) (s.me.getS r).toNat
/-- A scalar source as FP32, under FTZ. -/
def srcF (s : State) (r : SReg) : FVal := fp32.source (ftzOf s.me.fctl) (s.me.fbits fp32 r)
/-- FTZ of the current strand. -/
def State.ftz (s : State) : Bool := ftzOf s.me.fctl

/-! ### Scalar forms (R237 to R244) -/

/-- DADD. -/
def execDadd (d a b : SReg) (r : BitVec 3) (c : Bool) (s : State) : Out :=
  shipScalar (aWord 0x30 d.toNat a.toNat b.toNat 0x00 r.toNat c) 4 condArith d (fAdd (modeOf r s.me.fctl) fp64 s.ftz (srcD s a) (srcD s b)) c s
/-- DSUB. -/
def execDsub (d a b : SReg) (r : BitVec 3) (c : Bool) (s : State) : Out :=
  shipScalar (aWord 0x30 d.toNat a.toNat b.toNat 0x01 r.toNat c) 4 condArith d (fAdd (modeOf r s.me.fctl) fp64 s.ftz (srcD s a) (srcD s b).negate) c s
/-- DMUL. -/
def execDmul (d a b : SReg) (r : BitVec 3) (c : Bool) (s : State) : Out :=
  shipScalar (aWord 0x30 d.toNat a.toNat b.toNat 0x02 r.toNat c) 4 condArith d (fMul (modeOf r s.me.fctl) fp64 s.ftz (srcD s a) (srcD s b)) c s
/-- DDIV (R238). -/
def execDdiv (d a b : SReg) (r : BitVec 3) (c : Bool) (s : State) : Out :=
  shipScalar (aWord 0x30 d.toNat a.toNat b.toNat 0x03 r.toNat c) 22 condAll d (fDiv (modeOf r s.me.fctl) fp64 s.ftz (srcD s a) (srcD s b)) c s
/-- DSQRT (R238). -/
def execDsqrt (d a : SReg) (r : BitVec 3) (c : Bool) (s : State) : Out :=
  shipScalar (aWord 0x30 d.toNat a.toNat 0 0x04 r.toNat c) 26 condRoot d (fSqrt (modeOf r s.me.fctl) fp64 s.ftz (srcD s a)) c s
/-- DFMA (R239). -/
def execDfma (d a b : SReg) (r : BitVec 3) (c : Bool) (s : State) : Out :=
  shipScalar (aWord 0x30 d.toNat a.toNat b.toNat 0x05 r.toNat c) 5 condArith d (fFma (modeOf r s.me.fctl) fp64 s.ftz (srcD s a) (srcD s b) (srcD s d)) c s
/-- DMIN (R107, R240). -/
def execDmin (d a b : SReg) (c : Bool) (s : State) : Out :=
  shipScalar (aWord 0x30 d.toNat a.toNat b.toNat 0x06 0 c) 2 condNV d (fMinMax fp64 false s.ftz (s.me.getS a).toNat (s.me.getS b).toNat) c s
/-- DMAX (R107, R240). -/
def execDmax (d a b : SReg) (c : Bool) (s : State) : Out :=
  shipScalar (aWord 0x30 d.toNat a.toNat b.toNat 0x07 0 c) 2 condNV d (fMinMax fp64 true s.ftz (s.me.getS a).toNat (s.me.getS b).toNat) c s
/-- DCMP.eq (R240). -/
def execDcmpEq (d a b : SReg) (c : Bool) (s : State) : Out :=
  shipScalar (aWord 0x30 d.toNat a.toNat b.toNat 0x08 0 c) 2 condNV d (fCompare fEqual false (srcD s a) (srcD s b)) c s
/-- DCMP.lt (R240). -/
def execDcmpLt (d a b : SReg) (c : Bool) (s : State) : Out :=
  shipScalar (aWord 0x30 d.toNat a.toNat b.toNat 0x09 0 c) 2 condNV d (fCompare fLess true (srcD s a) (srcD s b)) c s
/-- DCMP.le (R240). -/
def execDcmpLe (d a b : SReg) (c : Bool) (s : State) : Out :=
  shipScalar (aWord 0x30 d.toNat a.toNat b.toNat 0x0A 0 c) 2 condNV d (fCompare (fun x y => fLess x y || fEqual x y) true (srcD s a) (srcD s b)) c s
/-- DCLASS (R240). -/
def execDclass (d a : SReg) (c : Bool) (s : State) : Out :=
  shipScalar (aWord 0x30 d.toNat a.toNat 0 0x0B 0 c) 2 0 d { bits := fClass fp64 (s.me.getS a).toNat, cond := 0 } c s
/-- FDIV (R238). -/
def execFdiv (d a b : SReg) (r : BitVec 3) (c : Bool) (s : State) : Out :=
  shipScalar (aWord 0x30 d.toNat a.toNat b.toNat 0x10 r.toNat c) 12 condAll d (fDiv (modeOf r s.me.fctl) fp32 s.ftz (srcF s a) (srcF s b)) c s
/-- FSQRT (R238). -/
def execFsqrt (d a : SReg) (r : BitVec 3) (c : Bool) (s : State) : Out :=
  shipScalar (aWord 0x30 d.toNat a.toNat 0 0x11 r.toNat c) 14 condRoot d (fSqrt (modeOf r s.me.fctl) fp32 s.ftz (srcF s a)) c s

/-- The formats of the floating forms of DCVT (R241). -/
def dcvtFmt (n : Nat) : Fmt := match n % 4 with | 1 => fp16 | 2 => bf16 | _ => fp32
/-- The conditions a DCVT form can raise (R242). -/
def dcvtCan (n : Nat) : BitVec 5 :=
  match n / 4 with
  | 0 => condNV
  | 1 => condArith
  | 2 => if n % 2 = 1 then condNX else 0
  | _ => condRoot
/-- A DCVT form by the low bits of its minor code. -/
def dcvtVal (n : Nat) (mode : RMode) (s : State) (a : SReg) : FRes :=
  match n / 4 with
  | 0 => fConvert mode fp64 s.ftz ((dcvtFmt n).source s.ftz (s.me.fbits (dcvtFmt n) a))
  | 1 => fConvert mode (dcvtFmt n) s.ftz (srcD s a)
  | 2 => intToF mode fp64 (intOf (n % 4) (s.me.getS a))
  | _ =>
    let v := fToInt mode (intRange (n % 4)).1 (intRange (n % 4)).2 (srcD s a)
    { bits := (cut 64 v.1).toNat, cond := v.2 }
/-- DCVT (R241, R242). -/
def execDcvt (d a : SReg) (m : BitVec 4) (r : BitVec 3) (c : Bool) (s : State) : Out :=
  shipScalar (aWord 0x30 d.toNat a.toNat 0 (0x20 + m.toNat) r.toNat c) 4 (dcvtCan m.toNat) d (dcvtVal m.toNat (modeOf r s.me.fctl) s a) c s
/-- FEXP2 (R243, R244). -/
def execFexp2 (d a : SReg) (c : Bool) (s : State) : Out :=
  shipScalar (aWord 0x31 d.toNat a.toNat 0 0 0 c) 10 condArith d (tExp2 s.ftz (srcF s a)) c s
/-- FLOG2 (R243, R244). -/
def execFlog2 (d a : SReg) (c : Bool) (s : State) : Out :=
  shipScalar (aWord 0x31 d.toNat a.toNat 0 1 0 c) 12 condAll d (tLog2 s.ftz (srcF s a)) c s
/-- FSIN (R243, R244). -/
def execFsin (d a : SReg) (c : Bool) (s : State) : Out :=
  shipScalar (aWord 0x31 d.toNat a.toNat 0 2 0 c) 18 condArith d (tSin s.ftz (srcF s a)) c s
/-- FCOS (R243, R244). -/
def execFcos (d a : SReg) (c : Bool) (s : State) : Out :=
  shipScalar (aWord 0x31 d.toNat a.toNat 0 3 0 c) 18 condArith d (tCos s.ftz (srcF s a)) c s
/-- FTANH (R243, R244). -/
def execFtanh (d a : SReg) (c : Bool) (s : State) : Out :=
  shipScalar (aWord 0x31 d.toNat a.toNat 0 4 0 c) 16 condArith d (tTanh s.ftz (srcF s a)) c s
/-- FSIGM (R243, R244). -/
def execFsigm (d a : SReg) (c : Bool) (s : State) : Out :=
  shipScalar (aWord 0x31 d.toNat a.toNat 0 5 0 c) 16 condArith d (tSigm s.ftz (srcF s a)) c s
/-- FRCP (R243, R244). -/
def execFrcp (d a : SReg) (c : Bool) (s : State) : Out :=
  shipScalar (aWord 0x31 d.toNat a.toNat 0 6 0 c) 8 condAll d (tRcp s.ftz (srcF s a)) c s
/-- FRSQRT (R243, R244). -/
def execFrsqrt (d a : SReg) (c : Bool) (s : State) : Out :=
  shipScalar (aWord 0x31 d.toNat a.toNat 0 7 0 c) 9 condAll d (tRsqrt s.ftz (srcF s a)) c s

/-! ### Vector forms (R245, R246) -/

/-- The bits of the elements in `ls`, as a write mask. -/
def elMask (n : Nat) (p : Nat → Bool) : VWord := vpack n (fun i => if p i then 2 ^ n - 1 else 0)
/-- A form over `count` elements of `n` bits, the element `i` governed by predicate bit `i`. -/
def shipVec (minor lat n : Nat) (can : BitVec 5) (f : Nat → FRes) (vd va : VReg) (b : SReg) (bs : Bool) (k : KReg) (z c : Bool) (s : State) : Out :=
  let p := s.me.getK k
  let on := fun (i : Nat) => p.getLsbD i
  shipRun (vWord 0x32 vd.toNat va.toNat b.toNat bs k minor z c) lat can (.v vd)
    (vpack n (fun i => if on i then (f i).bits else 0)) (elMask n (fun i => z || on i))
    (((List.range (512 / n)).filter on).map (fun i => (2 ^ i, { bits := (f i).bits, cond := (f i).cond, sub := false }))) c s
/-- An FP64 lane of v[a], under FTZ. -/
def laneD (s : State) (r : VReg) (j : Nat) : FVal := fp64.source s.ftz (vget (s.me.getV r) 64 j)
/-- An FP64 lane of the operand in the b position: all 64 bits of the broadcast scalar (R245). -/
def laneB (s : State) (b : SReg) (bs : Bool) (j : Nat) : FVal := fp64.source s.ftz (s.me.vb b bs 64 j)
/-- An FP32 lane of v[a], under FTZ. -/
def laneF (s : State) (r : VReg) (j : Nat) : FVal := fp32.source s.ftz (vget (s.me.getV r) 32 j)

/-- VDADD. -/
def execVdadd (vd va : VReg) (b : SReg) (bs : Bool) (k : KReg) (z c : Bool) (s : State) : Out :=
  shipVec 0x00 6 64 condArith (fun j => fAdd s.rm fp64 s.ftz (laneD s va j) (laneB s b bs j)) vd va b bs k z c s
/-- VDSUB. -/
def execVdsub (vd va : VReg) (b : SReg) (bs : Bool) (k : KReg) (z c : Bool) (s : State) : Out :=
  shipVec 0x01 6 64 condArith (fun j => fAdd s.rm fp64 s.ftz (laneD s va j) (laneB s b bs j).negate) vd va b bs k z c s
/-- VDMUL. -/
def execVdmul (vd va : VReg) (b : SReg) (bs : Bool) (k : KReg) (z c : Bool) (s : State) : Out :=
  shipVec 0x02 6 64 condArith (fun j => fMul s.rm fp64 s.ftz (laneD s va j) (laneB s b bs j)) vd va b bs k z c s
/-- VDDIV. -/
def execVddiv (vd va : VReg) (b : SReg) (bs : Bool) (k : KReg) (z c : Bool) (s : State) : Out :=
  shipVec 0x03 24 64 condAll (fun j => fDiv s.rm fp64 s.ftz (laneD s va j) (laneB s b bs j)) vd va b bs k z c s
/-- VDSQRT. -/
def execVdsqrt (vd va : VReg) (k : KReg) (z c : Bool) (s : State) : Out :=
  shipVec 0x04 28 64 condRoot (fun j => fSqrt s.rm fp64 s.ftz (laneD s va j)) vd va 0 false k z c s
/-- VDFMA. -/
def execVdfma (vd va : VReg) (b : SReg) (k : KReg) (z c : Bool) (s : State) : Out :=
  shipVec 0x05 7 64 condArith (fun j => fFma s.rm fp64 s.ftz (laneD s va j) (laneB s b true j) (laneD s vd j)) vd va b true k z c s
/-- VDMIN. -/
def execVdmin (vd va : VReg) (b : SReg) (bs : Bool) (k : KReg) (z c : Bool) (s : State) : Out :=
  shipVec 0x06 4 64 condNV (fun j => fMinMax fp64 false s.ftz (vget (s.me.getV va) 64 j) (s.me.vb b bs 64 j)) vd va b bs k z c s
/-- VDMAX. -/
def execVdmax (vd va : VReg) (b : SReg) (bs : Bool) (k : KReg) (z c : Bool) (s : State) : Out :=
  shipVec 0x07 4 64 condNV (fun j => fMinMax fp64 true s.ftz (vget (s.me.getV va) 64 j) (s.me.vb b bs 64 j)) vd va b bs k z c s
/-- VDCVT.d.s: part p of the FP32 lanes (R246). -/
def execVdcvtDS (vd va : VReg) (p : Bool) (k : KReg) (z c : Bool) (s : State) : Out :=
  shipVec 0x08 6 64 condNV (fun j => fConvert .rne fp64 s.ftz (laneF s va (j + (if p then 8 else 0)))) vd va (if p then 1 else 0) false k z c s
/-- VDCVT.s.d: FP64 lane j to FP32 lane 8·p + j; the other part is never written (R246). -/
def execVdcvtSD (vd va : VReg) (p : Bool) (k : KReg) (z c : Bool) (s : State) : Out :=
  let pr := s.me.getK k
  let base := if p then 8 else 0
  let inPart := fun (i : Nat) => decide (base ≤ i) && decide (i < base + 8)
  let r := fun (j : Nat) => fConvert s.rm fp32 s.ftz (laneD s va j)
  let on := fun (i : Nat) => inPart i && pr.getLsbD (i - base)
  shipRun (vWord 0x32 vd.toNat va.toNat (if p then 1 else 0) false k 0x09 z c) 6 condArith (.v vd)
    (vpack 32 (fun i => if on i then (r (i - base)).bits else 0)) (elMask 32 (fun i => on i || (z && inPart i)))
    (((List.range 8).filter (fun j => pr.getLsbD j)).map (fun j => (2 ^ j, { bits := (r j).bits, cond := (r j).cond, sub := false }))) c s
/-- VFDIV. -/
def execVfdiv (vd va : VReg) (b : SReg) (bs : Bool) (k : KReg) (z c : Bool) (s : State) : Out :=
  shipVec 0x10 14 32 condAll (fun j => fDiv s.rm fp32 s.ftz (laneF s va j) (fp32.source s.ftz (s.me.vb b bs 32 j))) vd va b bs k z c s
/-- VFSQRT. -/
def execVfsqrt (vd va : VReg) (k : KReg) (z c : Bool) (s : State) : Out :=
  shipVec 0x11 16 32 condRoot (fun j => fSqrt s.rm fp32 s.ftz (laneF s va j)) vd va 0 false k z c s
/-- VFEXP2. -/
def execVfexp2 (vd va : VReg) (k : KReg) (z c : Bool) (s : State) : Out :=
  shipVec 0x12 12 32 condArith (fun j => tExp2 s.ftz (laneF s va j)) vd va 0 false k z c s
/-- VFLOG2. -/
def execVflog2 (vd va : VReg) (k : KReg) (z c : Bool) (s : State) : Out :=
  shipVec 0x13 14 32 condAll (fun j => tLog2 s.ftz (laneF s va j)) vd va 0 false k z c s
/-- VFSIN. -/
def execVfsin (vd va : VReg) (k : KReg) (z c : Bool) (s : State) : Out :=
  shipVec 0x14 20 32 condArith (fun j => tSin s.ftz (laneF s va j)) vd va 0 false k z c s
/-- VFCOS. -/
def execVfcos (vd va : VReg) (k : KReg) (z c : Bool) (s : State) : Out :=
  shipVec 0x15 20 32 condArith (fun j => tCos s.ftz (laneF s va j)) vd va 0 false k z c s
/-- VFTANH. -/
def execVftanh (vd va : VReg) (k : KReg) (z c : Bool) (s : State) : Out :=
  shipVec 0x16 18 32 condArith (fun j => tTanh s.ftz (laneF s va j)) vd va 0 false k z c s
/-- VFSIGM. -/
def execVfsigm (vd va : VReg) (k : KReg) (z c : Bool) (s : State) : Out :=
  shipVec 0x17 18 32 condArith (fun j => tSigm s.ftz (laneF s va j)) vd va 0 false k z c s
/-- VFRCP. -/
def execVfrcp (vd va : VReg) (k : KReg) (z c : Bool) (s : State) : Out :=
  shipVec 0x18 10 32 condAll (fun j => tRcp s.ftz (laneF s va j)) vd va 0 false k z c s
/-- VFRSQRT. -/
def execVfrsqrt (vd va : VReg) (k : KReg) (z c : Bool) (s : State) : Out :=
  shipVec 0x19 11 32 condAll (fun j => tRsqrt s.ftz (laneF s va j)) vd va 0 false k z c s

/-! ### Wide atomics at the sender (R247, R248) -/

/-- The word of a wide atomic. -/
def wideWord (t a : SReg) (seg : SegIx) (ord : BitVec 2) (op : Nat) (b : SReg) (c : Bool) : Word :=
  words (0x33 * 2 ^ 26 + t.toNat * 2 ^ 21 + a.toNat * 2 ^ 16 + seg.toNat * 2 ^ 13 + ord.toNat * 2 ^ 11 + op * 2 ^ 8 +
    b.toNat * 2 + (if c then 1 else 0)) 0
/-- The wide-atomic unit of a cluster holds all the wide atomics it can (R248). -/
def State.wideFull (s : State) (cl : Nat) : Bool := decide (4 ≤ (s.cluster cl).wide.length)
/-- A wide atomic: checked at issue, then shipped with its virtual address; a heavy strand gives it to its own core's unit, once that has a place. -/
def wideRun (w : Word) (op : WideOp) (size v cmp : Nat) (t a : SReg) (seg : SegIx) (ord : BitVec 2) (c : Bool) (s : State) : Out :=
  let m := s.me
  let g := m.getSeg seg
  s.gate w false vcoreKind
    (match segCheck m g true true (m.getS a) size size with
     | .bad cause addr => s.trap cause addr
     | .ok va =>
       if g.kind ≠ 1 then s.trap .segRights (m.getS a)
       else
         let dsts : List RegName := if size = 16 then [.s t, .s (t + 1)] else [.s t]
         let o : Op := { q := m.nextQ, pc := m.pc, what := .wide t op v cmp none, dsts := dsts, accs := [accessAt m g 0 va size 0], ord := ord,
                         kind := 1, stage := .unconfirmed, trappable := true, flags := m.flags, issued := s.cycle }
         let s0 := match s.leafOf m.port m.asid m.root va with
           | some l => s.recall m.sa (isPrivate true l.region) (l.addr va) size
           | none => s
         let s1 := s0.mod (fun x => { x with ops := x.ops ++ [o] }.retire 4 c)
         match m.kind with
         | .heavy =>
           if s.wideFull (saPkg m.sa) then .next s
           else .next ((s1.modCluster (saPkg m.sa) (fun x => { x with wide := x.wide ++
             [{ sa := m.sa, q := m.nextQ, prio := 0, entered := s.cycle, latency := 30, wide := true, net := 0 }] })).after 10
             (.wideAtomicTranslate (saPkg m.sa) m.sa m.nextQ))
         | _ => match s.shipTarget (saPkg m.sa) with
           | none => s.trap .shipUnavailable 0
           | some h =>
             let n := shipNet (saPkg m.sa) h
             .next (s1.sendGuest h { sa := m.sa, q := m.nextQ, prio := s.gprio m, entered := s.cycle + n, latency := 30, wide := true, net := n }))
/-- A register pair as a 128-bit value. -/
def Strand.pair (m : Strand) (r : SReg) : Nat := (m.getS r).toNat + (m.getS (r + 1)).toNat * 2 ^ 64
/-- WCAS128. -/
def execWcas128 (t a : SReg) (seg : SegIx) (ord : BitVec 2) (b : SReg) (c : Bool) (s : State) : Out :=
  wideRun (wideWord t a seg ord 0 b c) .cas128 16 (s.me.pair b) (s.me.pair t) t a seg ord c s
/-- WSWAP128. -/
def execWswap128 (t a : SReg) (seg : SegIx) (ord : BitVec 2) (b : SReg) (c : Bool) (s : State) : Out :=
  wideRun (wideWord t a seg ord 1 b c) .swap128 16 (s.me.pair b) 0 t a seg ord c s
/-- WAMOFADD. -/
def execWamofadd (t a : SReg) (seg : SegIx) (ord : BitVec 2) (b : SReg) (c : Bool) (s : State) : Out :=
  wideRun (wideWord t a seg ord 2 b c) .fadd 8 (s.me.getS b).toNat 0 t a seg ord c s
/-- WAMOMIN. -/
def execWamomin (t a : SReg) (seg : SegIx) (ord : BitVec 2) (b : SReg) (c : Bool) (s : State) : Out :=
  wideRun (wideWord t a seg ord 3 b c) .fmin 8 (s.me.getS b).toNat 0 t a seg ord c s
/-- WAMOMAX. -/
def execWamomax (t a : SReg) (seg : SegIx) (ord : BitVec 2) (b : SReg) (c : Bool) (s : State) : Out :=
  wideRun (wideWord t a seg ord 4 b c) .fmax 8 (s.me.getS b).toNat 0 t a seg ord c s

/-! ### The guest queue (R225 to R229, R231) -/

/-- A returned instruction goes to a serving core: it leaves the withdrawn one with STATUS 3, and its sender ships it again with the same values
(R231). -/
def State.resend (s : State) (h : Nat) (g : Guest) : State :=
  let n := shipNet (saPkg g.sa) h
  (s.modStrand g.sa (fun m => m.modOp g.q anyWhat (fun o => match o.what with
    | .ship d r => { o with what := .ship d { r with core := h } }
    | _ => o))).sendGuest h { g with entered := s.cycle + g.net + n, net := n }
/-- Packets in order of arrival; those of one cycle in the order in which they were sent (R227). -/
def byArrival : List Guest → List Guest
  | [] => []
  | g :: r =>
    let rest := byArrival r
    rest.takeWhile (fun x => decide (x.entered < g.entered)) ++ g :: rest.dropWhile (fun x => decide (x.entered < g.entered))
/-- The packets at the input of a cluster's guest queue: one of a cluster that this core no longer serves goes back to its sender, as its entries
have (R231, entry 20 of the log); of the others as many enter as have a place, in arrival order (R227). -/
def State.enterGuests (s : State) (cl : Nat) : State :=
  let x := s.cluster cl
  let here := byArrival (x.guestIn.filter (fun g => decide (g.entered ≤ s.cycle)))
  let away := here.filter (fun g => match s.shipTarget (saPkg g.sa) with | some h => h != cl | none => false)
  let mine := (here.filter (fun g => !away.contains g)).take (256 - x.guestQ.length)
  let s1 := s.modCluster cl (fun y => { y with
    guestIn := y.guestIn.filter (fun g => !away.contains g && !mine.contains g)
    guestQ := y.guestQ ++ mine.map (fun g => { g with entered := s.cycle }) })
  (away.foldl (fun t g => match t.shipTarget (saPkg g.sa) with | some h => t.resend h g | none => t) s1).pokeGuest cl 0
/-- GUEST_QUEUE_ENTRY. -/
def execGuestQueueEntry (cl : Nat) (s : State) : Out := .next (s.enterGuests cl)
/-- A guest cycle of GSHARE (R226). -/
def guestCycle (g : BitVec 5) (cycle : Nat) : Bool :=
  let p := cycle % 16
  decide (p * g.toNat / 16 < (p + 1) * g.toNat / 16)
/-- The priority an entry counts as: 0 after 1,024 cycles. -/
def Guest.rank (g : Guest) (cycle : Nat) : Nat := if g.entered + 1024 ≤ cycle then 0 else g.prio
/-- The head: the earliest-arrived entry of the lowest priority present (R227). -/
def guestHead (cycle : Nat) (q : List Guest) : Option Guest :=
  let ps := q.map (fun g => g.rank cycle)
  q.find? (fun g => ps.all (fun p => decide (g.rank cycle ≤ p)))
/-- The head issues at the heavy core in cycle `h`, unless it is a wide atomic and four are in progress (R227 to R229, R248). -/
def State.issueGuest (s : State) (cl h : Nat) : State :=
  let x := s.cluster cl
  let stopped := match x.blackout with | some b => decide (b < h) | none => false
  match guestHead h (x.guestQ.filter (fun g => decide (g.entered ≤ h))) with
  | none => s
  | some g =>
    if stopped || (g.wide && s.wideFull cl) then s
    else
      let s1 := s.modCluster cl (fun y => { y with
        guestQ := dropFirst (fun e => e.sa == g.sa && e.q == g.q) y.guestQ
        heavyFree := h + 1
        passed := if guestCycle y.gshare h then 15 else y.passed
        wide := if g.wide then y.wide ++ [g] else y.wide })
      (if g.wide then s1.atCycle (h + 10) (.wideAtomicTranslate cl g.sa g.q)
       else s1.atCycle (h + g.latency + g.net) (.shipResultReturn g.sa g.q)).enterGuests cl
/-- GUEST_ISSUE: the cycle before, if it was a local cycle that no strand took, then this cycle, if it is a guest cycle in which nothing has issued: one
instruction in a cycle (R226). -/
def execGuestIssue (cl : Nat) (s : State) : Out :=
  let x := s.cluster cl
  let s1 := if 0 < s.cycle ∧ guestCycle x.gshare (s.cycle - 1) = false ∧ x.heavyFree < s.cycle then s.issueGuest cl (s.cycle - 1) else s
  let s2 := if guestCycle x.gshare s.cycle ∧ (s1.cluster cl).heavyFree ≠ s.cycle + 1 then s1.issueGuest cl s.cycle else s1
  .next (s2.pokeGuest cl 1)

/-- TRAPINFO of a shipped trap (R74, R235). -/
def shipInfo (lanes : BitVec 16) (core : Nat) : BitVec 24 := BitVec.ofNat 24 (lanes.toNat * 256 + pcIndex core * 16 + pcDie core * 2 + 1)
/-- A return packet of a wide atomic: STATUS 4 confirms it, STATUS 2 becomes a held exception, and its result lands (R234, R235, R249). A heavy
strand's own wide atomic is not shipped, so its TRAPINFO is 0 (R74, R224, entry 66 of the log). -/
def wideReturn (sa : Nat) (o : Op) (s : State) : State :=
  match o.what with
  | .wide t _ _ _ (some (.old v)) =>
    if o.trappable then s.confirm sa o.q
    else (s.modStrand sa (fun x =>
      let y := x.landS o.q t (BitVec.ofNat 64 v)
      if o.dsts.length = 2 then y.landS o.q (t + 1) (BitVec.ofNat 64 (v / 2 ^ 64)) else y)).complete sa o.q anyWhat
  | .wide _ _ _ _ (some (.failed c va cl)) =>
    let info := match s.strand? sa with
      | some m => if m.kind == .heavy then 0 else shipInfo 1 cl
      | none => 0
    s.except sa { q := o.q, pc := o.pc, cause := c, addr := BitVec.ofNat 64 va, info := info, flags := o.flags }
  | .wide _ _ _ _ none => s.confirm sa o.q
  | _ => s
/-- SHIP_RESULT_RETURN: a result lands or is held; STATUS 1 becomes a held exception (R234, R235). -/
def execShipResultReturn (sa q : Nat) (s : State) : Out :=
  match s.strand? sa with
  | none => .next s
  | some m => match m.ops.find? (fun o => o.q == q && o.stage == .away) with
    | none => .next s
    | some o => match o.what with
      | .ship d r =>
        (match r.trap with
         | some t => .next (s.except sa { q := q, pc := o.pc, cause := t.1, addr := t.2, info := shipInfo r.lanes r.core, flags := o.flags })
         | none =>
           if m.olderTrap q then .next (s.modStrand sa (fun x => x.modOp q anyWhat (fun y => { y with stage := .held, trappable := false })))
           else .next ((s.modStrand sa (fun x => x.landShip o d r)).settle sa))
      | _ => .next (wideReturn sa o s)
/-- SQUASH_NOTICE: an entry still in the guest queue is removed and never issues (R235). -/
def execSquashNotice (cl sa q : Nat) (s : State) : Out :=
  let keep := fun (g : Guest) => !(g.sa == sa && g.q == q)
  .next ((s.modCluster cl (fun x => { x with guestQ := x.guestQ.filter keep, guestIn := x.guestIn.filter keep })).enterGuests cl)
/-- SHIP_MAP_CHANGE: the new entry is written; the withdrawn core returns the cluster's entries still in its guest queue, and each
sender ships them again to the new target; packets at the queue's input, or on their way to it, do so when they arrive (R231). -/
def execShipMapChange (cl : Nat) (entry : BitVec 8) (s : State) : Out :=
  let old := s.shipTarget cl
  let s1 : State := { s with shipMap := Tab.put s.shipMap cl entry }
  match old, s1.shipTarget cl with
  | some h, some h2 =>
    if h = h2 then .next s1
    else
      let mine := fun (g : Guest) => saPkg g.sa == cl
      let x := s1.cluster h
      let back := x.guestQ.filter mine
      let s2 := s1.modCluster h (fun y => { y with guestQ := y.guestQ.filter (fun g => !mine g) })
      .next ((back.foldl (fun t g => t.resend h2 g) s2).enterGuests h)
  | _, _ => .next s1

/-! ### The wide-atomic unit (R249, R250) -/

/-- The entry of a wide atomic in the unit of a cluster. -/
def State.wideEntry (s : State) (cl sa q : Nat) : Option Guest := (s.cluster cl).wide.find? (fun g => g.sa == sa && g.q == q)
/-- A wide atomic leaves the unit. -/
def State.leaveUnit (s : State) (cl sa q : Nat) : State :=
  s.modCluster cl (fun x => { x with wide := x.wide.filter (fun g => !(g.sa == sa && g.q == q)) })
/-- What the unit returns for a wide atomic. -/
def OpWhat.answer (w : OpWhat) (r : WideRes) : OpWhat := match w with | .wide t op v cmp _ => .wide t op v cmp (some r) | x => x
/-- WIDE_ATOMIC_TRANSLATE: at the serving cluster's port under its masks, 10 cycles after issue there; a miss walks while the sender waits; the
outcome reaches the sender N cycles later. -/
def execWideAtomicTranslate (cl sa q : Nat) (s : State) : Out :=
  match s.wideEntry cl sa q with
  | none => .next s
  | some g => match (s.strand? sa).bind (fun m => (m.ops.find? (fun o => o.q == q && o.stage == .unconfirmed)).map (fun o => (m, o))) with
    | none => .next (s.leaveUnit cl sa q)
    | some (m, o) =>
      match o.accs with
      | [] => .next s
      | a :: _ =>
        match s.xlate cl (.wide cl sa q) m.asid a.va true true with
        | .miss => .next (s.startWalk cl (.wide cl sa q) .atomic m.asid m.root a.va)
        | .fail c =>
          .next ((((s.modPort cl (fun p => p.forget (.wide cl sa q))).leaveUnit cl sa q).modStrand sa (fun x => x.modOp q anyWhat (fun y =>
            { y with what := y.what.answer (.failed c a.va cl), stage := .away }))).after g.net (.shipResultReturn sa q))
        | .hit l =>
          let a1 : Access := { a with loc := some (l.addr a.va), region := l.region }
          let s1 := (s.modPort cl (fun p => p.use m.asid a.va l)).modStrand sa (fun x => x.modOp q anyWhat (fun y => { y with
            accs := [a1], stage := .away }))
          let s2 := if o.ord = 3 then s1.announce sa q [(l.addr a.va, a.size)] else s1
          .next (((s2.after g.net (.shipResultReturn sa q)).after
            (20 + if Config.freeBool s.freeCtr then 0 else tierLatency (pcDie cl) (l.addr a.va) l.region (s.freeCtr + 1))
            (.wideAtomicPerform cl sa q)).bump 3)
/-- The new value of a wide atomic. -/
def WideOp.new (op : WideOp) (old v cmp : Nat) : Nat :=
  match op with
  | .cas128 => if old = cmp then v else old
  | .swap128 => v
  | .fadd => (fAdd .rne fp64 false (fp64.value old) (fp64.value v)).bits
  | .fmin => (fMinMax fp64 false false old v).bits
  | .fmax => (fMinMax fp64 true false old v).bits
/-- An SC wide atomic in the unit precedes another one's place in the SC total order. -/
def State.scEarlier (s : State) (sa q : Nat) (g : Guest) : Bool :=
  match s.scOp? sa q, s.scOp? g.sa g.q with
  | some x, some y => x.before y
  | _, _ => false
/-- A wide atomic that issued earlier at the unit is to the same line; one that is not translated yet is, if it may be (R249). An SC one does not wait
for an SC one that it precedes in the total order, nor for what issued behind that (R172, entry 73 of the log). -/
def State.wideBefore (s : State) (cl sa q : Nat) (a : Access) : Bool :=
  ((s.cluster cl).wide.takeWhile (fun g => !(g.sa == sa && g.q == q) && !s.scEarlier sa q g)).any (fun g => match s.strand? g.sa with
    | some x => x.ops.any (fun y => y.q == g.q && y.accs.any (fun z => match z.loc, a.loc with
        | some k, some l => k / 128 == l / 128
        | _, _ => z.va % 65536 / 128 == a.va % 65536 / 128))
    | none => false)
/-- WIDE_ATOMIC_PERFORM: the read and the write as one step, in the order of issue at the unit for one line, and behind what the strand's own
order asks for (R171, R172, R178); the old value is on its way to the sender. An SC one, shipped at its issue and announced at the unit, is held there
until its place Tr and then performed without further latency (DESIGN CHOICE, entry 73 of the log). -/
def execWideAtomicPerform (cl sa q : Nat) (s : State) : Out :=
  match s.wideEntry cl sa q, s.strand? sa with
  | some g, some m => match m.ops.find? (fun o => o.q == q && o.stage == .away) with
    | none => .next (s.leaveUnit cl sa q)
    | some o => match o.what, o.accs with
      | .wide _ op v cmp _, a :: _ =>
        let l := a.loc.getD 0
        let early := match s.scOp? sa q with | some x => decide (s.cycle < releaseTime x.window) | none => false
        if s.scHeld sa q || s.wideBefore cl sa q a || early || (m.older q OpWhat.mem && decide (2 ≤ o.ord.toNat)) || m.older q (· == .marker) ||
            m.ops.any (fun x => decide (x.q < q) && x.what.mem && x.shares o) then .next (s.after 1 (.wideAtomicPerform cl sa q))
        else
          let b := (s.recall sa (isPrivate true a.region) l a.size).bindAccess m q 0 l a true
          let s1 := (b.2.writeBelow sa (isPrivate true a.region) l a.size (op.new b.1 v cmp)).watchSet [(l, a.size)] a.size true true a.region .slice
            (pcDie cl) 1 (watchLoc sa) g.net
          let s2 := (s1.checkStore m 1 [(l, a.size)]).leaveUnit cl sa q
          let s3 := s2.modStrand sa (fun x => x.modOp q anyWhat (fun y => { y with what := y.what.answer (.old b.1) }))
          .next (({ s3 with scOps := s3.scOps.filter (fun x => !(x.sa == sa && x.q == q)) } : State).after g.net (.shipResultReturn sa q))
      | _, _ => .next s
  | _, _ => .next s

end Sys2Proof.Machine
end

