-- ==== Sys2Proof/Machine/Turn.lean ====
section
/-! DEFINITION. The row TURN: what a turn adds to the slot census, the order in which turns fall, and the end of a cycle (R65,
R72, R226, R273, R338, R349). -/

namespace Sys2Proof.Machine

/-- A turn counted in a class (R72). -/
def Census.count (n : Census) : Cls → Census
  | .issued => { n with issued := n.issued + 1 }
  | .vacant => { n with vacant := n.vacant + 1 }
  | .xlate => { n with xlate := n.xlate + 1 }
  | .msg => { n with msg := n.msg + 1 }
  | .ship => { n with ship := n.ship + 1 }
  | .mem => { n with mem := n.mem + 1 }
/-- The current strand's turn adds 1 to exactly one counter of its slot, where it was a turn. -/
def State.countTurn (s : State) : State :=
  match s.verdict with
  | none => s
  | some c => { s.mod (fun m => { m with census := m.census.count c }) with verdict := none }

/-- The place of a strand's turn in a cycle: heavy strands are tried in round-robin order (R226). -/
def State.turnKey (s : State) (m : Strand) : Nat :=
  m.sa / 32 * 32 + (match m.kind with
    | .heavy => (saSlot m.sa + 4 - (s.cluster (saPkg m.sa)).rr % 4) % 4
    | _ => saSlot m.sa)
/-- The strand has a turn in a cycle, or is offered it (R65, R226, R338). -/
def Strand.dueAt (m : Strand) (cycle : Nat) : Bool :=
  match m.kind with
  | .lean => decide (m.width ≠ 0) && cycle % m.width == saSlot m.sa
  | .sm => cycle % 32 == saSlot m.sa
  | .heavy => true
/-- Of two strands, the one whose turn comes first. -/
def State.earlier (s : State) (a b : Option Strand) : Option Strand :=
  match a, b with
  | some x, some y => if s.turnKey y < s.turnKey x then some y else some x
  | some x, none => some x
  | none, y => y
/-- The first of some strands. -/
def State.firstOf (s : State) (l : List Strand) : Option Strand := l.foldl (fun x m => s.earlier x (some m)) none
/-- The strand whose turn follows the current one's in this cycle. -/
def State.nextDue (s : State) : Option Strand :=
  s.firstOf ((s.others.map (·.2)).filter (fun m => m.dueAt s.cycle && decide (s.turnKey s.me < s.turnKey m)))
/-- The turn passes to a strand. -/
def State.focus (s : State) (m : Strand) : State :=
  { s with others := Tab.del (Tab.put s.others s.me.sa s.me) m.sa, me := m }

/-- The ready strands found in a cycle go into the histogram (R72). -/
def Cluster.countReady (x : Cluster) : Cluster :=
  { x with
    hist := (x.ready.filter (fun r => decide (0 < r.2))).foldl (fun h r =>
      Tab.put h (17 * r.1 + r.2) (Tab.getD h (17 * r.1 + r.2) 0 + 1)) x.hist
    ready := [] }
/-- A cycle of the heavy core that was not offered to some local strands (R72, R226). -/
def Cluster.countPassed (x : Cluster) : Cluster :=
  { x with
    unoffered := (List.range 4).foldl (fun t i => if x.passed.getLsbD i then Tab.put t i (Tab.getD t i 0 + 1) else t) x.unoffered
    passed := 0 }
/-- A power or heat alarm that is due is set (R393). -/
def Cluster.ringAlarm (cycle : Nat) (x : Cluster) : Cluster :=
  match x.alarmAt with
  | some c => if c ≤ cycle then { x with alarm := true, alarmAt := none } else x
  | none => x
/-- The heavy mirror of a strand in its die's control page (R349). -/
def mirrorLoc (sa : Nat) : Nat := dieLoc (saDie sa) (0x1FF1000 + 32 * saCluster sa + 8 * saSlot sa)
/-- MSTAT[47:32] of every heavy strand is refreshed. -/
def State.refreshMirror (s : State) : State :=
  (s.strands.filter (fun m => m.kind == .heavy)).foldl (fun t m =>
    t.write (mirrorLoc m.sa) 8 ((mstatOf s m).toNat / 2 ^ 32 % 2 ^ 16)) s
/-- The end of a cycle: the histogram, the alarms, the mirror, the quiescence monitors and troupes that are complete; then
the first strand of the next cycle has its turn. -/
def State.endCycle (s0 : State) : State :=
  let s := s0.evictions
  let s1 : State := { s with clusters := s.clusters.map (fun x => (x.1, ((x.2.countReady).countPassed).ringAlarm (s.cycle + 1))) }
  let s2 := s1.refreshMirror
  let s3 := s2.troupes.foldl (fun t x => (t.countQuiet x.1).checkEnd x.1) s2
  let s4 : State := { s3 with cycle := s.cycle + 1, turnsOver := false }
  match s4.firstOf (s4.strands.filter (fun m => m.dueAt s4.cycle)) with
  | some m => if m.sa = s4.me.sa then s4 else s4.focus m
  | none => match s4.firstOf s4.strands with
    | some m => if m.sa = s4.me.sa then s4 else s4.focus m
    | none => s4
/-- TURN: the turn of the current strand ends; after the last turn of a cycle, and the events that the cycle still brings, the cycle
ends. -/
def execTurn (s : State) : Out :=
  if s.turnsOver then .next s.endCycle
  else
    let s1 := s.countTurn
    match s1.nextDue with
    | some m => .next (s1.focus m)
    | none => .next { s1 with turnsOver := true }

end Sys2Proof.Machine
end

