-- ==== Sys2Proof/Machine/Dispatch.lean ====
section
/-! DEFINITION. One arm per constructor: the meaning of every instruction and event. -/

namespace Sys2Proof.Machine

def exec (i : Instr) (s : State) : Host.Outcome State Fault Refusal :=
  match i with
  | .translationConfirm sa q => Sys2Proof.Machine.execTranslationConfirm sa q s
  | .walkEnd port walk => Sys2Proof.Machine.execWalkEnd port walk s
  | .faultServiceRetry die req => Sys2Proof.Machine.execFaultServiceRetry die req s
  | .faultServiceDecline die req => Sys2Proof.Machine.execFaultServiceDecline die req s
  | .reissue sa => Sys2Proof.Machine.execReissue sa s
  | .loadDataReturn sa q => Sys2Proof.Machine.execLoadDataReturn sa q s
  | .storeQueueDrain sa => Sys2Proof.Machine.execStoreQueueDrain sa s
  | .storePerformed sa q => Sys2Proof.Machine.execStorePerformed sa q s
  | .atomicAtController sa q => Sys2Proof.Machine.execAtomicAtController sa q s
  | .releaseMarkerLeave sa q => Sys2Proof.Machine.execReleaseMarkerLeave sa q s
  | .scReleaseTime sa q => Sys2Proof.Machine.execScReleaseTime sa q s
  | .scHeldAccessPerform sa q => Sys2Proof.Machine.execScHeldAccessPerform sa q s
  | .trapDelivery sa => Sys2Proof.Machine.execTrapDelivery sa s
  | .asyncTrapDelivery sa => Sys2Proof.Machine.execAsyncTrapDelivery sa s
  | .fatalReport tr => Sys2Proof.Machine.execFatalReport tr s
  | .coreDump tr => Sys2Proof.Machine.execCoreDump tr s
  | .coreDumpEnd tr => Sys2Proof.Machine.execCoreDumpEnd tr s
  | .guestQueueEntry cl => Sys2Proof.Machine.execGuestQueueEntry cl s
  | .guestIssue cl => Sys2Proof.Machine.execGuestIssue cl s
  | .shipResultReturn sa q => Sys2Proof.Machine.execShipResultReturn sa q s
  | .squashNotice cl sa q => Sys2Proof.Machine.execSquashNotice cl sa q s
  | .shipMapChange cl entry => Sys2Proof.Machine.execShipMapChange cl entry s
  | .wideAtomicTranslate cl sa q => Sys2Proof.Machine.execWideAtomicTranslate cl sa q s
  | .wideAtomicPerform cl sa q => Sys2Proof.Machine.execWideAtomicPerform cl sa q s
  | .channelEntryArrival tr dst port vec data => Sys2Proof.Machine.execChannelEntryArrival tr dst port vec data s
  | .creditReturn tr vcid port => Sys2Proof.Machine.execCreditReturn tr vcid port s
  | .inboxMessageArrival tr dst msg => Sys2Proof.Machine.execInboxMessageArrival tr dst msg s
  | .spillReadback tr vcid => Sys2Proof.Machine.execSpillReadback tr vcid s
  | .barrierArrival tr bar vcid => Sys2Proof.Machine.execBarrierArrival tr bar vcid s
  | .genUpdateArrival tr bar cl gen => Sys2Proof.Machine.execGenUpdateArrival tr bar cl gen s
  | .barArriveResult sa q => Sys2Proof.Machine.execBarArriveResult sa q s
  | .quiescenceCountExpiry tr => Sys2Proof.Machine.execQuiescenceCountExpiry tr s
  | .troupeQuiescent tr => Sys2Proof.Machine.execTroupeQuiescent tr s
  | .quiescenceReoffer tr => Sys2Proof.Machine.execQuiescenceReoffer tr s
  | .wakeArrival tr vcid => Sys2Proof.Machine.execWakeArrival tr vcid s
  | .parkDeadline sa => Sys2Proof.Machine.execParkDeadline sa s
  | .slotswapArrival issuer q => Sys2Proof.Machine.execSlotswapArrival issuer q s
  | .contextSave sa => Sys2Proof.Machine.execContextSave sa s
  | .contextRestore sa => Sys2Proof.Machine.execContextRestore sa s
  | .scratchpadCopy tr vcid core => Sys2Proof.Machine.execScratchpadCopy tr vcid core s
  | .scratchpadClearEnd core => Sys2Proof.Machine.execScratchpadClearEnd core s
  | .matrixQueueEntry sa q => Sys2Proof.Machine.execMatrixQueueEntry sa q s
  | .sequencerStart cl => Sys2Proof.Machine.execSequencerStart cl s
  | .matrixRetire cl => Sys2Proof.Machine.execMatrixRetire cl s
  | .maccstWalkEnd cl => Sys2Proof.Machine.execMaccstWalkEnd cl s
  | .ringSlotWriteResume sa q => Sys2Proof.Machine.execRingSlotWriteResume sa q s
  | .commandStart die eng => Sys2Proof.Machine.execCommandStart die eng s
  | .copyWalkEnd die eng => Sys2Proof.Machine.execCopyWalkEnd die eng s
  | .ringReservation die eng => Sys2Proof.Machine.execRingReservation die eng s
  | .cpyringTailAdvance die eng => Sys2Proof.Machine.execCpyringTailAdvance die eng s
  | .copyCompletion die eng => Sys2Proof.Machine.execCopyCompletion die eng s
  | .remoteFlitArrival src off put data => Sys2Proof.Machine.execRemoteFlitArrival src off put data s
  | .remoteFlitAck die eng flit ok data => Sys2Proof.Machine.execRemoteFlitAck die eng flit ok data s
  | .linkDown link => Sys2Proof.Machine.execLinkDown link s
  | .linkTrain up => Sys2Proof.Machine.execLinkTrain up s
  | .spawnAtOrigin tr => Sys2Proof.Machine.execSpawnAtOrigin tr s
  | .tspawnIdReturn sa q => Sys2Proof.Machine.execTspawnIdReturn sa q s
  | .taskAccept tr id => Sys2Proof.Machine.execTaskAccept tr id s
  | .taskRefill tr unit => Sys2Proof.Machine.execTaskRefill tr unit s
  | .taskDispatch tr unit => Sys2Proof.Machine.execTaskDispatch tr unit s
  | .frontierSample tr => Sys2Proof.Machine.execFrontierSample tr s
  | .frontierPublish tr => Sys2Proof.Machine.execFrontierPublish tr s
  | .taskCommit tr => Sys2Proof.Machine.execTaskCommit tr s
  | .commitPassEnd tr => Sys2Proof.Machine.execCommitPassEnd tr s
  | .nonspecNotice tr id => Sys2Proof.Machine.execNonspecNotice tr id s
  | .abortNotice tr id remove => Sys2Proof.Machine.execAbortNotice tr id remove s
  | .irrevocableCommit tr id => Sys2Proof.Machine.execIrrevocableCommit tr id s
  | .irrevocableStoreCheck tr id t unit granule => Sys2Proof.Machine.execIrrevocableStoreCheck tr id t unit granule s
  | .workersResume tr => Sys2Proof.Machine.execWorkersResume tr s
  | .translationEnd die key => Sys2Proof.Machine.execTranslationEnd die key s
  | .templateReload die => Sys2Proof.Machine.execTemplateReload die s
  | .tlbinvPortArrival port form va space => Sys2Proof.Machine.execTlbinvPortArrival port form va space s
  | .arrivalWrite qn w => Sys2Proof.Machine.execArrivalWrite qn w s
  | .boardInsertion qn => Sys2Proof.Machine.execBoardInsertion qn s
  | .waitPacketPoll sa => Sys2Proof.Machine.execWaitPacketPoll sa s
  | .placementRetry => Sys2Proof.Machine.execPlacementRetry s
  | .troupeRelease tr => Sys2Proof.Machine.execTroupeRelease tr s
  | .thermalSample cl core temp => Sys2Proof.Machine.execThermalSample cl core temp s
  | .powerSample milliwatts => Sys2Proof.Machine.execPowerSample milliwatts s
  | .heavyThermalSample cl temp => Sys2Proof.Machine.execHeavyThermalSample cl temp s
  | .dieThermalTrip die => Sys2Proof.Machine.execDieThermalTrip die s
  | .powerGood => Sys2Proof.Machine.execPowerGood s
  | .stageB => Sys2Proof.Machine.execStageB s
  | .stageC => Sys2Proof.Machine.execStageC s
  | .updateUtimeExpiry => Sys2Proof.Machine.execUpdateUtimeExpiry s
  | .correctedError cls => Sys2Proof.Machine.execCorrectedError cls s
  | .uncorrectableError cls site => Sys2Proof.Machine.execUncorrectableError cls site s
  | .patrolScrub => Sys2Proof.Machine.execPatrolScrub s
  | .hostPortAccess write off data => Sys2Proof.Machine.execHostPortAccess write off data s
  | .watchpointReport die => Sys2Proof.Machine.execWatchpointReport die s
  | .stop cl core slot => Sys2Proof.Machine.execStop cl core slot s
  | .stopComplete sa => Sys2Proof.Machine.execStopComplete sa s
  | .resume cl core slot freeze => Sys2Proof.Machine.execResume cl core slot freeze s
  | .step cl core slot freeze => Sys2Proof.Machine.execStep cl core slot freeze s
  | .steptrap cl core slot => Sys2Proof.Machine.execSteptrap cl core slot s
  | .blackout cl => Sys2Proof.Machine.execBlackout cl s
  | .claim cl core slot => Sys2Proof.Machine.execClaim cl core slot s
  | .unclaim cl core slot => Sys2Proof.Machine.execUnclaim cl core slot s
  | .clrhist cl core => Sys2Proof.Machine.execClrhist cl core s
  | .coldReset => Sys2Proof.Machine.execColdReset s
  | .firmwareUpdate => Sys2Proof.Machine.execFirmwareUpdate s
  | .installUpload => Sys2Proof.Machine.execInstallUpload s
  | .queueEnable => Sys2Proof.Machine.execQueueEnable s
  | .queueDisable => Sys2Proof.Machine.execQueueDisable s
  | .mqdataWrite data => Sys2Proof.Machine.execMqdataWrite data s
  | .systemObjectPlace => Sys2Proof.Machine.execSystemObjectPlace s
  | .attestationRequest => Sys2Proof.Machine.execAttestationRequest s
  | .registerWrite off data => Sys2Proof.Machine.execRegisterWrite off data s
  | .turn => Sys2Proof.Machine.execTurn s
  | .tlbinvCompletion sa q => Sys2Proof.Machine.execTlbinvCompletion sa q s
  | .barStatResult sa q => Sys2Proof.Machine.execBarStatResult sa q s
  | .codesyncCompletion sa q => Sys2Proof.Machine.execCodesyncCompletion sa q s
  | .xlatinvCompletion sa q => Sys2Proof.Machine.execXlatinvCompletion sa q s
  | .contextTransferResult sa q => Sys2Proof.Machine.execContextTransferResult sa q s
  | .slotswapStatus issuer q => Sys2Proof.Machine.execSlotswapStatus issuer q s
  | .watchArmResult sa q => Sys2Proof.Machine.execWatchArmResult sa q s
  | .instructionMemoryRefetch sa => Sys2Proof.Machine.execInstructionMemoryRefetch sa s
  | .ill c => Sys2Proof.Machine.execIll c s
  | .add d a b c => Sys2Proof.Machine.execAdd d a b c s
  | .sub d a b c => Sys2Proof.Machine.execSub d a b c s
  | .mul d a b c => Sys2Proof.Machine.execMul d a b c s
  | .mulh d a b c => Sys2Proof.Machine.execMulh d a b c s
  | .mulhn d a b c => Sys2Proof.Machine.execMulhn d a b c s
  | .div d a b c => Sys2Proof.Machine.execDiv d a b c s
  | .divn d a b c => Sys2Proof.Machine.execDivn d a b c s
  | .rem d a b c => Sys2Proof.Machine.execRem d a b c s
  | .remn d a b c => Sys2Proof.Machine.execRemn d a b c s
  | .and d a b c => Sys2Proof.Machine.execAnd d a b c s
  | .or d a b c => Sys2Proof.Machine.execOr d a b c s
  | .xor d a b c => Sys2Proof.Machine.execXor d a b c s
  | .andn d a b c => Sys2Proof.Machine.execAndn d a b c s
  | .orn d a b c => Sys2Proof.Machine.execOrn d a b c s
  | .sll d a b c => Sys2Proof.Machine.execSll d a b c s
  | .srl d a b c => Sys2Proof.Machine.execSrl d a b c s
  | .sra d a b c => Sys2Proof.Machine.execSra d a b c s
  | .rol d a b c => Sys2Proof.Machine.execRol d a b c s
  | .ror d a b c => Sys2Proof.Machine.execRor d a b c s
  | .min d a b c => Sys2Proof.Machine.execMin d a b c s
  | .max d a b c => Sys2Proof.Machine.execMax d a b c s
  | .minn d a b c => Sys2Proof.Machine.execMinn d a b c s
  | .maxn d a b c => Sys2Proof.Machine.execMaxn d a b c s
  | .slt d a b c => Sys2Proof.Machine.execSlt d a b c s
  | .sltn d a b c => Sys2Proof.Machine.execSltn d a b c s
  | .seq d a b c => Sys2Proof.Machine.execSeq d a b c s
  | .sne d a b c => Sys2Proof.Machine.execSne d a b c s
  | .clz d a c => Sys2Proof.Machine.execClz d a c s
  | .ctz d a c => Sys2Proof.Machine.execCtz d a c s
  | .popc d a c => Sys2Proof.Machine.execPopc d a c s
  | .brev d a c => Sys2Proof.Machine.execBrev d a c s
  | .bswap d a c => Sys2Proof.Machine.execBswap d a c s
  | .ext d a b c => Sys2Proof.Machine.execExt d a b c s
  | .extn d a b c => Sys2Proof.Machine.execExtn d a b c s
  | .dep d a b c => Sys2Proof.Machine.execDep d a b c s
  | .sel d a b c => Sys2Proof.Machine.execSel d a b c s
  | .addi d a im c => Sys2Proof.Machine.execAddi d a im c s
  | .andi d a im c => Sys2Proof.Machine.execAndi d a im c s
  | .ori d a im c => Sys2Proof.Machine.execOri d a im c s
  | .xori d a im c => Sys2Proof.Machine.execXori d a im c s
  | .slli d a sh c => Sys2Proof.Machine.execSlli d a sh c s
  | .srli d a sh c => Sys2Proof.Machine.execSrli d a sh c s
  | .srai d a sh c => Sys2Proof.Machine.execSrai d a sh c s
  | .slti d a im c => Sys2Proof.Machine.execSlti d a im c s
  | .sltni d a im c => Sys2Proof.Machine.execSltni d a im c s
  | .muli d a im c => Sys2Proof.Machine.execMuli d a im c s
  | .lui d a im c => Sys2Proof.Machine.execLui d a im c s
  | .li d imm c => Sys2Proof.Machine.execLi d imm c s
  | .lea d a b sh c => Sys2Proof.Machine.execLea d a b sh c s
  | .addx d a b sh c => Sys2Proof.Machine.execAddx d a b sh c s
  | .beq a b im c => Sys2Proof.Machine.execBeq a b im c s
  | .bne a b im c => Sys2Proof.Machine.execBne a b im c s
  | .blt a b im c => Sys2Proof.Machine.execBlt a b im c s
  | .bge a b im c => Sys2Proof.Machine.execBge a b im c s
  | .bltn a b im c => Sys2Proof.Machine.execBltn a b im c s
  | .bgen a b im c => Sys2Proof.Machine.execBgen a b im c s
  | .jmp im c => Sys2Proof.Machine.execJmp im c s
  | .call im c => Sys2Proof.Machine.execCall im c s
  | .jr a c => Sys2Proof.Machine.execJr a c s
  | .callr a c => Sys2Proof.Machine.execCallr a c s
  | .dbnz a im c => Sys2Proof.Machine.execDbnz a im c s
  | .getsr d n c => Sys2Proof.Machine.execGetsr d n c s
  | .setsr a n c => Sys2Proof.Machine.execSetsr a n c s
  | .nop c => Sys2Proof.Machine.execNop c s
  | .pause n c => Sys2Proof.Machine.execPause n c s
  | .fadd d a b f r c => Sys2Proof.Machine.execFadd d a b f r c s
  | .fsub d a b f r c => Sys2Proof.Machine.execFsub d a b f r c s
  | .fmul d a b f r c => Sys2Proof.Machine.execFmul d a b f r c s
  | .fmin d a b f c => Sys2Proof.Machine.execFmin d a b f c s
  | .fmax d a b f c => Sys2Proof.Machine.execFmax d a b f c s
  | .fabs d a f c => Sys2Proof.Machine.execFabs d a f c s
  | .fneg d a f c => Sys2Proof.Machine.execFneg d a f c s
  | .fsgnj d a b f c => Sys2Proof.Machine.execFsgnj d a b f c s
  | .feq d a b f c => Sys2Proof.Machine.execFeq d a b f c s
  | .flt d a b f c => Sys2Proof.Machine.execFlt d a b f c s
  | .fle d a b f c => Sys2Proof.Machine.execFle d a b f c s
  | .fclass d a f c => Sys2Proof.Machine.execFclass d a f c s
  | .frcpe d a f c => Sys2Proof.Machine.execFrcpe d a f c s
  | .frsqe d a f c => Sys2Proof.Machine.execFrsqe d a f c s
  | .fmadd d a b f r c => Sys2Proof.Machine.execFmadd d a b f r c s
  | .fmsub d a b f r c => Sys2Proof.Machine.execFmsub d a b f r c s
  | .fnmadd d a b f r c => Sys2Proof.Machine.execFnmadd d a b f r c s
  | .fnmsub d a b f r c => Sys2Proof.Machine.execFnmsub d a b f r c s
  | .fcvt d a m r c => Sys2Proof.Machine.execFcvt d a m r c s
  | .ld t a seg ord w im c => Sys2Proof.Machine.execLd t a seg ord w im c s
  | .st t a seg ord w im c => Sys2Proof.Machine.execSt t a seg ord w im c s
  | .amoadd t a seg ord sz b c => Sys2Proof.Machine.execAmoadd t a seg ord sz b c s
  | .amoswap t a seg ord sz b c => Sys2Proof.Machine.execAmoswap t a seg ord sz b c s
  | .amocas t a seg ord sz b c => Sys2Proof.Machine.execAmocas t a seg ord sz b c s
  | .amoand t a seg ord sz b c => Sys2Proof.Machine.execAmoand t a seg ord sz b c s
  | .amoor t a seg ord sz b c => Sys2Proof.Machine.execAmoor t a seg ord sz b c s
  | .amoxor t a seg ord sz b c => Sys2Proof.Machine.execAmoxor t a seg ord sz b c s
  | .amomin t a seg ord sz b c => Sys2Proof.Machine.execAmomin t a seg ord sz b c s
  | .amomax t a seg ord sz b c => Sys2Proof.Machine.execAmomax t a seg ord sz b c s
  | .amominn t a seg ord sz b c => Sys2Proof.Machine.execAmominn t a seg ord sz b c s
  | .amomaxn t a seg ord sz b c => Sys2Proof.Machine.execAmomaxn t a seg ord sz b c s
  | .amofadd t a seg ord b c => Sys2Proof.Machine.execAmofadd t a seg ord b c s
  | .fence p k c => Sys2Proof.Machine.execFence p k c s
  | .pref l a seg im c => Sys2Proof.Machine.execPref l a seg im c s
  | .flushl a seg im c => Sys2Proof.Machine.execFlushl a seg im c s
  | .invl a seg im c => Sys2Proof.Machine.execInvl a seg im c s
  | .send a n c => Sys2Proof.Machine.execSend a n c s
  | .sendv va n c => Sys2Proof.Machine.execSendv va n c s
  | .recv d n c => Sys2Proof.Machine.execRecv d n c s
  | .recvv vd n c => Sys2Proof.Machine.execRecvv vd n c s
  | .tryrecv d a n c => Sys2Proof.Machine.execTryrecv d a n c s
  | .chstatIn d n c => Sys2Proof.Machine.execChstatIn d n c s
  | .chstatOut d n c => Sys2Proof.Machine.execChstatOut d n c s
  | .barArrive d n sh c => Sys2Proof.Machine.execBarArrive d n sh c s
  | .barWait d a n sh c => Sys2Proof.Machine.execBarWait d a n sh c s
  | .barSync d n sh c => Sys2Proof.Machine.execBarSync d n sh c s
  | .barStat d n c => Sys2Proof.Machine.execBarStat d n c s
  | .inboxWait d c => Sys2Proof.Machine.execInboxWait d c s
  | .inboxPoll d c => Sys2Proof.Machine.execInboxPoll d c s
  | .cpy d a b tag expl eng sseg dseg c => Sys2Proof.Machine.execCpy d a b tag expl eng sseg dseg c s
  | .cpy2d d a b tag expl eng sseg dseg c => Sys2Proof.Machine.execCpy2d d a b tag expl eng sseg dseg c s
  | .cpyg d a b tag expl eng e sseg dseg c => Sys2Proof.Machine.execCpyg d a b tag expl eng e sseg dseg c s
  | .cpys d a b tag expl eng e sseg dseg c => Sys2Proof.Machine.execCpys d a b tag expl eng e sseg dseg c s
  | .cpyred d a b tag expl eng ty sseg dseg c => Sys2Proof.Machine.execCpyred d a b tag expl eng ty sseg dseg c s
  | .cpyring d a b tag expl eng sseg dseg c => Sys2Proof.Machine.execCpyring d a b tag expl eng sseg dseg c s
  | .cpyfill d a b tag expl eng lg dseg c => Sys2Proof.Machine.execCpyfill d a b tag expl eng lg dseg c s
  | .cpyrem d a b tag expl eng get sseg dseg c => Sys2Proof.Machine.execCpyrem d a b tag expl eng get sseg dseg c s
  | .tspawn d a b n entry c => Sys2Proof.Machine.execTspawn d a b n entry c s
  | .tdone c => Sys2Proof.Machine.execTdone c s
  | .ttsPoll d a c => Sys2Proof.Machine.execTtsPoll d a c s
  | .ttsWait a c => Sys2Proof.Machine.execTtsWait a c s
  | .tkey d which c => Sys2Proof.Machine.execTkey d which c s
  | .tirrev c => Sys2Proof.Machine.execTirrev c s
  | .vadd vd va b bs k w z c => Sys2Proof.Machine.execVadd vd va b bs k w z c s
  | .vsub vd va b bs k w z c => Sys2Proof.Machine.execVsub vd va b bs k w z c s
  | .vmul vd va b bs k w z c => Sys2Proof.Machine.execVmul vd va b bs k w z c s
  | .vaddsI vd va b bs k w z c => Sys2Proof.Machine.execVaddsI vd va b bs k w z c s
  | .vaddsN vd va b bs k w z c => Sys2Proof.Machine.execVaddsN vd va b bs k w z c s
  | .vsubsI vd va b bs k w z c => Sys2Proof.Machine.execVsubsI vd va b bs k w z c s
  | .vsubsN vd va b bs k w z c => Sys2Proof.Machine.execVsubsN vd va b bs k w z c s
  | .vminI vd va b bs k w z c => Sys2Proof.Machine.execVminI vd va b bs k w z c s
  | .vminN vd va b bs k w z c => Sys2Proof.Machine.execVminN vd va b bs k w z c s
  | .vmaxI vd va b bs k w z c => Sys2Proof.Machine.execVmaxI vd va b bs k w z c s
  | .vmaxN vd va b bs k w z c => Sys2Proof.Machine.execVmaxN vd va b bs k w z c s
  | .vand vd va b bs k w z c => Sys2Proof.Machine.execVand vd va b bs k w z c s
  | .vor vd va b bs k w z c => Sys2Proof.Machine.execVor vd va b bs k w z c s
  | .vxor vd va b bs k w z c => Sys2Proof.Machine.execVxor vd va b bs k w z c s
  | .vandn vd va b bs k w z c => Sys2Proof.Machine.execVandn vd va b bs k w z c s
  | .vsll vd va b bs k w z c => Sys2Proof.Machine.execVsll vd va b bs k w z c s
  | .vsrl vd va b bs k w z c => Sys2Proof.Machine.execVsrl vd va b bs k w z c s
  | .vsra vd va b bs k w z c => Sys2Proof.Machine.execVsra vd va b bs k w z c s
  | .vcmpeqB32 kd va b bs k z c => Sys2Proof.Machine.execVcmpeqB32 kd va b bs k z c s
  | .vcmpltI32 kd va b bs k z c => Sys2Proof.Machine.execVcmpltI32 kd va b bs k z c s
  | .vcmpltN32 kd va b bs k z c => Sys2Proof.Machine.execVcmpltN32 kd va b bs k z c s
  | .vabss vd va k w z c => Sys2Proof.Machine.execVabss vd va k w z c s
  | .vaddFp vd va b bs k f z c => Sys2Proof.Machine.execVaddFp vd va b bs k f z c s
  | .vsubFp vd va b bs k f z c => Sys2Proof.Machine.execVsubFp vd va b bs k f z c s
  | .vmulFp vd va b bs k f z c => Sys2Proof.Machine.execVmulFp vd va b bs k f z c s
  | .vminFp vd va b bs k f z c => Sys2Proof.Machine.execVminFp vd va b bs k f z c s
  | .vmaxFp vd va b bs k f z c => Sys2Proof.Machine.execVmaxFp vd va b bs k f z c s
  | .vabs vd va k f z c => Sys2Proof.Machine.execVabs vd va k f z c s
  | .vneg vd va k f z c => Sys2Proof.Machine.execVneg vd va k f z c s
  | .vsgnj vd va b bs k f z c => Sys2Proof.Machine.execVsgnj vd va b bs k f z c s
  | .vcmpeqS kd va b bs k z c => Sys2Proof.Machine.execVcmpeqS kd va b bs k z c s
  | .vcmpltS kd va b bs k z c => Sys2Proof.Machine.execVcmpltS kd va b bs k z c s
  | .vcmpleS kd va b bs k z c => Sys2Proof.Machine.execVcmpleS kd va b bs k z c s
  | .vmadd vd va b bs k f z c => Sys2Proof.Machine.execVmadd vd va b bs k f z c s
  | .vmsub vd va b bs k f z c => Sys2Proof.Machine.execVmsub vd va b bs k f z c s
  | .vnmadd vd va b bs k f z c => Sys2Proof.Machine.execVnmadd vd va b bs k f z c s
  | .vnmsub vd va b bs k f z c => Sys2Proof.Machine.execVnmsub vd va b bs k f z c s
  | .vcvt vd va p k m z c => Sys2Proof.Machine.execVcvt vd va p k m z c s
  | .vmov vd va k z c => Sys2Proof.Machine.execVmov vd va k z c s
  | .vbcast vd b k z c => Sys2Proof.Machine.execVbcast vd b k z c s
  | .vshuf vd va b bs k z c => Sys2Proof.Machine.execVshuf vd va b bs k z c s
  | .vslide vd va b k z c => Sys2Proof.Machine.execVslide vd va b k z c s
  | .vcompress vd va k z c => Sys2Proof.Machine.execVcompress vd va k z c s
  | .vexpand vd va k z c => Sys2Proof.Machine.execVexpand vd va k z c s
  | .vextr l va d c => Sys2Proof.Machine.execVextr l va d c s
  | .vins vd l b c => Sys2Proof.Machine.execVins vd l b c s
  | .vredaddI32 va d k c => Sys2Proof.Machine.execVredaddI32 va d k c s
  | .vredaddN32 va d k c => Sys2Proof.Machine.execVredaddN32 va d k c s
  | .vredmaxI32 va d k c => Sys2Proof.Machine.execVredmaxI32 va d k c s
  | .vredmaxN32 va d k c => Sys2Proof.Machine.execVredmaxN32 va d k c s
  | .vredminI32 va d k c => Sys2Proof.Machine.execVredminI32 va d k c s
  | .vredminN32 va d k c => Sys2Proof.Machine.execVredminN32 va d k c s
  | .vredfadd va d k c => Sys2Proof.Machine.execVredfadd va d k c s
  | .vredmaxS va d k c => Sys2Proof.Machine.execVredmaxS va d k c s
  | .vredminS va d k c => Sys2Proof.Machine.execVredminS va d k c s
  | .vdot4I8 vd va b bs k z c => Sys2Proof.Machine.execVdot4I8 vd va b bs k z c s
  | .vdot4N8 vd va b bs k z c => Sys2Proof.Machine.execVdot4N8 vd va b bs k z c s
  | .vdot2hH vd va b bs k z c => Sys2Proof.Machine.execVdot2hH vd va b bs k z c s
  | .vdot2hBf vd va b bs k z c => Sys2Proof.Machine.execVdot2hBf vd va b bs k z c s
  | .vunpk3 vd va k z c => Sys2Proof.Machine.execVunpk3 vd va k z c s
  | .vdott vd va b k z c => Sys2Proof.Machine.execVdott vd va b k z c s
  | .vdecq vd va b k z c => Sys2Proof.Machine.execVdecq vd va b k z c s
  | .vdotq vd a b c => Sys2Proof.Machine.execVdotq vd a b c s
  | .kand kd ka kb c => Sys2Proof.Machine.execKand kd ka kb c s
  | .kor kd ka kb c => Sys2Proof.Machine.execKor kd ka kb c s
  | .kxor kd ka kb c => Sys2Proof.Machine.execKxor kd ka kb c s
  | .kandn kd ka kb c => Sys2Proof.Machine.execKandn kd ka kb c s
  | .knot kd ka c => Sys2Proof.Machine.execKnot kd ka c s
  | .kpopc ka d c => Sys2Proof.Machine.execKpopc ka d c s
  | .kfirst ka d c => Sys2Proof.Machine.execKfirst ka d c s
  | .kset kd b c => Sys2Proof.Machine.execKset kd b c s
  | .kget ka d c => Sys2Proof.Machine.execKget ka d c s
  | .vld vt a x seg k ord c => Sys2Proof.Machine.execVld vt a x seg k ord c s
  | .vst vt a x seg k ord c => Sys2Proof.Machine.execVst vt a x seg k ord c s
  | .vlds vt a x seg k ord c => Sys2Proof.Machine.execVlds vt a x seg k ord c s
  | .vsts vt a x seg k ord c => Sys2Proof.Machine.execVsts vt a x seg k ord c s
  | .vgather vt a x seg k ord c => Sys2Proof.Machine.execVgather vt a x seg k ord c s
  | .vscatter vt a x seg k ord c => Sys2Proof.Machine.execVscatter vt a x seg k ord c s
  | .dadd d a b r c => Sys2Proof.Machine.execDadd d a b r c s
  | .dsub d a b r c => Sys2Proof.Machine.execDsub d a b r c s
  | .dmul d a b r c => Sys2Proof.Machine.execDmul d a b r c s
  | .ddiv d a b r c => Sys2Proof.Machine.execDdiv d a b r c s
  | .dsqrt d a r c => Sys2Proof.Machine.execDsqrt d a r c s
  | .dfma d a b r c => Sys2Proof.Machine.execDfma d a b r c s
  | .dmin d a b c => Sys2Proof.Machine.execDmin d a b c s
  | .dmax d a b c => Sys2Proof.Machine.execDmax d a b c s
  | .dcmpEq d a b c => Sys2Proof.Machine.execDcmpEq d a b c s
  | .dcmpLt d a b c => Sys2Proof.Machine.execDcmpLt d a b c s
  | .dcmpLe d a b c => Sys2Proof.Machine.execDcmpLe d a b c s
  | .dclass d a c => Sys2Proof.Machine.execDclass d a c s
  | .fdiv d a b r c => Sys2Proof.Machine.execFdiv d a b r c s
  | .fsqrt d a r c => Sys2Proof.Machine.execFsqrt d a r c s
  | .dcvt d a m r c => Sys2Proof.Machine.execDcvt d a m r c s
  | .fexp2 d a c => Sys2Proof.Machine.execFexp2 d a c s
  | .flog2 d a c => Sys2Proof.Machine.execFlog2 d a c s
  | .fsin d a c => Sys2Proof.Machine.execFsin d a c s
  | .fcos d a c => Sys2Proof.Machine.execFcos d a c s
  | .ftanh d a c => Sys2Proof.Machine.execFtanh d a c s
  | .fsigm d a c => Sys2Proof.Machine.execFsigm d a c s
  | .frcp d a c => Sys2Proof.Machine.execFrcp d a c s
  | .frsqrt d a c => Sys2Proof.Machine.execFrsqrt d a c s
  | .vdadd vd va b bs k z c => Sys2Proof.Machine.execVdadd vd va b bs k z c s
  | .vdsub vd va b bs k z c => Sys2Proof.Machine.execVdsub vd va b bs k z c s
  | .vdmul vd va b bs k z c => Sys2Proof.Machine.execVdmul vd va b bs k z c s
  | .vddiv vd va b bs k z c => Sys2Proof.Machine.execVddiv vd va b bs k z c s
  | .vdsqrt vd va k z c => Sys2Proof.Machine.execVdsqrt vd va k z c s
  | .vdfma vd va b k z c => Sys2Proof.Machine.execVdfma vd va b k z c s
  | .vdmin vd va b bs k z c => Sys2Proof.Machine.execVdmin vd va b bs k z c s
  | .vdmax vd va b bs k z c => Sys2Proof.Machine.execVdmax vd va b bs k z c s
  | .vdcvtDS vd va p k z c => Sys2Proof.Machine.execVdcvtDS vd va p k z c s
  | .vdcvtSD vd va p k z c => Sys2Proof.Machine.execVdcvtSD vd va p k z c s
  | .vfdiv vd va b bs k z c => Sys2Proof.Machine.execVfdiv vd va b bs k z c s
  | .vfsqrt vd va k z c => Sys2Proof.Machine.execVfsqrt vd va k z c s
  | .vfexp2 vd va k z c => Sys2Proof.Machine.execVfexp2 vd va k z c s
  | .vflog2 vd va k z c => Sys2Proof.Machine.execVflog2 vd va k z c s
  | .vfsin vd va k z c => Sys2Proof.Machine.execVfsin vd va k z c s
  | .vfcos vd va k z c => Sys2Proof.Machine.execVfcos vd va k z c s
  | .vftanh vd va k z c => Sys2Proof.Machine.execVftanh vd va k z c s
  | .vfsigm vd va k z c => Sys2Proof.Machine.execVfsigm vd va k z c s
  | .vfrcp vd va k z c => Sys2Proof.Machine.execVfrcp vd va k z c s
  | .vfrsqrt vd va k z c => Sys2Proof.Machine.execVfrsqrt vd va k z c s
  | .wcas128 t a seg ord b c => Sys2Proof.Machine.execWcas128 t a seg ord b c s
  | .wswap128 t a seg ord b c => Sys2Proof.Machine.execWswap128 t a seg ord b c s
  | .wamofadd t a seg ord b c => Sys2Proof.Machine.execWamofadd t a seg ord b c s
  | .wamomin t a seg ord b c => Sys2Proof.Machine.execWamomin t a seg ord b c s
  | .wamomax t a seg ord b c => Sys2Proof.Machine.execWamomax t a seg ord b c s
  | .mma d a b fmt zero keepa keepb c => Sys2Proof.Machine.execMma d a b fmt zero keepa keepb c s
  | .mmag d a b fmt n r zero keepa c => Sys2Proof.Machine.execMmag d a b fmt n r zero keepa c s
  | .mzero d c => Sys2Proof.Machine.execMzero d c s
  | .maccst d a b n tag fmt c => Sys2Proof.Machine.execMaccst d a b n tag fmt c s
  | .maccld d a b n fmt c => Sys2Proof.Machine.execMaccld d a b n fmt c s
  | .mringcfgSet a b c => Sys2Proof.Machine.execMringcfgSet a b c s
  | .mringcfgPub a b c => Sys2Proof.Machine.execMringcfgPub a b c s
  | .mringcfgGet d a c => Sys2Proof.Machine.execMringcfgGet d a c s
  | .mstat d a c => Sys2Proof.Machine.execMstat d a c s
  | .mwait n c => Sys2Proof.Machine.execMwait n c s
  | .setseg a b n c => Sys2Proof.Machine.execSetseg a b n c s
  | .getseg d w n c => Sys2Proof.Machine.execGetseg d w n c s
  | .tlbinvPage a b c => Sys2Proof.Machine.execTlbinvPage a b c s
  | .tlbinvSpace b c => Sys2Proof.Machine.execTlbinvSpace b c s
  | .tlbinvAll c => Sys2Proof.Machine.execTlbinvAll c s
  | .park d a c => Sys2Proof.Machine.execPark d a c s
  | .wake a c => Sys2Proof.Machine.execWake a c s
  | .wakeStrand a c => Sys2Proof.Machine.execWakeStrand a c s
  | .ctxsave d a b n c => Sys2Proof.Machine.execCtxsave d a b n c s
  | .ctxload d a b n c => Sys2Proof.Machine.execCtxload d a b n c s
  | .slotswap d a b c => Sys2Proof.Machine.execSlotswap d a b c s
  | .slotctl d a b c => Sys2Proof.Machine.execSlotctl d a b c s
  | .halt c => Sys2Proof.Machine.execHalt c s
  | .trap n c => Sys2Proof.Machine.execTrap n c s
  | .brk n c => Sys2Proof.Machine.execBrk n c s
  | .tret c => Sys2Proof.Machine.execTret c s
  | .codesync a b n c => Sys2Proof.Machine.execCodesync a b n c s
  | .xlatinvRange a b c => Sys2Proof.Machine.execXlatinvRange a b c s
  | .xlatinvAll c => Sys2Proof.Machine.execXlatinvAll c s
  | .xlatpre a c => Sys2Proof.Machine.execXlatpre a c s
  | .qwait d c => Sys2Proof.Machine.execQwait d c s
  | .qpop d c => Sys2Proof.Machine.execQpop d c s
  | .qpush d a c => Sys2Proof.Machine.execQpush d a c s
  | .qsignal d a b notify c => Sys2Proof.Machine.execQsignal d a b notify c s
  | .qsignalAdd d a b notify c => Sys2Proof.Machine.execQsignalAdd d a b notify c s
  | .launch d a c => Sys2Proof.Machine.execLaunch d a c s
  | .launchTry d a c => Sys2Proof.Machine.execLaunchTry d a c s
  | .wqmap d c => Sys2Proof.Machine.execWqmap d c s
  | .wqmapQ d a c => Sys2Proof.Machine.execWqmapQ d a c s
  | .wqunmap d c => Sys2Proof.Machine.execWqunmap d c s
  | .rankset d a c => Sys2Proof.Machine.execRankset d a c s
  | .wpset d a b n c => Sys2Proof.Machine.execWpset d a b n c s
  | .wpsetPhys d a b c => Sys2Proof.Machine.execWpsetPhys d a b c s
  | .wpclr d a c => Sys2Proof.Machine.execWpclr d a c s
  | .tracemark a t c => Sys2Proof.Machine.execTracemark a t c s

end Sys2Proof.Machine
end

