-- ==== Sys2Proof/Machine/Hazards.lean ====
section
/-! DEFINITION. What keeps an instruction at its strand before it issues: the scoreboard, the undo window, the store queue, the
ordering field, and irrevocability (R66 to R72, R168, R175 to R178, R295). -/

namespace Sys2Proof.Machine

/-- The second operand of a vector form: a scalar register with `bs`, else a vector register. -/
def operand (b : SReg) (bs : Bool) : RegName := if bs then .s b else .v (b.setWidth 4)
/-- The registers of a pair that VDOTQ names. -/
def pair (x : BitVec 3) (i : Nat) : VReg := BitVec.ofNat 4 (2 * x.toNat + i)
/-- The argument registers of TSPAWN. -/
def spawnRegs (b : SReg) (n : BitVec 3) : List RegName := (List.range n.toNat).map (fun i => .s (b + BitVec.ofNat 5 i))

/-- The registers that an instruction reads or writes (R67). -/
def touches (i : Instr) : List RegName :=
  match i with
  | .add d a b _ | .sub d a b _ | .mul d a b _ | .mulh d a b _ | .mulhn d a b _ | .div d a b _ | .divn d a b _ | .rem d a b _ | .remn d a b _
  | .and d a b _ | .or d a b _ | .xor d a b _ | .andn d a b _ | .orn d a b _ | .sll d a b _ | .srl d a b _ | .sra d a b _ | .rol d a b _
  | .ror d a b _ | .min d a b _ | .max d a b _ | .minn d a b _ | .maxn d a b _ | .slt d a b _ | .sltn d a b _ | .seq d a b _ | .sne d a b _
  | .ext d a b _ | .extn d a b _ | .dep d a b _ | .sel d a b _ | .lea d a b _ _ | .addx d a b _ _ | .fadd d a b _ _ _ | .fsub d a b _ _ _
  | .fmul d a b _ _ _ | .fmin d a b _ _ | .fmax d a b _ _ | .fsgnj d a b _ _ | .feq d a b _ _ | .flt d a b _ _ | .fle d a b _ _ | .fmadd d a b _ _ _
  | .fmsub d a b _ _ _ | .fnmadd d a b _ _ _ | .fnmsub d a b _ _ _ | .cpy d a b _ _ _ _ _ _ | .cpyred d a b _ _ _ _ _ _ _
  | .cpyring d a b _ _ _ _ _ _ | .cpyfill d a b _ _ _ _ _ _ | .cpyrem d a b _ _ _ _ _ _ _ | .dadd d a b _ _ | .dsub d a b _ _ | .dmul d a b _ _
  | .ddiv d a b _ _ | .dfma d a b _ _ | .dmin d a b _ | .dmax d a b _ | .dcmpEq d a b _ | .dcmpLt d a b _ | .dcmpLe d a b _ | .fdiv d a b _ _
  | .ctxsave d a b _ _ | .ctxload d a b _ _ | .slotswap d a b _ | .slotctl d a b _ | .qsignal d a b _ _ | .qsignalAdd d a b _ _ | .wpset d a b _ _
  | .wpsetPhys d a b _ => [.s d, .s a, .s b]
  | .clz d a _ | .ctz d a _ | .popc d a _ | .brev d a _ | .bswap d a _ | .addi d a _ _ | .andi d a _ _ | .ori d a _ _ | .xori d a _ _ | .slli d a _ _
  | .srli d a _ _ | .srai d a _ _ | .slti d a _ _ | .sltni d a _ _ | .muli d a _ _ | .lui d a _ _ | .fabs d a _ _ | .fneg d a _ _ | .fclass d a _ _
  | .frcpe d a _ _ | .frsqe d a _ _ | .fcvt d a _ _ _ | .tryrecv d a _ _ | .barWait d a _ _ _ | .ttsPoll d a _ | .dsqrt d a _ _ | .dclass d a _
  | .fsqrt d a _ _ | .dcvt d a _ _ _ | .fexp2 d a _ | .flog2 d a _ | .fsin d a _ | .fcos d a _ | .ftanh d a _ | .fsigm d a _ | .frcp d a _
  | .frsqrt d a _ | .mstat d a _ | .park d a _ | .qpush d a _ | .launch d a _ | .launchTry d a _ | .wqmapQ d a _ | .rankset d a _ | .wpclr d a _ => [.s d, .s a]
  | .li d _ _ | .getsr d _ _ | .recv d _ _ | .chstatIn d _ _ | .chstatOut d _ _ | .barArrive d _ _ _ | .barSync d _ _ _ | .barStat d _ _
  | .inboxWait d _ | .inboxPoll d _ | .tkey d _ _ | .mringcfgGet d _ _ | .getseg d _ _ _ | .qwait d _ | .qpop d _ | .wqmap d _ | .wqunmap d _ => [.s d]
  | .beq a b _ _ | .bne a b _ _ | .blt a b _ _ | .bge a b _ _ | .bltn a b _ _ | .bgen a b _ _ | .maccst _ a b _ _ _ _ | .maccld _ a b _ _ _
  | .setseg a b _ _ | .tlbinvPage a b _ | .codesync a b _ _ | .xlatinvRange a b _ => [.s a, .s b]
  | .call _ _ => [.s 31]
  | .jr a _ | .dbnz a _ _ | .setsr a _ _ | .pref _ a _ _ _ | .flushl a _ _ _ | .invl a _ _ _ | .send a _ _ | .ttsWait a _ | .wake a _
  | .wakeStrand a _ | .xlatpre a _ | .tracemark a _ _ => [.s a]
  | .callr a _ => [.s a, .s 31]
  | .ld t a _ _ _ _ _ | .st t a _ _ _ _ _ => [.s t, .s a]
  | .amoadd t a _ _ _ b _ | .amoswap t a _ _ _ b _ | .amocas t a _ _ _ b _ | .amoand t a _ _ _ b _ | .amoor t a _ _ _ b _ | .amoxor t a _ _ _ b _
  | .amomin t a _ _ _ b _ | .amomax t a _ _ _ b _ | .amominn t a _ _ _ b _ | .amomaxn t a _ _ _ b _ | .amofadd t a _ _ b _ | .wamofadd t a _ _ b _
  | .wamomin t a _ _ b _ | .wamomax t a _ _ b _ => [.s t, .s a, .s b]
  | .sendv va _ _ => [.v va]
  | .recvv vd _ _ => [.v vd]
  | .cpy2d d a b _ _ _ _ _ _ | .cpyg d a b _ _ _ _ _ _ _ | .cpys d a b _ _ _ _ _ _ _ => [.s d, .s a, .s b, .s (b + 1)]
  | .tspawn d a b n _ _ => .s d :: .s a :: spawnRegs b n
  | .vadd vd va b bs k _ _ _ | .vsub vd va b bs k _ _ _ | .vmul vd va b bs k _ _ _ | .vaddsI vd va b bs k _ _ _ | .vaddsN vd va b bs k _ _ _
  | .vsubsI vd va b bs k _ _ _ | .vsubsN vd va b bs k _ _ _ | .vminI vd va b bs k _ _ _ | .vminN vd va b bs k _ _ _ | .vmaxI vd va b bs k _ _ _
  | .vmaxN vd va b bs k _ _ _ | .vand vd va b bs k _ _ _ | .vor vd va b bs k _ _ _ | .vxor vd va b bs k _ _ _ | .vandn vd va b bs k _ _ _
  | .vsll vd va b bs k _ _ _ | .vsrl vd va b bs k _ _ _ | .vsra vd va b bs k _ _ _ | .vaddFp vd va b bs k _ _ _ | .vsubFp vd va b bs k _ _ _
  | .vmulFp vd va b bs k _ _ _ | .vminFp vd va b bs k _ _ _ | .vmaxFp vd va b bs k _ _ _ | .vsgnj vd va b bs k _ _ _ | .vmadd vd va b bs k _ _ _
  | .vmsub vd va b bs k _ _ _ | .vnmadd vd va b bs k _ _ _ | .vnmsub vd va b bs k _ _ _ | .vshuf vd va b bs k _ _ | .vdot4I8 vd va b bs k _ _
  | .vdot4N8 vd va b bs k _ _ | .vdot2hH vd va b bs k _ _ | .vdot2hBf vd va b bs k _ _ | .vdadd vd va b bs k _ _ | .vdsub vd va b bs k _ _
  | .vdmul vd va b bs k _ _ | .vddiv vd va b bs k _ _ | .vdmin vd va b bs k _ _ | .vdmax vd va b bs k _ _ | .vfdiv vd va b bs k _ _ => [.v vd, .v va, operand b bs, .k k]
  | .vcmpeqB32 kd va b bs k _ _ | .vcmpltI32 kd va b bs k _ _ | .vcmpltN32 kd va b bs k _ _ | .vcmpeqS kd va b bs k _ _ | .vcmpltS kd va b bs k _ _
  | .vcmpleS kd va b bs k _ _ => [.k kd, .v va, operand b bs, .k k]
  | .vabss vd va k _ _ _ | .vabs vd va k _ _ _ | .vneg vd va k _ _ _ | .vcvt vd va _ k _ _ _ | .vmov vd va k _ _ | .vcompress vd va k _ _
  | .vexpand vd va k _ _ | .vunpk3 vd va k _ _ | .vdsqrt vd va k _ _ | .vdcvtDS vd va _ k _ _ | .vdcvtSD vd va _ k _ _ | .vfsqrt vd va k _ _
  | .vfexp2 vd va k _ _ | .vflog2 vd va k _ _ | .vfsin vd va k _ _ | .vfcos vd va k _ _ | .vftanh vd va k _ _ | .vfsigm vd va k _ _
  | .vfrcp vd va k _ _ | .vfrsqrt vd va k _ _ => [.v vd, .v va, .k k]
  | .vbcast vd b k _ _ => [.v vd, .s b, .k k]
  | .vslide vd va b k _ _ | .vdecq vd va b k _ _ | .vdfma vd va b k _ _ => [.v vd, .v va, .s b, .k k]
  | .vextr _ va d _ => [.v va, .s d]
  | .vins vd _ b _ => [.v vd, .s b]
  | .vredaddI32 va d k _ | .vredaddN32 va d k _ | .vredmaxI32 va d k _ | .vredmaxN32 va d k _ | .vredminI32 va d k _ | .vredminN32 va d k _
  | .vredfadd va d k _ | .vredmaxS va d k _ | .vredminS va d k _ => [.v va, .s d, .k k]
  | .vdott vd va b k _ _ => [.v vd, .v va, .v (b.setWidth 4), .k k]
  | .vdotq vd a b _ => [.v vd, .v (pair a 0), .v (pair a 1), .v (pair b 0), .v (pair b 1)]
  | .kand kd ka kb _ | .kor kd ka kb _ | .kxor kd ka kb _ | .kandn kd ka kb _ => [.k kd, .k ka, .k kb]
  | .knot kd ka _ => [.k kd, .k ka]
  | .kpopc ka d _ | .kfirst ka d _ | .kget ka d _ => [.k ka, .s d]
  | .kset kd b _ => [.k kd, .s b]
  | .vld vt a _ _ k _ _ | .vst vt a _ _ k _ _ => [.v vt, .s a, .k k]
  | .vlds vt a x _ k _ _ | .vsts vt a x _ k _ _ => [.v vt, .s a, .s x, .k k]
  | .vgather vt a x _ k _ _ | .vscatter vt a x _ k _ _ => [.v vt, .s a, .v x, .k k]
  | .wcas128 t a _ _ b _ | .wswap128 t a _ _ b _ => [.s t, .s (t + 1), .s a, .s b, .s (b + 1)]
  | .mmag _ _ _ _ _ r _ _ _ => [.s r]
  | .mringcfgSet _ b _ | .mringcfgPub _ b _ | .tlbinvSpace b _ => [.s b]
  | _ => []

/-- The registers that an instruction writes. -/
def writes (i : Instr) : List RegName :=
  match i with
  | .add d _ _ _ | .sub d _ _ _ | .mul d _ _ _ | .mulh d _ _ _ | .mulhn d _ _ _ | .div d _ _ _ | .divn d _ _ _ | .rem d _ _ _ | .remn d _ _ _
  | .and d _ _ _ | .or d _ _ _ | .xor d _ _ _ | .andn d _ _ _ | .orn d _ _ _ | .sll d _ _ _ | .srl d _ _ _ | .sra d _ _ _ | .rol d _ _ _
  | .ror d _ _ _ | .min d _ _ _ | .max d _ _ _ | .minn d _ _ _ | .maxn d _ _ _ | .slt d _ _ _ | .sltn d _ _ _ | .seq d _ _ _ | .sne d _ _ _
  | .clz d _ _ | .ctz d _ _ | .popc d _ _ | .brev d _ _ | .bswap d _ _ | .ext d _ _ _ | .extn d _ _ _ | .dep d _ _ _ | .sel d _ _ _ | .addi d _ _ _
  | .andi d _ _ _ | .ori d _ _ _ | .xori d _ _ _ | .slli d _ _ _ | .srli d _ _ _ | .srai d _ _ _ | .slti d _ _ _ | .sltni d _ _ _ | .muli d _ _ _
  | .lui d _ _ _ | .li d _ _ | .lea d _ _ _ _ | .addx d _ _ _ _ | .getsr d _ _ | .fadd d _ _ _ _ _ | .fsub d _ _ _ _ _ | .fmul d _ _ _ _ _
  | .fmin d _ _ _ _ | .fmax d _ _ _ _ | .fabs d _ _ _ | .fneg d _ _ _ | .fsgnj d _ _ _ _ | .feq d _ _ _ _ | .flt d _ _ _ _ | .fle d _ _ _ _
  | .fclass d _ _ _ | .frcpe d _ _ _ | .frsqe d _ _ _ | .fmadd d _ _ _ _ _ | .fmsub d _ _ _ _ _ | .fnmadd d _ _ _ _ _ | .fnmsub d _ _ _ _ _
  | .fcvt d _ _ _ _ | .recv d _ _ | .chstatIn d _ _ | .chstatOut d _ _ | .barArrive d _ _ _ | .barWait d _ _ _ _ | .barSync d _ _ _ | .barStat d _ _
  | .inboxWait d _ | .inboxPoll d _ | .tspawn d _ _ _ _ _ | .ttsPoll d _ _ | .tkey d _ _ | .vextr _ _ d _ | .vredaddI32 _ d _ _ | .vredaddN32 _ d _ _
  | .vredmaxI32 _ d _ _ | .vredmaxN32 _ d _ _ | .vredminI32 _ d _ _ | .vredminN32 _ d _ _ | .vredfadd _ d _ _ | .vredmaxS _ d _ _ | .vredminS _ d _ _
  | .kpopc _ d _ | .kfirst _ d _ | .kget _ d _ | .dadd d _ _ _ _ | .dsub d _ _ _ _ | .dmul d _ _ _ _ | .ddiv d _ _ _ _ | .dsqrt d _ _ _
  | .dfma d _ _ _ _ | .dmin d _ _ _ | .dmax d _ _ _ | .dcmpEq d _ _ _ | .dcmpLt d _ _ _ | .dcmpLe d _ _ _ | .dclass d _ _ | .fdiv d _ _ _ _
  | .fsqrt d _ _ _ | .dcvt d _ _ _ _ | .fexp2 d _ _ | .flog2 d _ _ | .fsin d _ _ | .fcos d _ _ | .ftanh d _ _ | .fsigm d _ _ | .frcp d _ _
  | .frsqrt d _ _ | .mringcfgGet d _ _ | .mstat d _ _ | .getseg d _ _ _ | .park d _ _ | .ctxsave d _ _ _ _ | .ctxload d _ _ _ _ | .slotswap d _ _ _
  | .slotctl d _ _ _ | .qwait d _ | .qpop d _ | .qpush d _ _ | .qsignal d _ _ _ _ | .qsignalAdd d _ _ _ _ | .launch d _ _ | .launchTry d _ _
  | .wqmap d _ | .wqmapQ d _ _ | .wqunmap d _ | .rankset d _ _ | .wpset d _ _ _ _ | .wpsetPhys d _ _ _ | .wpclr d _ _ => [.s d]
  | .call _ _ | .callr _ _ => [.s 31]
  | .dbnz a _ _ => [.s a]
  | .ld t _ _ _ _ _ _ | .amoadd t _ _ _ _ _ _ | .amoswap t _ _ _ _ _ _ | .amocas t _ _ _ _ _ _ | .amoand t _ _ _ _ _ _ | .amoor t _ _ _ _ _ _
  | .amoxor t _ _ _ _ _ _ | .amomin t _ _ _ _ _ _ | .amomax t _ _ _ _ _ _ | .amominn t _ _ _ _ _ _ | .amomaxn t _ _ _ _ _ _ | .amofadd t _ _ _ _ _
  | .wamofadd t _ _ _ _ _ | .wamomin t _ _ _ _ _ | .wamomax t _ _ _ _ _ => [.s t]
  | .recvv vd _ _ | .vadd vd _ _ _ _ _ _ _ | .vsub vd _ _ _ _ _ _ _ | .vmul vd _ _ _ _ _ _ _ | .vaddsI vd _ _ _ _ _ _ _ | .vaddsN vd _ _ _ _ _ _ _
  | .vsubsI vd _ _ _ _ _ _ _ | .vsubsN vd _ _ _ _ _ _ _ | .vminI vd _ _ _ _ _ _ _ | .vminN vd _ _ _ _ _ _ _ | .vmaxI vd _ _ _ _ _ _ _
  | .vmaxN vd _ _ _ _ _ _ _ | .vand vd _ _ _ _ _ _ _ | .vor vd _ _ _ _ _ _ _ | .vxor vd _ _ _ _ _ _ _ | .vandn vd _ _ _ _ _ _ _
  | .vsll vd _ _ _ _ _ _ _ | .vsrl vd _ _ _ _ _ _ _ | .vsra vd _ _ _ _ _ _ _ | .vabss vd _ _ _ _ _ | .vaddFp vd _ _ _ _ _ _ _
  | .vsubFp vd _ _ _ _ _ _ _ | .vmulFp vd _ _ _ _ _ _ _ | .vminFp vd _ _ _ _ _ _ _ | .vmaxFp vd _ _ _ _ _ _ _ | .vabs vd _ _ _ _ _
  | .vneg vd _ _ _ _ _ | .vsgnj vd _ _ _ _ _ _ _ | .vmadd vd _ _ _ _ _ _ _ | .vmsub vd _ _ _ _ _ _ _ | .vnmadd vd _ _ _ _ _ _ _
  | .vnmsub vd _ _ _ _ _ _ _ | .vcvt vd _ _ _ _ _ _ | .vmov vd _ _ _ _ | .vbcast vd _ _ _ _ | .vshuf vd _ _ _ _ _ _ | .vslide vd _ _ _ _ _
  | .vcompress vd _ _ _ _ | .vexpand vd _ _ _ _ | .vins vd _ _ _ | .vdot4I8 vd _ _ _ _ _ _ | .vdot4N8 vd _ _ _ _ _ _ | .vdot2hH vd _ _ _ _ _ _
  | .vdot2hBf vd _ _ _ _ _ _ | .vunpk3 vd _ _ _ _ | .vdott vd _ _ _ _ _ | .vdecq vd _ _ _ _ _ | .vdotq vd _ _ _ | .vdadd vd _ _ _ _ _ _
  | .vdsub vd _ _ _ _ _ _ | .vdmul vd _ _ _ _ _ _ | .vddiv vd _ _ _ _ _ _ | .vdsqrt vd _ _ _ _ | .vdfma vd _ _ _ _ _ | .vdmin vd _ _ _ _ _ _
  | .vdmax vd _ _ _ _ _ _ | .vdcvtDS vd _ _ _ _ _ | .vdcvtSD vd _ _ _ _ _ | .vfdiv vd _ _ _ _ _ _ | .vfsqrt vd _ _ _ _ | .vfexp2 vd _ _ _ _
  | .vflog2 vd _ _ _ _ | .vfsin vd _ _ _ _ | .vfcos vd _ _ _ _ | .vftanh vd _ _ _ _ | .vfsigm vd _ _ _ _ | .vfrcp vd _ _ _ _ | .vfrsqrt vd _ _ _ _ => [.v vd]
  | .tryrecv d a _ _ => [.s d, .s a]
  | .vcmpeqB32 kd _ _ _ _ _ _ | .vcmpltI32 kd _ _ _ _ _ _ | .vcmpltN32 kd _ _ _ _ _ _ | .vcmpeqS kd _ _ _ _ _ _ | .vcmpltS kd _ _ _ _ _ _
  | .vcmpleS kd _ _ _ _ _ _ | .kand kd _ _ _ | .kor kd _ _ _ | .kxor kd _ _ _ | .kandn kd _ _ _ | .knot kd _ _ | .kset kd _ _ => [.k kd]
  | .vld vt _ _ _ _ _ _ | .vlds vt _ _ _ _ _ _ | .vgather vt _ _ _ _ _ _ => [.v vt]
  | .wcas128 t _ _ _ _ _ | .wswap128 t _ _ _ _ _ => [.s t, .s (t + 1)]
  | _ => []

/-- The latency of a fixed-latency instruction (R66, R104, R122, R183). -/
def latency (i : Instr) : Nat :=
  match i with
  | .mul _ _ _ _ | .mulh _ _ _ _ | .mulhn _ _ _ _ | .muli _ _ _ _ | .vcompress _ _ _ _ _ | .vexpand _ _ _ _ _ | .vdot4I8 _ _ _ _ _ _ _
  | .vdot4N8 _ _ _ _ _ _ _ | .vunpk3 _ _ _ _ _ => 3
  | .div _ _ _ _ | .divn _ _ _ _ | .rem _ _ _ _ | .remn _ _ _ _ => 20
  | .fadd _ _ _ _ _ _ | .fsub _ _ _ _ _ _ | .fmul _ _ _ _ _ _ | .fmin _ _ _ _ _ | .fmax _ _ _ _ _ | .fabs _ _ _ _ | .fneg _ _ _ _ | .fsgnj _ _ _ _ _
  | .feq _ _ _ _ _ | .flt _ _ _ _ _ | .fle _ _ _ _ _ | .fclass _ _ _ _ | .frcpe _ _ _ _ | .frsqe _ _ _ _ | .fmadd _ _ _ _ _ _ | .fmsub _ _ _ _ _ _
  | .fnmadd _ _ _ _ _ _ | .fnmsub _ _ _ _ _ _ | .fcvt _ _ _ _ _ | .vredaddI32 _ _ _ _ | .vredaddN32 _ _ _ _ | .vredmaxI32 _ _ _ _
  | .vredmaxN32 _ _ _ _ | .vredminI32 _ _ _ _ | .vredminN32 _ _ _ _ | .vdott _ _ _ _ _ _ => 4
  | .vadd _ _ _ _ _ _ _ _ | .vsub _ _ _ _ _ _ _ _ | .vmul _ _ _ _ _ _ _ _ | .vaddsI _ _ _ _ _ _ _ _ | .vaddsN _ _ _ _ _ _ _ _
  | .vsubsI _ _ _ _ _ _ _ _ | .vsubsN _ _ _ _ _ _ _ _ | .vminI _ _ _ _ _ _ _ _ | .vminN _ _ _ _ _ _ _ _ | .vmaxI _ _ _ _ _ _ _ _
  | .vmaxN _ _ _ _ _ _ _ _ | .vand _ _ _ _ _ _ _ _ | .vor _ _ _ _ _ _ _ _ | .vxor _ _ _ _ _ _ _ _ | .vandn _ _ _ _ _ _ _ _ | .vsll _ _ _ _ _ _ _ _
  | .vsrl _ _ _ _ _ _ _ _ | .vsra _ _ _ _ _ _ _ _ | .recvv _ _ _ | .vcmpeqB32 _ _ _ _ _ _ _ | .vcmpltI32 _ _ _ _ _ _ _ | .vcmpltN32 _ _ _ _ _ _ _
  | .vabss _ _ _ _ _ _ | .vmov _ _ _ _ _ | .vbcast _ _ _ _ _ | .vshuf _ _ _ _ _ _ _ | .vslide _ _ _ _ _ _ | .vextr _ _ _ _ | .vins _ _ _ _ => 2
  | .vaddFp _ _ _ _ _ _ _ _ | .vsubFp _ _ _ _ _ _ _ _ | .vmulFp _ _ _ _ _ _ _ _ | .vminFp _ _ _ _ _ _ _ _ | .vmaxFp _ _ _ _ _ _ _ _
  | .vabs _ _ _ _ _ _ | .vneg _ _ _ _ _ _ | .vsgnj _ _ _ _ _ _ _ _ | .vcmpeqS _ _ _ _ _ _ _ | .vcmpltS _ _ _ _ _ _ _ | .vcmpleS _ _ _ _ _ _ _
  | .vmadd _ _ _ _ _ _ _ _ | .vmsub _ _ _ _ _ _ _ _ | .vnmadd _ _ _ _ _ _ _ _ | .vnmsub _ _ _ _ _ _ _ _ | .vcvt _ _ _ _ _ _ _ | .vdecq _ _ _ _ _ _ => 5
  | .vredfadd _ _ _ _ => 14
  | .vredmaxS _ _ _ _ | .vredminS _ _ _ _ => 8
  | .vdot2hH _ _ _ _ _ _ _ | .vdot2hBf _ _ _ _ _ _ _ => 6
  | .vdotq _ _ _ _ => 9
  | _ => 1

/-- It starts a long-latency operation (R67). -/
def longOp (i : Instr) : Bool :=
  match i with
  | .ld _ _ _ _ _ _ _ | .amoadd _ _ _ _ _ _ _ | .amoswap _ _ _ _ _ _ _ | .amocas _ _ _ _ _ _ _ | .amoand _ _ _ _ _ _ _ | .amoor _ _ _ _ _ _ _
  | .amoxor _ _ _ _ _ _ _ | .amomin _ _ _ _ _ _ _ | .amomax _ _ _ _ _ _ _ | .amominn _ _ _ _ _ _ _ | .amomaxn _ _ _ _ _ _ _ | .amofadd _ _ _ _ _ _
  | .barArrive _ _ _ _ | .barSync _ _ _ _ | .barStat _ _ _ | .tspawn _ _ _ _ _ _ | .vld _ _ _ _ _ _ _ | .vlds _ _ _ _ _ _ _ | .vgather _ _ _ _ _ _ _
  | .dadd _ _ _ _ _ | .dsub _ _ _ _ _ | .dmul _ _ _ _ _ | .ddiv _ _ _ _ _ | .dsqrt _ _ _ _ | .dfma _ _ _ _ _ | .dmin _ _ _ _ | .dmax _ _ _ _
  | .dcmpEq _ _ _ _ | .dcmpLt _ _ _ _ | .dcmpLe _ _ _ _ | .dclass _ _ _ | .fdiv _ _ _ _ _ | .fsqrt _ _ _ _ | .dcvt _ _ _ _ _ | .fexp2 _ _ _
  | .flog2 _ _ _ | .fsin _ _ _ | .fcos _ _ _ | .ftanh _ _ _ | .fsigm _ _ _ | .frcp _ _ _ | .frsqrt _ _ _ | .vdadd _ _ _ _ _ _ _
  | .vdsub _ _ _ _ _ _ _ | .vdmul _ _ _ _ _ _ _ | .vddiv _ _ _ _ _ _ _ | .vdsqrt _ _ _ _ _ | .vdfma _ _ _ _ _ _ | .vdmin _ _ _ _ _ _ _
  | .vdmax _ _ _ _ _ _ _ | .vdcvtDS _ _ _ _ _ _ | .vdcvtSD _ _ _ _ _ _ | .vfdiv _ _ _ _ _ _ _ | .vfsqrt _ _ _ _ _ | .vfexp2 _ _ _ _ _
  | .vflog2 _ _ _ _ _ | .vfsin _ _ _ _ _ | .vfcos _ _ _ _ _ | .vftanh _ _ _ _ _ | .vfsigm _ _ _ _ _ | .vfrcp _ _ _ _ _ | .vfrsqrt _ _ _ _ _
  | .wcas128 _ _ _ _ _ _ | .wswap128 _ _ _ _ _ _ | .wamofadd _ _ _ _ _ _ | .wamomin _ _ _ _ _ _ | .wamomax _ _ _ _ _ _ | .tlbinvPage _ _ _
  | .tlbinvSpace _ _ | .tlbinvAll _ | .ctxsave _ _ _ _ _ | .ctxload _ _ _ _ _ | .slotswap _ _ _ _ | .wpset _ _ _ _ _ | .wpsetPhys _ _ _ _
  | .wpclr _ _ _ => true
  | _ => false

/-- It is shipped by a lean strand (R225, R248). -/
def shipOp (i : Instr) : Bool :=
  match i with
  | .dadd _ _ _ _ _ | .dsub _ _ _ _ _ | .dmul _ _ _ _ _ | .ddiv _ _ _ _ _ | .dsqrt _ _ _ _ | .dfma _ _ _ _ _ | .dmin _ _ _ _ | .dmax _ _ _ _
  | .dcmpEq _ _ _ _ | .dcmpLt _ _ _ _ | .dcmpLe _ _ _ _ | .dclass _ _ _ | .fdiv _ _ _ _ _ | .fsqrt _ _ _ _ | .dcvt _ _ _ _ _ | .fexp2 _ _ _
  | .flog2 _ _ _ | .fsin _ _ _ | .fcos _ _ _ | .ftanh _ _ _ | .fsigm _ _ _ | .frcp _ _ _ | .frsqrt _ _ _ | .vdadd _ _ _ _ _ _ _
  | .vdsub _ _ _ _ _ _ _ | .vdmul _ _ _ _ _ _ _ | .vddiv _ _ _ _ _ _ _ | .vdsqrt _ _ _ _ _ | .vdfma _ _ _ _ _ _ | .vdmin _ _ _ _ _ _ _
  | .vdmax _ _ _ _ _ _ _ | .vdcvtDS _ _ _ _ _ _ | .vdcvtSD _ _ _ _ _ _ | .vfdiv _ _ _ _ _ _ _ | .vfsqrt _ _ _ _ _ | .vfexp2 _ _ _ _ _
  | .vflog2 _ _ _ _ _ | .vfsin _ _ _ _ _ | .vfcos _ _ _ _ _ | .vftanh _ _ _ _ _ | .vfsigm _ _ _ _ _ | .vfrcp _ _ _ _ _ | .vfrsqrt _ _ _ _ _
  | .wcas128 _ _ _ _ _ _ | .wswap128 _ _ _ _ _ _ | .wamofadd _ _ _ _ _ _ | .wamomin _ _ _ _ _ _ | .wamomax _ _ _ _ _ _ => true
  | _ => false

/-- It is a wide atomic (R247). -/
def wideOp (i : Instr) : Bool :=
  match i with
  | .wcas128 _ _ _ _ _ _ | .wswap128 _ _ _ _ _ _ | .wamofadd _ _ _ _ _ _ | .wamomin _ _ _ _ _ _ | .wamomax _ _ _ _ _ _ => true
  | _ => false
/-- It is shipped by a lean strand without a memory effect; a heavy strand executes it with a fixed latency (R224). -/
def shipFp (i : Instr) : Bool := shipOp i && !wideOp i

/-- A fixed-latency instruction that can set FFLAGS (R75, R102, R122). -/
def setsFflags (i : Instr) : Bool :=
  match i with
  | .fadd _ _ _ _ _ _ | .fsub _ _ _ _ _ _ | .fmul _ _ _ _ _ _ | .fmin _ _ _ _ _ | .fmax _ _ _ _ _ | .feq _ _ _ _ _ | .flt _ _ _ _ _ | .fle _ _ _ _ _
  | .frcpe _ _ _ _ | .frsqe _ _ _ _ | .fmadd _ _ _ _ _ _ | .fmsub _ _ _ _ _ _ | .fnmadd _ _ _ _ _ _ | .fnmsub _ _ _ _ _ _ | .fcvt _ _ _ _ _
  | .vaddFp _ _ _ _ _ _ _ _ | .vsubFp _ _ _ _ _ _ _ _ | .vmulFp _ _ _ _ _ _ _ _ | .vminFp _ _ _ _ _ _ _ _ | .vmaxFp _ _ _ _ _ _ _ _
  | .vcmpeqS _ _ _ _ _ _ _ | .vcmpltS _ _ _ _ _ _ _ | .vcmpleS _ _ _ _ _ _ _ | .vmadd _ _ _ _ _ _ _ _ | .vmsub _ _ _ _ _ _ _ _
  | .vnmadd _ _ _ _ _ _ _ _ | .vnmsub _ _ _ _ _ _ _ _ | .vcvt _ _ _ _ _ _ _ | .vredfadd _ _ _ _ | .vredmaxS _ _ _ _ | .vredminS _ _ _ _
  | .vdot2hH _ _ _ _ _ _ _ | .vdot2hBf _ _ _ _ _ _ _ | .vdotq _ _ _ _ => true
  | _ => false
/-- A fixed-latency instruction that can set VSTAT (R74, R95, R124). -/
def setsVstat (i : Instr) : Bool :=
  match i with
  | .vaddsI _ _ _ _ _ _ _ _ | .vaddsN _ _ _ _ _ _ _ _ | .vsubsI _ _ _ _ _ _ _ _ | .vsubsN _ _ _ _ _ _ _ _ | .vabss _ _ _ _ _ _ | .vunpk3 _ _ _ _ _
  | .vdott _ _ _ _ _ _ => true
  | _ => false

/-- It does not enter the undo window (R70). -/
def waitsConfirm (i : Instr) : Bool :=
  match i with
  | .setsr _ _ _ | .send _ _ _ | .sendv _ _ _ | .recvv _ _ _ | .cpy _ _ _ _ _ _ _ _ _ | .cpy2d _ _ _ _ _ _ _ _ _ | .cpyg _ _ _ _ _ _ _ _ _ _
  | .cpys _ _ _ _ _ _ _ _ _ _ | .cpyred _ _ _ _ _ _ _ _ _ _ | .cpyring _ _ _ _ _ _ _ _ _ | .cpyfill _ _ _ _ _ _ _ _ _ | .cpyrem _ _ _ _ _ _ _ _ _ _
  | .tspawn _ _ _ _ _ _ | .vadd _ _ _ _ _ _ _ _ | .vsub _ _ _ _ _ _ _ _ | .vmul _ _ _ _ _ _ _ _ | .vaddsI _ _ _ _ _ _ _ _ | .vaddsN _ _ _ _ _ _ _ _
  | .vsubsI _ _ _ _ _ _ _ _ | .vsubsN _ _ _ _ _ _ _ _ | .vminI _ _ _ _ _ _ _ _ | .vminN _ _ _ _ _ _ _ _ | .vmaxI _ _ _ _ _ _ _ _
  | .vmaxN _ _ _ _ _ _ _ _ | .vand _ _ _ _ _ _ _ _ | .vor _ _ _ _ _ _ _ _ | .vxor _ _ _ _ _ _ _ _ | .vandn _ _ _ _ _ _ _ _ | .vsll _ _ _ _ _ _ _ _
  | .vsrl _ _ _ _ _ _ _ _ | .vsra _ _ _ _ _ _ _ _ | .vabss _ _ _ _ _ _ | .vaddFp _ _ _ _ _ _ _ _ | .vsubFp _ _ _ _ _ _ _ _ | .vmulFp _ _ _ _ _ _ _ _
  | .vminFp _ _ _ _ _ _ _ _ | .vmaxFp _ _ _ _ _ _ _ _ | .vabs _ _ _ _ _ _ | .vneg _ _ _ _ _ _ | .vsgnj _ _ _ _ _ _ _ _ | .vmadd _ _ _ _ _ _ _ _
  | .vmsub _ _ _ _ _ _ _ _ | .vnmadd _ _ _ _ _ _ _ _ | .vnmsub _ _ _ _ _ _ _ _ | .vcvt _ _ _ _ _ _ _ | .vmov _ _ _ _ _ | .vbcast _ _ _ _ _
  | .vshuf _ _ _ _ _ _ _ | .vslide _ _ _ _ _ _ | .vcompress _ _ _ _ _ | .vexpand _ _ _ _ _ | .vins _ _ _ _ | .vdot4I8 _ _ _ _ _ _ _
  | .vdot4N8 _ _ _ _ _ _ _ | .vdot2hH _ _ _ _ _ _ _ | .vdot2hBf _ _ _ _ _ _ _ | .vunpk3 _ _ _ _ _ | .vdott _ _ _ _ _ _ | .vdecq _ _ _ _ _ _
  | .vdotq _ _ _ _ | .vld _ _ _ _ _ _ _ | .vlds _ _ _ _ _ _ _ | .vgather _ _ _ _ _ _ _ | .vdadd _ _ _ _ _ _ _ | .vdsub _ _ _ _ _ _ _
  | .vdmul _ _ _ _ _ _ _ | .vddiv _ _ _ _ _ _ _ | .vdsqrt _ _ _ _ _ | .vdfma _ _ _ _ _ _ | .vdmin _ _ _ _ _ _ _ | .vdmax _ _ _ _ _ _ _
  | .vdcvtDS _ _ _ _ _ _ | .vdcvtSD _ _ _ _ _ _ | .vfdiv _ _ _ _ _ _ _ | .vfsqrt _ _ _ _ _ | .vfexp2 _ _ _ _ _ | .vflog2 _ _ _ _ _ | .vfsin _ _ _ _ _
  | .vfcos _ _ _ _ _ | .vftanh _ _ _ _ _ | .vfsigm _ _ _ _ _ | .vfrcp _ _ _ _ _ | .vfrsqrt _ _ _ _ _ | .wcas128 _ _ _ _ _ _ | .wswap128 _ _ _ _ _ _
  | .wamofadd _ _ _ _ _ _ | .wamomin _ _ _ _ _ _ | .wamomax _ _ _ _ _ _ | .mma _ _ _ _ _ _ _ _ | .mmag _ _ _ _ _ _ _ _ _ | .mzero _ _
  | .maccst _ _ _ _ _ _ _ | .maccld _ _ _ _ _ _ | .mringcfgSet _ _ _ | .mringcfgPub _ _ _ | .mringcfgGet _ _ _ | .mstat _ _ _ | .mwait _ _
  | .setseg _ _ _ _ | .getseg _ _ _ _ | .tlbinvPage _ _ _ | .tlbinvSpace _ _ | .tlbinvAll _ | .park _ _ _ | .wake _ _ | .wakeStrand _ _
  | .ctxsave _ _ _ _ _ | .ctxload _ _ _ _ _ | .slotswap _ _ _ _ | .slotctl _ _ _ _ | .halt _ | .tret _ | .codesync _ _ _ _ | .xlatinvRange _ _ _
  | .xlatinvAll _ | .qwait _ _ | .qpop _ _ | .qpush _ _ _ | .qsignal _ _ _ _ _ | .qsignalAdd _ _ _ _ _ | .launch _ _ _ | .launchTry _ _ _
  | .wqmap _ _ | .wqmapQ _ _ _ | .wqunmap _ _ | .rankset _ _ _ | .wpset _ _ _ _ _ | .wpsetPhys _ _ _ _ | .tracemark _ _ _ => true
  | _ => false

/-- It has an access that an older acquire keeps back (R168). -/
def memOp (i : Instr) : Bool :=
  match i with
  | .ld _ _ _ _ _ _ _ | .st _ _ _ _ _ _ _ | .mmag _ _ _ _ _ _ _ _ _ | .amoadd _ _ _ _ _ _ _ | .amoswap _ _ _ _ _ _ _ | .amocas _ _ _ _ _ _ _
  | .amoand _ _ _ _ _ _ _ | .amoor _ _ _ _ _ _ _ | .amoxor _ _ _ _ _ _ _ | .amomin _ _ _ _ _ _ _ | .amomax _ _ _ _ _ _ _ | .amominn _ _ _ _ _ _ _ | .amomaxn _ _ _ _ _ _ _
  | .amofadd _ _ _ _ _ _ | .flushl _ _ _ _ | .invl _ _ _ _ | .send _ _ _ | .sendv _ _ _ | .cpy _ _ _ _ _ _ _ _ _ | .cpy2d _ _ _ _ _ _ _ _ _
  | .cpyg _ _ _ _ _ _ _ _ _ _ | .cpys _ _ _ _ _ _ _ _ _ _ | .cpyred _ _ _ _ _ _ _ _ _ _ | .cpyring _ _ _ _ _ _ _ _ _ | .cpyfill _ _ _ _ _ _ _ _ _
  | .cpyrem _ _ _ _ _ _ _ _ _ _ | .vld _ _ _ _ _ _ _ | .vst _ _ _ _ _ _ _ | .vlds _ _ _ _ _ _ _ | .vsts _ _ _ _ _ _ _ | .vgather _ _ _ _ _ _ _
  | .vscatter _ _ _ _ _ _ _ | .wcas128 _ _ _ _ _ _ | .wswap128 _ _ _ _ _ _ | .wamofadd _ _ _ _ _ _ | .wamomin _ _ _ _ _ _ | .wamomax _ _ _ _ _ _ => true
  | _ => false

/-- It waits at the strand for its older store parts alone (R212). -/
def storeWait (i : Instr) : Bool := match i with | .tlbinvPage _ _ _ | .tlbinvSpace _ _ | .tlbinvAll _ => true | _ => false
/-- It waits at the strand for its older accesses (R175, R177). -/
def releaseOp (i : Instr) : Bool :=
  match i with
  | .send _ _ _ | .sendv _ _ _ | .cpy _ _ _ _ _ _ _ _ _ | .cpy2d _ _ _ _ _ _ _ _ _ | .cpyg _ _ _ _ _ _ _ _ _ _ | .cpys _ _ _ _ _ _ _ _ _ _
  | .cpyred _ _ _ _ _ _ _ _ _ _ | .cpyring _ _ _ _ _ _ _ _ _ | .cpyfill _ _ _ _ _ _ _ _ _ | .cpyrem _ _ _ _ _ _ _ _ _ _ | .maccst _ _ _ _ _ _ _
  | .maccld _ _ _ _ _ _ | .wake _ _ | .wakeStrand _ _ | .codesync _ _ _ _ | .qpop _ _
  | .qsignal _ _ _ _ _ | .qsignalAdd _ _ _ _ _ => true
  | _ => false

/-- The segment of a store or line operation. -/
def storeSeg (i : Instr) : Option SegIx :=
  match i with
  | .st _ _ seg _ _ _ _ | .flushl _ seg _ _ | .invl _ seg _ _ | .vst _ _ _ seg _ _ _ | .vsts _ _ _ seg _ _ _ | .vscatter _ _ _ seg _ _ _ => some seg
  | _ => none

/-- An effect that an abort cannot undo, with the class of the wait for it (R295). -/
def irrevOp (i : Instr) : Option Cls :=
  match i with
  | .amoadd _ _ _ _ _ _ _ | .amoswap _ _ _ _ _ _ _ | .amocas _ _ _ _ _ _ _ | .amoand _ _ _ _ _ _ _ | .amoor _ _ _ _ _ _ _ | .amoxor _ _ _ _ _ _ _
  | .amomin _ _ _ _ _ _ _ | .amomax _ _ _ _ _ _ _ | .amominn _ _ _ _ _ _ _ | .amomaxn _ _ _ _ _ _ _ | .amofadd _ _ _ _ _ _ | .cpy _ _ _ _ _ _ _ _ _
  | .cpy2d _ _ _ _ _ _ _ _ _ | .cpyg _ _ _ _ _ _ _ _ _ _ | .cpys _ _ _ _ _ _ _ _ _ _ | .cpyred _ _ _ _ _ _ _ _ _ _ | .cpyring _ _ _ _ _ _ _ _ _
  | .cpyfill _ _ _ _ _ _ _ _ _ | .cpyrem _ _ _ _ _ _ _ _ _ _ | .wcas128 _ _ _ _ _ _ | .wswap128 _ _ _ _ _ _ | .wamofadd _ _ _ _ _ _
  | .wamomin _ _ _ _ _ _ | .wamomax _ _ _ _ _ _ | .mma _ _ _ _ _ _ _ _ | .mmag _ _ _ _ _ _ _ _ _ | .mzero _ _ | .maccst _ _ _ _ _ _ _
  | .maccld _ _ _ _ _ _ | .mringcfgSet _ _ _ | .mringcfgPub _ _ _ | .mringcfgGet _ _ _ | .mstat _ _ _ | .mwait _ _ | .setseg _ _ _ _
  | .getseg _ _ _ _ | .tlbinvPage _ _ _ | .tlbinvSpace _ _ | .tlbinvAll _ | .park _ _ _ | .wake _ _ | .wakeStrand _ _ | .ctxsave _ _ _ _ _
  | .ctxload _ _ _ _ _ | .slotswap _ _ _ _ | .slotctl _ _ _ _ | .tret _ | .codesync _ _ _ _ | .xlatinvRange _ _ _ | .xlatinvAll _ | .qwait _ _
  | .qpop _ _ | .qpush _ _ _ | .qsignal _ _ _ _ _ | .qsignalAdd _ _ _ _ _ | .launch _ _ _ | .launchTry _ _ _ | .wqmap _ _ | .wqmapQ _ _ _
  | .wqunmap _ _ | .rankset _ _ _ | .wpset _ _ _ _ _ | .wpsetPhys _ _ _ _ => some .mem
  | .send _ _ _ | .sendv _ _ _ | .recv _ _ _ | .recvv _ _ _ | .tryrecv _ _ _ _ | .barArrive _ _ _ _ | .barWait _ _ _ _ _ | .barSync _ _ _ _
  | .barStat _ _ _ | .inboxWait _ _ | .inboxPoll _ _ => some .msg
  | _ => none

/-- The class of an instruction whose own wait is not over (R72). -/
def blockCls (i : Instr) : Cls :=
  match i with
  | .send _ _ _ | .sendv _ _ _ | .recv _ _ _ | .recvv _ _ _ | .barArrive _ _ _ _ | .barWait _ _ _ _ _ | .barSync _ _ _ _ | .inboxWait _ _ | .tdone _
  | .ttsWait _ _ | .qwait _ _ | .launch _ _ _ | .launchTry _ _ _ | .wqmap _ _ | .wqmapQ _ _ _ => .msg
  | _ => .mem

/-! ### Conditions -/

/-- A register that a scoreboard can hold: not s0 or k0 (R45). -/
def RegName.real : RegName → Bool
  | .s r => r != 0
  | .k r => r != 0
  | .v _ => true
/-- A scalar or predicate register other than s0 and k0, whose old value the undo window saves (R70). -/
def RegName.saved : RegName → Bool
  | .s r => r != 0
  | .k r => r != 0
  | .v _ => false
/-- The class of a wait for an operation (R72). -/
def Op.cls (o : Op) : Cls :=
  match o.what with
  | .ship _ _ => .ship
  | .wide _ _ _ _ _ => .ship
  | .barArrive _ _ true _ => .msg
  | .launch _ _ => .msg
  | _ => .mem
/-- The class of a wait for the oldest of some operations. -/
def oldestCls : List Op → Cls
  | [] => .mem
  | o :: _ => o.cls
/-- The class of a wait for the oldest of some operations and some fixed-latency results, if there are any (R72). -/
def oldestOf (ops : List Op) (fx : List Fixed) : Option Cls :=
  match ops, fx with
  | [], [] => none
  | [], _ => some .mem
  | o :: _, _ => some (if fx.any (fun f => decide (f.q < o.q)) then .mem else o.cls)
/-- A long-latency operation (R67). -/
def OpWhat.long : OpWhat → Bool
  | .store => false | .line _ => false | .marker => false | .scFence => false | .acqFence => false | .ringHold => false | .loaded => false
  | .codesync _ _ => false | .xlatinv _ _ _ => false | .launch _ _ => false | _ => true
/-- A shipped operation. -/
def OpWhat.shipped : OpWhat → Bool
  | .ship _ _ => true | .wide _ _ _ _ _ => true | _ => false
/-- `some c` where a condition holds. -/
def whenCls (b : Bool) (c : Cls) : Option Cls := if b then some c else none

/-- The registers that an instruction of this strand reads or writes; TDONE outside a task reads the frame (R290). -/
def Strand.touches (m : Strand) (i : Instr) : List RegName :=
  match i with
  | .tdone _ => if m.task.isSome then [] else [.s 29, .s 30, .s 31]
  | _ => Machine.touches i
/-- A register that the instruction names is pending (R67). -/
def regHold (m : Strand) (cycle : Nat) (i : Instr) : List (Option Cls) :=
  ((m.touches i).filter RegName.real).map (fun r =>
    match m.ops.find? (fun o => o.dsts.contains r) with
    | some o => some (if o.what.shipped then .ship else .mem)
    | none => whenCls ((m.pendingFixed cycle).any (fun f => f.reg == r)) .mem)
/-- A BAR.STAT of a strand in the barrier's home cluster: a read of 1 cycle and no long-latency operation (R189). -/
def homeStat (s : State) (m : Strand) (i : Instr) : Bool :=
  match i with
  | .barStat _ n _ => (match s.troupe? m.troupe, s.barrier? m.troupe n.toNat with | some t, some b => t.barHome b == saPkg m.sa | _, _ => false)
  | _ => false
/-- It starts a long-latency operation at this strand: a heavy strand's own FP64 and transcendental forms have fixed latencies (R67, R189, R224). -/
def startsLong (s : State) (m : Strand) (i : Instr) : Bool := longOp i && !(m.kind == .heavy && shipFp i) && !homeStat s m i
/-- The 4 operations of the strand and the 16 shipped instructions of its core (R67, R72). -/
def countHold (s : State) (m : Strand) (i : Instr) : List (Option Cls) :=
  [whenCls (startsLong s m i && decide (4 ≤ (m.ops.filter (fun o => o.what.long)).length)) .mem,
   whenCls (shipOp i && m.kind == .lean && decide (16 ≤ (s.strands.filter (fun x => x.kind == .lean && x.sa / 32 == m.sa / 32)).foldl
     (fun n x => n + (x.ops.filter (fun o => o.what.shipped)).length) 0)) .ship]
/-- The instruction takes an entry of the store queue (R70, R158). -/
def takesEntry (m : Strand) (i : Instr) : Bool :=
  match i with
  | .vst _ _ _ _ k _ _ | .vsts _ _ _ _ k _ _ | .vscatter _ _ _ _ k _ _ => m.getK k != 0
  | .st _ _ _ _ _ _ _ => true
  | .flushl _ seg _ _ | .invl _ seg _ _ => (m.getSeg seg).kind == 1
  | .fence _ k _ => k == 1 || k == 2
  | _ => false
/-- The undo window: what does not enter it, its 8 register values and its 4 stores (R70). -/
def windowHold (m : Strand) (i : Instr) : List (Option Cls) :=
  match m.ops.find? (fun o => o.trappable) with
  | none => []
  | some o =>
    let young := m.ops.filter (fun x => decide (o.q < x.q))
    let pending := ((young.filter (fun x => !x.what.shipped)).flatMap (fun x => x.dsts)).filter RegName.saved
    let mine := if shipFp i && m.kind == .lean then [] else (writes i).filter RegName.saved
    [whenCls (waitsConfirm i) (oldestCls (m.ops.filter (fun x => x.trappable))),
     whenCls (!mine.isEmpty && decide (8 < (m.undo.filter (fun u => decide (o.q < u.q))).length + pending.length + mine.length)) o.cls,
     whenCls (takesEntry m i && decide (4 ≤ (young.filter (fun x => x.what.queued)).length)) o.cls]
/-- The 8 entries of the store queue (R70). -/
def queueHold (m : Strand) (i : Instr) : List (Option Cls) :=
  [whenCls (takesEntry m i && decide (8 ≤ (m.ops.filter (fun o => o.what.queued && o.stage != .away)).length)) .mem]
/-- A V-MEM instruction with no active lane: it orders nothing and is ordered by nothing (R159, R160). -/
def noLane (m : Strand) (i : Instr) : Bool :=
  match i with
  | .vld _ _ _ _ k _ _ | .vst _ _ _ _ k _ _ | .vlds _ _ _ _ k _ _ | .vsts _ _ _ _ k _ _ | .vgather _ _ _ _ k _ _ | .vscatter _ _ _ _ k _ _ => m.getK k == 0
  | _ => false
/-- The segment and the base register of a wide atomic. -/
def wideAddr (i : Instr) : Option (SReg × SegIx) :=
  match i with
  | .wcas128 _ a g _ _ _ | .wswap128 _ a g _ _ _ | .wamofadd _ a g _ _ _ | .wamomin _ a g _ _ _ | .wamomax _ a g _ _ _ => some (a, g)
  | _ => none
/-- A CPY form. -/
def copyOp (i : Instr) : Bool :=
  match i with
  | .cpy _ _ _ _ _ _ _ _ _ | .cpy2d _ _ _ _ _ _ _ _ _ | .cpyg _ _ _ _ _ _ _ _ _ _ | .cpys _ _ _ _ _ _ _ _ _ _ | .cpyred _ _ _ _ _ _ _ _ _ _
  | .cpyring _ _ _ _ _ _ _ _ _ | .cpyfill _ _ _ _ _ _ _ _ _ | .cpyrem _ _ _ _ _ _ _ _ _ _ => true
  | _ => false
/-- Where a global access of a strand lies: its location, or before its confirmation the one that its translation gives now. -/
def State.lies (s : State) (m : Strand) (x : Access) : Access :=
  { x with loc := match x.loc with | some l => some l | none => (s.leafOf m.port m.asid m.root x.va).map (fun l => l.addr x.va) }
/-- Older store parts of the strand that overlap the 16 bytes of a wide atomic, by whatever address (R178). -/
def wideOverlap (s : State) (m : Strand) (i : Instr) : List Op :=
  match wideAddr i with
  | none => []
  | some (a, g) =>
    let w : Access := s.lies m { lane := 0, va := ((m.getSeg g).base + m.getS a).toNat, size := 16, loc := none, region := .priv, data := 0 }
    m.ops.filter (fun o => o.what.storePart && o.kind == 1 && o.accs.any (fun x => (s.lies m (o.reach x)).shares w true))
/-- An older load part with acquire or sc keeps younger accesses back; a release at the strand waits for older ones, in WAIT_MEM if it is a CPY form, a
TLBINV for the older store parts, and a wide atomic for those that it overlaps (R168, R175, R177, R178, R212, R278). -/
def orderHold (s : State) (m : Strand) (i : Instr) : List (Option Cls) :=
  let acq := m.ops.find? (fun o => o.what.loadPart && o.ord.getLsbD 0)
  let older := m.ops.filter (fun o => o.what.mem)
  let rel := match i with
    | .wcas128 _ _ _ ord _ _ | .wswap128 _ _ _ ord _ _ | .wamofadd _ _ _ ord _ _ | .wamomin _ _ _ ord _ _ | .wamomax _ _ _ ord _ _ => ord.getLsbD 1
    | _ => releaseOp i
  [(match acq with | some o => whenCls (memOp i && !noLane m i) o.cls | none => none), whenCls (rel && !older.isEmpty) (if copyOp i then .mem else oldestCls older),
   oldestOf (if storeWait i then m.ops.filter (fun o => o.what.storePart) else []) [], oldestOf (wideOverlap s m i) []]
/-- A shipped operation that can set FFLAGS (R236). -/
def OpWhat.setsFlags : OpWhat → Bool | .ship _ r => r.sets | _ => false
/-- A matrix operation that decodes packed-ternary bytes, and so can set VSTAT.TBAD (R95, R262). -/
def MatWhat.ternary : MatWhat → Bool
  | .mma _ _ _ f _ _ _ => (mmaElems f).1 == .ternary
  | .mmag _ _ _ f _ _ _ _ _ _ => (mmaElems f).1 == .ternary
  | _ => false
/-- FFLAGS and VSTAT are read and written only when every older operation that can set them has returned (R75). -/
def flagHold (m : Strand) (cycle : Nat) (i : Instr) : List (Option Cls) :=
  match i with
  | .getsr _ n _ | .setsr _ n _ =>
    if n == 0x011 then [oldestOf (m.ops.filter (fun o => o.what.setsFlags)) ((m.pendingFixed cycle).filter (fun f => f.fflags))]
    else if n == 0x012 then [oldestOf [] ((m.pendingFixed cycle).filter (fun f => f.vstat)), whenCls (m.mq.any (fun o => o.what.ternary)) .mem]
    else []
  | _ => []
/-- A channel, barrier or inbox instruction whose own wait is not over (R72, R182, R184, R187, R189, R192). -/
def msgHold (s : State) (m : Strand) (i : Instr) : List (Option Cls) :=
  match i with
  | .send _ n _ | .sendv _ n _ => [whenCls ((s.outBind m n.toNat).isSome && m.credits[n.toNat] == 0) .msg]
  | .recv _ n _ | .recvv _ n _ => [whenCls ((s.inBind m n.toNat).isSome && (untaken (m.inPort n)).isEmpty) .msg]
  | .inboxWait _ _ => [whenCls (m.inbox.all (fun e => e.taken.isSome)) .msg]
  | .barArrive _ n _ _ | .barSync _ n _ _ =>
    [match s.barrier? m.troupe n.toNat with
     | some b => whenCls (b.member m && (b.mustWait m.vcid (saPkg m.sa) || m.arriving n.toNat)) .msg
     | none => none]
  | .barWait _ a n _ _ =>
    [match s.barrier? m.troupe n.toNat with
     | some b => whenCls (!m.ops.any (fun o => o.dsts.contains (.s a)) && !passed (b.genAt (saPkg m.sa)) ((m.getS a).setWidth 16)) .msg
     | none => none]
  | _ => []
/-- The first of some classes in the order of R72. -/
def firstCls (cs : List Cls) : Option Cls :=
  if cs.contains .msg then some .msg
  else if cs.contains .ship then some .ship
  else if cs.isEmpty then none else some .mem
/-- The class of the first condition that holds the instruction, in the order of R72. -/
def hazard (s : State) (i : Instr) : Option Cls :=
  let m := s.me
  firstCls ((regHold m s.cycle i ++ countHold s m i ++ windowHold m i ++ queueHold m i ++ orderHold s m i ++ flagHold m s.cycle i ++
    msgHold s m i).filterMap id)
/-- The registers that a CPY form reads: its own checks come before its other waits (R278). -/
def copyReads (s : State) (i : Instr) : Option Cls := if copyOp i then firstCls ((regHold s.me s.cycle i).filterMap id) else none
/-- The conditions that come before the wait of a task: for a CPY form its older accesses come after it (R278). -/
def firstHazard (s : State) (i : Instr) : Option Cls :=
  let m := s.me
  if copyOp i then firstCls ((regHold m s.cycle i ++ windowHold m i).filterMap id) else hazard s i

/-! ### Tasks (R295, R296) -/

/-- The class of the wait of an instruction that makes its task irrevocable, at this strand. -/
def irrevCls (m : Strand) (i : Instr) : Option Cls :=
  match storeSeg i with
  | some g => if decide (2 ≤ (m.getSeg g).kind) && takesEntry m i then some .mem else none
  | none => match i with
    | .halt _ => some .mem
    | _ => irrevOp i

end Sys2Proof.Machine
end

