-- ==== Sys2Proof/Machine/Issue.lean ====
section
/-! DEFINITION. A strand's turn: the events that are taken before an issue, fetch, and the issue itself (R64 to R72, R203, R206, R226,
R295, R315, R320, R371 to R373). -/

namespace Sys2Proof.Machine

/-! ### Before issue (R206) -/

/-- A turn that ends without an issue, or goes on. -/
inductive Turn where
  | over (s : State) (c : Cls)
  | go (s : State)

/-- The strand has no operation outstanding and no exception held. -/
def Strand.drained (m : Strand) : Bool := m.ops.isEmpty && m.held.isEmpty
/-- The strand waits until it is drained, then `f` happens in the turn. -/
def State.whenDrained (s : State) (c : Cls) (f : State) : Turn := if s.me.drained then .over f c else .over s (oldestCls s.me.ops)
/-- The turn before an issue: an aborted task's strand stops, and a BAR.SYNC whose target has passed ends (R190, R303). -/
def State.openTurn (s : State) : State :=
  let s1 := match s.taskOf s.me with
    | some (_, k) => if k.ending.isSome then s.stopAborted s.me.sa else s
    | none => s
  s1.endSync s1.me.sa
/-- A blackout still lets the strand issue in this cycle (R372). -/
def State.grace (s : State) : Bool :=
  s.stopAsked s.me == some 3 &&
  (match (s.cluster (saPkg s.me.sa)).blackout with
   | some b => if s.me.kind == .heavy then decide (s.cycle ≤ b) else decide (s.cycle ≤ b + 2)
   | none => false)
/-- The end of an open step: SINGLE_STEP outside a handler, which stops a speculative task, or a stop with REASON 2 (R305, R373). -/
def State.endStep (s : State) (trap : Bool) : State :=
  if trap && !s.me.h then (s.mod (fun m => m.modDebug (fun d => { d with stepping := none }))).takePrecise s.me s.me.pc .singleStep 0 0
  else s.stopNow s.me 2
/-- The asynchronous trap of the current strand is delivered. -/
def State.deliverAsync (s : State) : State :=
  match execAsyncTrapDelivery s.me.sa s with
  | .next t => t
  | _ => s
/-- The operations and fixed-latency results that a cue instruction waits for (R68). -/
def Strand.cueWait (m : Strand) (cycle : Nat) : Option Cls := oldestOf m.ops (m.pendingFixed cycle)
/-- The class of a wait at a fence: that of the oldest operation it waits for (R171). -/
def Strand.fenceCls (m : Strand) (o : Op) : Cls :=
  match o.what with
  | .acqFence => oldestCls (m.ops.filter (fun x => decide (x.q < o.q) && x.what.loadPart))
  | .scFence => oldestCls (m.ops.filter (fun x => decide (x.q < o.q) && x.what.mem))
  | _ => o.cls
/-- What keeps the strand from any issue: a walk, a delay, forfeited turns, a held exception, a cue, a handler entered by an asynchronous trap, a
fence, a barrier, a launch (R68, R71, R90, R149, R171, R190, R201, R203, R226). While an exception that an operation has reported is held for an older
unconfirmed one, younger instructions do not issue either, which R71 says only of a trap raised at issue (DESIGN CHOICE, entry 75 of the log). -/
def State.waitTurn (s : State) : Turn :=
  let m := s.me
  if m.xwait.isSome then .over s .xlate
  else if s.cycle < m.readyAt then .over s m.readyCls
  else if 0 < m.forfeit then .over (s.mod (fun x => { x with forfeit := x.forfeit - 1 })) m.forfeitCls
  else if !m.held.isEmpty then .over s (oldestCls (m.ops.filter (fun o => o.trappable)))
  else if m.drain && (m.cueWait s.cycle).isSome then .over s .xlate
  else if m.cue && (m.cueWait s.cycle).isSome then .over s ((m.cueWait s.cycle).getD .mem)
  else match m.ops.find? (fun o => match o.what with
      | .scFence => true | .acqFence => true | .ringHold => true | .codesync _ _ => true | .xlatinv _ _ _ => true
      | .barArrive _ _ true _ => true | .launch _ _ => true | _ => false) with
    | some o => .over s (m.fenceCls o)
    | none => .go (s.mod (fun x => { x with cue := false, drain := false, entry := none }))

/-! ### Fetch (R315, R317, R320) -/

/-- The words of the next instruction, or the end of the turn. -/
inductive Fetched where
  | over (s : State) (c : Cls)
  | words (s : State) (w w1 : Nat)

/-- The translation of a code address becomes the most recently used (R396). -/
def State.useCode (s : State) (pc : Word) : State :=
  let m := s.me
  let va := m.code.base.toNat + pc.toNat
  let asid := if m.code.sys then systemSpace else m.asid
  match (s.port m.port).find asid va with
  | some l => s.modPort m.port (fun p => p.use asid va l)
  | none => s
/-- The word at a virtual PC in the block the strand runs. -/
def Strand.blockWord (m : Strand) (pc : Word) : Option Nat :=
  match m.block with
  | some b => b.words[(pc - b.base).toNat / 4]?
  | none => none
/-- The block of a new entry: it is ready now or 30 cycles later, or it is waited for (R320). Whether the L1I still holds a block is outside the
contract (R318). The page of a second word that straddles the block's end is found first, by a walk where the port misses it (R317); a translation that
was made with that word from another page is not this block's. -/
def State.enterBlock (s : State) (pa : Nat) (region : Region) : Fetched :=
  let m := s.me
  let die := saDie m.sa
  let key := xkey pa m.kind m.system
  let wait := s.mod (fun x => { x with block := some { base := m.pc, words := [], key := key } })
  let ask := fun (t : State) (tail : Option (Nat × Region)) =>
    Fetched.over ((t.mod (fun x => { x with block := some { base := m.pc, words := [], key := key } })).askBlock die key region tail) .xlate
  match Tab.get? (s.die die).xcache key with
  | some e =>
    let tail := s.tailOf m m.pc pa
    if e.state != .valid then .over wait .xlate
    else if tail.isSome && e.tailPa != tail.map (·.1) then
      ask (s.modDie die (fun d => { d with xcache := Tab.del d.xcache key })) tail
    else
      let s1 := ((s.mod (fun x => { x with block := some (e.block m.pc key) })).useBlock die key).bump 1
      if Config.freeBool s.freeCtr then .words s1 (e.words.headD 0) 0
      else .over (s1.mod (fun x => { x with readyAt := s.cycle + 30, readyCls := .xlate })) .xlate
  | none =>
    match s.straddles m pa, s.tailFetch m m.pc with
    | true, .miss asid root va => .over (s.parkFor .fetch asid root va) .xlate
    | true, .bad _ => ask (s.forgetWalk m) none
    | _, _ => ask s (s.tailOf m m.pc pa)
/-- The first word of the next instruction. -/
def State.fetchFirst (s : State) : Fetched :=
  let m := s.me
  match s.fetchCheck m m.pc with
  | .bad va => .over ((s.forgetWalk m).raise .codeFetch va) .xlate
  | .miss asid root va => .over (s.parkFor .fetch asid root va) .xlate
  | .ok pa region =>
    let s1 := s.useCode m.pc
    if s.lineLost m pa then .over (s1.refetch pa) .xlate
    else match m.blockWord m.pc with
    | some w => .words s1 w 0
    | none =>
      if (match m.block with | some b => b.words.isEmpty | none => false) then .over s1 .xlate else s1.enterBlock pa region
/-- The second word in the block, if the block has it: one in the next 64 KiB region must have been read from where the strand's port finds it. -/
def Strand.secondWord (m : Strand) (pa : Nat) : Option Nat :=
  if pa % 65536 = 0 then
    (match m.block with | some b => if b.tail == some pa then m.blockWord (m.pc + 4) else none | none => none)
  else m.blockWord (m.pc + 4)
/-- The second word; one that straddled a page the prompter could not reach is read now (entry 41 of the log). -/
def State.fetchSecond (s : State) (w : Nat) : Fetched :=
  let m := s.me
  match s.fetchCheck m (m.pc + 4) with
  | .bad va => .over ((s.forgetWalk m).raise .codeFetch va) .xlate
  | .miss asid root va => .over (s.parkFor .fetch asid root va) .xlate
  | .ok pa region =>
    let s1 := s.useCode (m.pc + 4)
    if s.lineLost m pa then .over (s1.refetch pa) .xlate
    else match m.secondWord pa, (if m.kind == .sm then none else s.poisoned pa 4 (fun _ => false)) with
    | some w1, _ => .words s1 w w1
    | none, some p => .over (s1.machineCheck m.sa (BitVec.ofNat 64 p)) .xlate
    | none, none => .words (s1.watchCode (saDie m.sa) region (if m.kind == .sm then [] else [pa])) w (s.codeAt (saDie m.sa) m.kind pa)
/-- The words of the next instruction (R29, R315). -/
def State.fetch (s : State) : Fetched :=
  match s.fetchFirst with
  | .over t c => .over t c
  | .words t w _ => if wordCount w = 2 then t.fetchSecond w else .words t w 0

/-! ### The events of R206 -/

/-- The next instruction waits under R70. -/
noncomputable def State.waitsWindow (s : State) : Bool :=
  s.me.window && (match s.waitTurn with
    | .over _ _ => false
    | .go t => match t.fetch with
      | .over _ _ => false
      | .words _ w w1 => match decode w w1 with
        | none => false
        | some i => (windowHold s.me i).any (·.isSome))
/-- An asynchronous trap is taken at a turn at which no precise exception is held and no instruction waits under R70 (R203, entry 55 of the log). -/
noncomputable def State.asyncTurn (s : State) : Turn :=
  if s.me.held.isEmpty && !s.waitsWindow then .over s.deliverAsync .xlate
  else .over s (oldestCls (s.me.ops.filter (fun o => o.trappable)))
/-- The events of R206 at the current strand's turn; a save that has begun takes the slot. A parked strand that holds a wake token leaves PARK. -/
noncomputable def State.eventTurn (s : State) : Turn :=
  let m := s.me
  let async := if m.run == .idle then none else s.asyncNext m
  let saving := match m.swap with | some r => r.saving | none => false
  if m.dbg.stopped || m.run == .vacant || m.run == .dead || saving then .over s .vacant
  else if m.deliverable.isSome then .over (s.deliver m.sa) .xlate
  else if (match async with | some (.machineCheck, _) => true | _ => false) then s.asyncTurn
  else match m.stepDone with
  | some t => s.whenDrained .vacant (s.endStep t)
  | none =>
    if (s.stopAsked m).isSome && !s.grace then s.whenDrained .vacant (s.stopNow m ((s.stopAsked m).getD 0))
    else if async.isSome then s.asyncTurn
    else if m.swap.isSome then .over s .vacant
    else if m.run == .parked then
      if m.token then .go (s.mod (fun x => { x.unpark s.cycle 1 with token := false })) else .over s .vacant
    else if m.run == .idle then .over s .msg
    else .go s

/-! ### Issue -/

/-- What the turn counts as. -/
def State.counted (s : State) (c : Cls) : State := { s with verdict := some c }
/-- The strand has issued an instruction since `m`. -/
def issuedSince (m x : Strand) : Bool := m.nextQ != x.nextQ || m.held.length != x.held.length || m.run != x.run
/-- The instruction issued since `m` and raised no trap. -/
def cleanSince (m x : Strand) : Bool := issuedSince m x && m.held.length == x.held.length && (m.h || !x.h) && x.run != .dead
/-- The results of a fixed-latency instruction that are not available yet; the normaliser adds two turns (R66, R104). -/
def fixedResults (m x : Strand) (cycle : Nat) (i : Instr) : List Fixed :=
  let slow := x.forfeitQ == m.nextQ && decide (0 < x.forfeit) && x.forfeitCls == .mem
  let n := latency i + (if slow then 2 * m.width else 0)
  if n ≤ 1 then [] else (writes i).map (fun r => { q := m.nextQ, reg := r, due := cycle + n, fflags := setsFflags i, vstat := setsVstat i })
/-- The heavy core has issued in this cycle: the strands behind this one in the round-robin order are not offered it, and the next offer begins behind
this strand (R72, R226). -/
def State.takeHeavy (s : State) (m : Strand) : State :=
  if m.kind == .heavy then s.modCluster (saPkg m.sa) (fun x => { x with
      heavyFree := s.cycle + 1
      rr := (saSlot m.sa + 1) % 4
      passed := BitVec.ofNat 4 ((List.range 4).foldl (fun n i =>
        if (saSlot m.sa + 4 - x.rr % 4) % 4 < (i + 4 - x.rr % 4) % 4 then n + 2 ^ i else n) 0) }) else s
/-- The strand after an issue: pending fixed latencies, and SKID under a blackout. -/
def Strand.afterIssue (m x : Strand) (cycle : Nat) (grace : Bool) (i : Instr) : Strand :=
  { x with
    fixed := (if cleanSince m x then fixedResults m x cycle i else []) ++ x.pendingFixed cycle
    dbg := if grace then { x.dbg with skid := true } else x.dbg }
/-- The class of an instruction's own wait; TDONE first waits as a cue does (R68, R310). -/
def Strand.ownWait (m : Strand) (cycle : Nat) (i : Instr) : Cls :=
  match i with
  | .tdone _ => (m.cueWait cycle).getD .msg
  | _ => blockCls i
/-- The end of the turn in which an instruction was tried: it issued, or its own wait is not over. -/
def State.closeIssue (s : State) (i : Instr) (t : State) : State :=
  if issuedSince s.me t.me then
    (((t.mod (fun x => s.me.afterIssue x s.cycle s.grace i)).takeHeavy s.me).stir s.me.troupe).counted .issued
  else t.counted (if t.me.xwait.isSome then .xlate else s.me.ownWait s.cycle i)
/-- An instruction tried by itself: it raises a trap, it takes effect, or its own wait is not over. -/
inductive Tried where
  | traps | effect | waits
deriving DecidableEq, Repr
/-- The trial of an instruction at the current strand; a trap of a speculative task stops the task, and leaves the strand idle (R305). -/
noncomputable def State.tried (s : State) (i : Instr) : Tried :=
  match exec i s with
  | .next t =>
    if issuedSince s.me t.me = false then .waits
    else if cleanSince s.me t.me = false ∨ (t.me.task.isNone = true ∧ s.me.task.isSome = true ∧ s.speculative s.me = true) then .traps else .effect
  | _ => .traps
/-- An instruction that makes its task irrevocable waits until the task is; its own checks come first. A CPY form waits for that before it waits for
its older accesses and for a place in its engine's queue (R278, R295, R296). -/
noncomputable def State.irrevHold (s : State) (i : Instr) : Option (State × Cls) :=
  match irrevCls s.me i, s.taskOf s.me with
  | some c, some (id, k) =>
    match k.state, s.tried i with
    | .running, .traps => none
    | .running, _ => some (s, c)
    | .nonspec, t =>
      if k.committing then some (s, c)
      else if t = .effect ∨ (t = .waits ∧ copyOp i = true) then some (s.beginIrrevocable s.me.troupe id, c)
      else none
    | _, _ => none
  | _, _ => none
/-- An instruction that nothing holds is executed. -/
noncomputable def State.run (s : State) (i : Instr) : Out :=
  match exec i s with
  | .next t => .next (s.closeIssue i t)
  | .fault f => .fault f
  | .refused r => .refused r
/-- The instruction of the words `w`, `w1` is held, or executed. A trap stub waits for nothing (R319), and a CPY form that its own checks stop waits for
its registers alone (R278). -/
noncomputable def State.issue (s : State) (w w1 : Nat) (i : Instr) : Out :=
  if stubWord s.me.kind s.me.system w w1 then s.run i
  else match copyReads s i with
  | some c => .next (s.counted c)
  | none => if copyOp i = true ∧ s.tried i = .traps then s.run i else match firstHazard s i with
    | some c => .next (s.counted c)
    | none => match s.irrevHold i with
      | some (t, c) => .next (t.counted c)
      | none => match hazard s i with
        | some c => .next (s.counted c)
        | none => s.run i
/-- A word that no table assigns raises ILLEGAL (R40, R42). -/
def State.unassigned (s : State) (w w1 : Nat) : State :=
  ((((s.raise .illegal (words w w1)).mod (fun x => if s.grace then x.modDebug (fun d => { d with skid := true }) else x)).takeHeavy s.me).stir
    s.me.troupe).counted .issued
/-- The turn of the current strand, once no event and no wait stands before its next instruction. -/
noncomputable def State.fetchIssue (s : State) : Out :=
  match s.fetch with
  | .over t c => .next (t.counted c)
  | .words t w w1 => match decode w w1 with
    | none => .next (t.unassigned w w1)
    | some i => t.issue w w1 i

/-- A cycle of the heavy core that is not offered to the strand: an instruction has issued in it (R226). -/
def State.taken (s : State) : Bool := s.me.kind == .heavy && (s.cluster (saPkg s.me.sa)).heavyFree == s.cycle + 1
/-- What the current strand does in a cycle. -/
noncomputable def State.act (s : State) : Out :=
  if s.me.dueAt s.cycle = false ∨ s.taken = true then .next { s with verdict := none }
  else match s.openTurn.eventTurn with
    | .over t c => .next (t.counted c)
    | .go t => match t.waitTurn with
      | .over u c => .next (u.counted c)
      | .go u => u.fetchIssue

/-! ### The ready histogram (R72) -/

/-- The strand would issue at its next turn, as things stand. -/
noncomputable def State.wouldIssue (s : State) (m : Strand) : Bool :=
  match ({ (if m.sa = s.me.sa then s else s.focus m) with cycle := m.nextTurn (s.cycle + 1), verdict := none, turnsOver := false } : State).act with
  | .next t => t.verdict == some .issued
  | _ => false
/-- One more ready strand on a core. -/
def Cluster.oneReady (core : Nat) (x : Cluster) : Cluster := { x with ready := Tab.put x.ready core (Tab.getD x.ready core 0 + 1) }
/-- At the end of a cycle the ready strands of each core are found; a stage manager keeps no histogram. -/
noncomputable def State.foresee (s : State) : State :=
  (s.strands.filter (fun m => m.kind != .sm && m.run != .vacant && s.wouldIssue m)).foldl
    (fun t m => t.modCluster (saPkg m.sa) (Cluster.oneReady (saCore m.sa))) s

end Sys2Proof.Machine
end

