-- ==== Sys2Proof/Machine/Step.lean ====
section
/-! DEFINITION. One step of the module: the first event that is due, or else the turn of the current strand. -/

namespace Sys2Proof.Machine

/-- The current strand's part of a cycle and the end of its turn, or the end of the cycle. -/
noncomputable def State.turnStep (s : State) : Host.Outcome State Fault Refusal :=
  if s.turnsOver then exec .turn s.foresee
  else match s.act with
    | .next t => exec .turn t
    | .fault f => .fault f
    | .refused r => .refused r

/-- One step. -/
noncomputable def step (s : State) : Host.Outcome State Fault Refusal :=
  match s.agenda with
  | [] => s.turnStep
  | (due, e) :: rest => if due ≤ s.cycle then exec e { s with agenda := rest } else s.turnStep

/-- The kind of strand that executes a word: heavy for major 0x34 and for GSHARE and MSTAT, a stage manager's for major 0x3B and the
context forms, else lean. -/
def fetchKind (w : Nat) : Kind :=
  let j := fld w 26 6
  let minor := fld w 4 7
  if j = 0x34 ∨ (j = 0x0F ∧ fld w 2 11 = 0x20 ∧ fld w 13 3 < 2) then .heavy
  else if j = 0x3B ∨ (j = 0x38 ∧ ((5 ≤ minor ∧ minor ≤ 8) ∨ (minor = 4 ∧ fld w 1 1 = 1))) then .sm
  else .lean
/-- The slot of that kind on die 0 whose turn falls in a cycle. -/
def fetchSlot (k : Kind) (cycle : Nat) : Nat :=
  match k with
  | .lean => mkSa 0 0 0 (cycle % 4)
  | .heavy => mkSa 0 0 48 0
  | .sm => mkSa 0 15 63 (cycle % 32)
/-- The rotation width of that kind. -/
def fetchWidth : Kind → Nat | .lean => 4 | .heavy => 0 | .sm => 32
/-- A system code segment of one page at base 0. -/
def fetchSeg : Seg := { base := 0, desc := BitVec.ofNat 64 (2 ^ 48 + 2 ^ 44 + 2 ^ 43 + 2 ^ 16) }
/-- Its page, at physical address 0x10000. -/
def fetchLeaf : Leaf :=
  { pa := 0x10000, large := false, x := true, w := false, rd := false, region := .priv, cmask := BitVec.allOnes 12, dmask := BitVec.allOnes 8 }

/-- `s` with an instruction stored where step fetches next: a strand that its kind of word runs on holds a vcore at PC 0 of a system code
segment, the translation of its page is known, its words lie in memory and in the strand's block, and the turn is the strand's. -/
def State.withFetchWord (s : State) (nbits w : Nat) : State :=
  let x := w % 2 ^ nbits
  let k := fetchKind (x % 2 ^ 32)
  let sa := fetchSlot k s.cycle
  let ws := [x % 2 ^ 32, x / 2 ^ 32 % 2 ^ 32]
  let m : Strand := { Strand.fresh sa k (fetchWidth k) with
    run := .active, codeSeg := fetchSeg, trapSeg := fetchSeg, block := some { base := 0, words := ws, key := xkey 0x10000 k true } }
  let s1 : State := { s with
    agenda := s.agenda.filter (fun e => decide (s.cycle < e.1))
    others := Tab.del (if s.me.sa = sa then s.others else Tab.put s.others s.me.sa s.me) sa
    me := m
    turnsOver := false
    mem := memWrite s.mem 0x10000 8 x }
  let s2 := s1.modPort m.port (fun p => p.use systemSpace 0 fetchLeaf)
  s2.modCluster (saPkg sa) (fun c => { c with heavyFree := 0 })

end Sys2Proof.Machine
end

