-- ==== Sys2Proof/Safety.lean ====
section
/-! DEFINITION. What counts as a safe run, and the words the statements are written in: what an instruction wrote and
what it left alone. -/

namespace Sys2Proof

open Machine

/-- A step goes on: it ends in a next state. -/
def goesOn (o : Out) : Bool :=
  match o with
  | .next _ => true
  | .fault _ => false
  | .refused _ => false

/-- `s` with the current strand past an instruction of `n` bytes: PC, program order and the cue bit (R68); all else as it was. -/
def movedOn (s : State) (n : Nat) (c : Bool) : State :=
  { s with me := { s.me with pc := s.me.pc + BitVec.ofNat 64 n, nextQ := s.me.nextQ + 1, cue := s.me.cue || c } }

/-- Every byte of memory reads as before, and so does every private line in a cache. -/
def SameMemory (s t : State) : Prop := (∀ a, memGet t.mem a = memGet s.mem a) ∧ t.l1d = s.l1d ∧ t.l2 = s.l2

/-- Only the copies of one private line in a core's L1D and in its die's L2 may differ: every byte of memory and every other line of every cache reads
as before (R180). -/
def OnLine (s t : State) (sa n : Nat) : Prop :=
  (∀ a, memGet t.mem a = memGet s.mem a) ∧ (∀ sb k, ¬ (coreOf sb = coreOf sa ∧ k = n) → t.inL1 sb k = s.inL1 sb k) ∧
  (∀ d k, ¬ (d = saDie sa ∧ k = n) → t.inL2 d k = s.inL2 d k)

/-- The copy of a private line that a core's access takes: that of its L1D, else that of its die's L2 or, where that holds none or a clean one, of the
LLC (R151, R180). -/
def Fetched (s : State) (sa n : Nat) (y : Line) : Prop :=
  s.inL1 sa n = some y ∨ (s.inL1 sa n = none ∧ ((∃ z, s.inL2 (saDie sa) n = some z ∧ y = { z with dirty := 0 }) ∨
    ((∀ z, s.inL2 (saDie sa) n = some z → z.dirty = 0) ∧ y = memLine s.mem n)))

/-- The value of `n` bytes of a line. -/
def lineRead (y : Line) (loc : Nat) : Nat → Nat
  | 0 => 0
  | n + 1 => (y.byte loc).toNat + 256 * lineRead y (loc + 1) n

/-- A private store: the core's L1D holds the line with the stored bytes, not written back, and nothing else reads differently (R151, R180). -/
def PrivateStored (s t : State) (sa l n v : Nat) : Prop :=
  OnLine s t sa (l / 128) ∧ ∃ y z, Fetched s sa (l / 128) y ∧ t.inL1 sa (l / 128) = some z ∧
    (∀ x, l ≤ x → x < l + n → z.dirtyAt x = true ∧ z.byte x = BitVec.ofNat 8 (v / 2 ^ (8 * (x - l)))) ∧
    ∀ x, x / 128 = l / 128 → (x < l ∨ l + n ≤ x) → z.byte x = y.byte x

/-- A write below a core's L1D: that holds the line no more, and its die's L2 has the written bytes (R155, R280). -/
def WrittenBelow (s t : State) (sa l n v : Nat) : Prop :=
  OnLine s t sa (l / 128) ∧ t.inL1 sa (l / 128) = none ∧ ∃ z, t.inL2 (saDie sa) (l / 128) = some z ∧ lineRead z l n = v % 2 ^ (8 * n)

/-- The byte of a private line that a core's L1D or its die's L2 has not written back. -/
def unwrittenAt (s : State) (sa x : Nat) : Option Byte :=
  match (s.inL1 sa (x / 128)).filter (fun y => y.dirtyAt x) with
  | some y => some (y.byte x)
  | none => ((s.inL2 (saDie sa) (x / 128)).filter (fun z => z.dirtyAt x)).map (fun z => z.byte x)

/-- The answer is a next state in which s[d] holds `v` (s0 nothing), every other scalar register what it held, and nothing else of
the module differs from `s` but PC, program order, the cue bit, and the entry of s[d] in the undo window (R45, R70). -/
def WroteS (s : State) (d : SReg) (v : Word) (n : Nat) (c : Bool) (o : Out) : Prop :=
  ∃ t, o = .next t ∧ t.me.getS d = (if d = 0 then 0 else v) ∧ (∀ r, r ≠ d → t.me.getS r = s.me.getS r) ∧ SameMemory s t ∧
    t = { s with me := { (movedOn s n c).me with regs := t.me.regs, undo := t.me.undo } } ∧
    t.me.undo = (if d ≠ 0 ∧ s.me.window then { q := s.me.nextQ, reg := .s d, old := s.me.getS d } :: s.me.undo else s.me.undo)

/-- As `WroteS`, for a floating-point result that raises no enabled trap: FFLAGS gain `cond`, SRSEED becomes `g` where there is one,
and a lean or stage-manager strand forfeits two turns where the normaliser is used (R102, R104). -/
def WroteF (s : State) (d : SReg) (v : Word) (cond : BitVec 5) (sub : Bool) (g : Option (BitVec 32)) (c : Bool) (o : Out) : Prop :=
  ∃ t, o = .next t ∧ t.me.getS d = (if d = 0 then 0 else v) ∧ (∀ r, r ≠ d → t.me.getS r = s.me.getS r) ∧ SameMemory s t ∧
    t.me.flags = { fflags := s.me.flags.fflags ||| cond, vstat := s.me.flags.vstat, srseed := g.getD s.me.flags.srseed } ∧
    t.me.forfeit = (if sub = true ∧ s.me.kind ≠ .heavy then 2 else s.me.forfeit) ∧
    t = { s with me := { (movedOn s 4 c).me with
      regs := t.me.regs, undo := t.me.undo, flags := t.me.flags
      forfeit := t.me.forfeit, forfeitCls := t.me.forfeitCls, forfeitQ := t.me.forfeitQ } }

/-- The answer is a next state in which v[d] holds `v`, every other vector register what it held, and nothing else of the module
differs from `s` but PC, program order, the cue bit and, in a vector instruction, the sticky flags `f` (R102, R124). -/
def WroteV (s : State) (d : VReg) (v : VWord) (f : Flags) (n : Nat) (c : Bool) (o : Out) : Prop :=
  ∃ t, o = .next t ∧ t.me.getV d = v ∧ (∀ r, r ≠ d → t.me.getV r = s.me.getV r) ∧ SameMemory s t ∧
    t = { s with me := { (movedOn s n c).me with vregs := t.me.vregs, flags := f } }

/-- As `WroteS`, for a predicate register; k0 keeps reading all-ones (R45). -/
def WroteK (s : State) (d : KReg) (v : BitVec 16) (f : Flags) (n : Nat) (c : Bool) (o : Out) : Prop :=
  ∃ t, o = .next t ∧ t.me.getK d = (if d = 0 then 0xFFFF else v) ∧ (∀ r, r ≠ d → t.me.getK r = s.me.getK r) ∧ SameMemory s t ∧
    t = { s with me := { (movedOn s n c).me with kregs := t.me.kregs, undo := t.me.undo, flags := f } }

/-- The answer is a next state whose PC is `target` and whose s[d] holds `v`, where a register is named; the next instruction is
fetched afresh, by a heavy strand no earlier than 4 cycles later (R64, R226), and nothing else differs. -/
def Jumped (s : State) (target : Word) (link : Option (SReg × Word)) (c : Bool) (o : Out) : Prop :=
  ∃ t, o = .next t ∧ t.me.pc = target ∧ t.me.block = none ∧ SameMemory s t ∧
    (∀ r, t.me.getS r = (match link with
      | some (d, v) => if r = d ∧ d ≠ 0 then v else s.me.getS r
      | none => s.me.getS r)) ∧
    t.me.readyAt = (if s.me.kind = .heavy then s.cycle + 4 else s.me.readyAt) ∧
    t = { s with me := { (movedOn s 4 c).me with
      regs := t.me.regs, undo := t.me.undo, pc := target, block := none, readyAt := t.me.readyAt, readyCls := .mem } }

/-- The answer is a next state that differs from `s` only in PC, program order and the cue bit. -/
def Passed (s : State) (n : Nat) (c : Bool) (o : Out) : Prop := o = .next (movedOn s n c)

/-- The answer is the trap of `cause` with `addr` in TRAPADDR, raised by the current instruction (R71, R201). -/
def Raised (s : State) (cause : Cause) (addr : Word) (o : Out) : Prop := o = .next (s.raise cause addr)

end Sys2Proof
end

