-- ==== Sys2Proof/Certificates/Slice0/Obligations.lean ====
section
/-! DEFINITION. The statements for the provers. -/

open Sys2Proof Sys2Proof.Machine

/-! ### Integer instructions (chapter 03) -/

/-- R76: the register forms of major 0x01 that are arithmetic, logic, shifts and comparisons. -/
def Obligations.IntegerArithmetic : Prop :=
  ∀ (s : State) (d a b : SReg) (c : Bool),
    let x := s.me.getS a
    let y := s.me.getS b
    WroteS s d (x + y) 4 c (exec (.add d a b c) s) ∧
    WroteS s d (x - y) 4 c (exec (.sub d a b c) s) ∧
    WroteS s d (x * y) 4 c (exec (.mul d a b c) s) ∧
    WroteS s d (BitVec.ofInt 64 ((x.toInt * y.toInt) >>> 64)) 4 c (exec (.mulh d a b c) s) ∧
    WroteS s d (BitVec.ofNat 64 ((x.toNat * y.toNat) >>> 64)) 4 c (exec (.mulhn d a b c) s) ∧
    WroteS s d (x &&& y) 4 c (exec (.and d a b c) s) ∧
    WroteS s d (x ||| y) 4 c (exec (.or d a b c) s) ∧
    WroteS s d (x ^^^ y) 4 c (exec (.xor d a b c) s) ∧
    WroteS s d (x &&& ~~~y) 4 c (exec (.andn d a b c) s) ∧
    WroteS s d (x ||| ~~~y) 4 c (exec (.orn d a b c) s) ∧
    WroteS s d (x <<< (y &&& 63)) 4 c (exec (.sll d a b c) s) ∧
    WroteS s d (x >>> (y &&& 63)) 4 c (exec (.srl d a b c) s) ∧
    WroteS s d (x.sshiftRight' (y &&& 63)) 4 c (exec (.sra d a b c) s) ∧
    WroteS s d (x.rotateLeft y.toNat) 4 c (exec (.rol d a b c) s) ∧
    WroteS s d (x.rotateRight y.toNat) 4 c (exec (.ror d a b c) s) ∧
    WroteS s d (if x.slt y then x else y) 4 c (exec (.min d a b c) s) ∧
    WroteS s d (if y.slt x then x else y) 4 c (exec (.max d a b c) s) ∧
    WroteS s d (if x.ult y then x else y) 4 c (exec (.minn d a b c) s) ∧
    WroteS s d (if y.ult x then x else y) 4 c (exec (.maxn d a b c) s) ∧
    WroteS s d (if x.slt y then 1 else 0) 4 c (exec (.slt d a b c) s) ∧
    WroteS s d (if x.ult y then 1 else 0) 4 c (exec (.sltn d a b c) s) ∧
    WroteS s d (if x = y then 1 else 0) 4 c (exec (.seq d a b c) s) ∧
    WroteS s d (if x = y then 0 else 1) 4 c (exec (.sne d a b c) s)

/-- R76, R78: the bit-counting and bit-field forms, bit by bit. -/
def Sys2Proof.Says.IntegerBits : Prop :=
  ∀ (s : State) (d a b : SReg) (c : Bool),
    let x := s.me.getS a
    let y := s.me.getS b
    let pos := (y.extractLsb' 0 6).toNat
    let len := (y.extractLsb' 8 6).toNat + 1
    (∃ n ≤ 64, WroteS s d (BitVec.ofNat 64 n) 4 c (exec (.clz d a c) s) ∧
      (∀ i < n, x.getLsbD (63 - i) = false) ∧ (n < 64 → x.getLsbD (63 - n) = true)) ∧
    (∃ n ≤ 64, WroteS s d (BitVec.ofNat 64 n) 4 c (exec (.ctz d a c) s) ∧
      (∀ i < n, x.getLsbD i = false) ∧ (n < 64 → x.getLsbD n = true)) ∧
    WroteS s d (BitVec.ofNat 64 ((List.range 64).map (fun i => x.toNat / 2 ^ i % 2)).sum) 4 c (exec (.popc d a c) s) ∧
    (∃ v : Word, WroteS s d v 4 c (exec (.brev d a c) s) ∧ ∀ i < 64, v.getLsbD i = x.getLsbD (63 - i)) ∧
    (∃ v : Word, WroteS s d v 4 c (exec (.bswap d a c) s) ∧ ∀ i < 8, v.extractLsb' (8 * i) 8 = x.extractLsb' (8 * (7 - i)) 8) ∧
    (∃ v : Word, WroteS s d v 4 c (exec (.ext d a b c) s) ∧ ∀ i < 64, v.getLsbD i = x.getLsbD (pos + min i (len - 1))) ∧
    (∃ v : Word, WroteS s d v 4 c (exec (.extn d a b c) s) ∧ ∀ i < 64, v.getLsbD i = (decide (i < len) && x.getLsbD (pos + i))) ∧
    (∃ v : Word, WroteS s d v 4 c (exec (.dep d a b c) s) ∧ ∀ i < 64, v.getLsbD i =
      if pos ≤ i ∧ i < pos + len then x.getLsbD (i - pos) else (s.me.getS d).getLsbD i) ∧
    WroteS s d (if s.me.getS d = 0 then y else x) 4 c (exec (.sel d a b c) s)

/-- R79 to R85: the forms with an immediate, LI of two words, and the address forms. -/
def Sys2Proof.Says.IntegerImmediates : Prop :=
  ∀ (s : State) (d a b : SReg) (c : Bool),
    let x := s.me.getS a
    let y := s.me.getS b
    (∀ i : BitVec 15,
      WroteS s d (x + i.signExtend 64) 4 c (exec (.addi d a i c) s) ∧
      WroteS s d (x &&& i.signExtend 64) 4 c (exec (.andi d a i c) s) ∧
      WroteS s d (x ||| i.zeroExtend 64) 4 c (exec (.ori d a i c) s) ∧
      WroteS s d (x ^^^ i.zeroExtend 64) 4 c (exec (.xori d a i c) s) ∧
      WroteS s d (x * i.signExtend 64) 4 c (exec (.muli d a i c) s) ∧
      WroteS s d (BitVec.ofNat 64 (((x.toNat % 2 ^ 32 + (i.signExtend 32).toNat) % 2 ^ 32) * 2 ^ 32 + (s.me.getS d).toNat % 2 ^ 32)) 4 c
        (exec (.lui d a i c) s)) ∧
    (∀ i : BitVec 6,
      WroteS s d (x <<< i) 4 c (exec (.slli d a i c) s) ∧
      WroteS s d (x >>> i) 4 c (exec (.srli d a i c) s) ∧
      WroteS s d (x.sshiftRight' i) 4 c (exec (.srai d a i c) s)) ∧
    (∀ i : BitVec 14,
      WroteS s d (if x.slt (i.signExtend 64) then 1 else 0) 4 c (exec (.slti d a i c) s) ∧
      WroteS s d (if x.ult (i.zeroExtend 64) then 1 else 0) 4 c (exec (.sltni d a i c) s)) ∧
    (∀ i : BitVec 32, WroteS s d (i.signExtend 64) 8 c (exec (.li d i c) s)) ∧
    (∀ n : BitVec 3,
      WroteS s d (x + y * BitVec.ofNat 64 (2 ^ n.toNat)) 4 c (exec (.lea d a b n c) s) ∧
      WroteS s d (x + BitVec.ofNat 64 (y.toNat % 2 ^ 32 * 2 ^ n.toNat)) 4 c (exec (.addx d a b n c) s))

/-- R77: division rounds toward zero; a zero divisor gives the table's result, or INT_DIVZERO where FCTL.IDZE is set. -/
def Obligations.Division : Prop :=
  ∀ (s : State) (d a b : SReg) (c : Bool),
    let x := s.me.getS a
    let y := s.me.getS b
    (y ≠ 0 →
      WroteS s d (x.sdiv y) 4 c (exec (.div d a b c) s) ∧
      WroteS s d (x / y) 4 c (exec (.divn d a b c) s) ∧
      WroteS s d (x.srem y) 4 c (exec (.rem d a b c) s) ∧
      WroteS s d (x % y) 4 c (exec (.remn d a b c) s)) ∧
    (y = 0 → s.me.fctl.getLsbD 9 = false →
      WroteS s d 0xFFFFFFFFFFFFFFFF 4 c (exec (.div d a b c) s) ∧
      WroteS s d 0xFFFFFFFFFFFFFFFF 4 c (exec (.divn d a b c) s) ∧
      WroteS s d x 4 c (exec (.rem d a b c) s) ∧
      WroteS s d x 4 c (exec (.remn d a b c) s)) ∧
    (y = 0 → s.me.fctl.getLsbD 9 = true →
      Raised s .intDivzero x (exec (.div d a b c) s) ∧
      Raised s .intDivzero x (exec (.divn d a b c) s) ∧
      Raised s .intDivzero x (exec (.rem d a b c) s) ∧
      Raised s .intDivzero x (exec (.remn d a b c) s))

/-- R86, R87, R88, R89: where the control transfers go, and the registers they write. -/
def Sys2Proof.Says.ControlTransfer : Prop :=
  ∀ (s : State) (a b : SReg) (c : Bool),
    let x := s.me.getS a
    let y := s.me.getS b
    (∀ i : BitVec 11,
      let there := s.me.pc + 4 * i.signExtend 64
      let past := s.me.pc + 4
      Jumped s (if x = y then there else past) none c (exec (.beq a b i c) s) ∧
      Jumped s (if x = y then past else there) none c (exec (.bne a b i c) s) ∧
      Jumped s (if x.slt y then there else past) none c (exec (.blt a b i c) s) ∧
      Jumped s (if x.slt y then past else there) none c (exec (.bge a b i c) s) ∧
      Jumped s (if x.ult y then there else past) none c (exec (.bltn a b i c) s) ∧
      Jumped s (if x.ult y then past else there) none c (exec (.bgen a b i c) s) ∧
      Jumped s (if x = 1 then past else there) (some (a, x - 1)) c (exec (.dbnz a i c) s)) ∧
    (∀ i : BitVec 25,
      Jumped s (s.me.pc + 4 * i.signExtend 64) none c (exec (.jmp i c) s) ∧
      Jumped s (s.me.pc + 4 * i.signExtend 64) (some (31, s.me.pc + 4)) c (exec (.call i c) s)) ∧
    (x.extractLsb' 0 2 = 0 →
      Jumped s x none c (exec (.jr a c) s) ∧
      Jumped s x (some (31, s.me.pc + 4)) c (exec (.callr a c) s)) ∧
    (x.extractLsb' 0 2 ≠ 0 →
      Raised s .misaligned x (exec (.jr a c) s) ∧
      Raised s .misaligned x (exec (.callr a c) s))

/-! ### State registers, NOP, PAUSE and ILL (R39, R73 to R75, R90) -/

/-- What GETSR returns for the registers that every kind of strand reads without another effect, by number (R73, R74). -/
def Sys2Proof.srValues (s : State) : List (BitVec 12 × Word) :=
  let m := s.me
  [(0x000, BitVec.ofNat 64 s.cycle), (0x001, BitVec.ofNat 64 m.vcid), (0x002, BitVec.ofNat 64 m.troupe),
   (0x003, BitVec.ofNat 64 (m.sa / 2 ^ 5 % 2 ^ 6)), (0x004, BitVec.ofNat 64 (m.sa / 2 ^ 11 % 2 ^ 4)),
   (0x005, BitVec.ofNat 64 (m.sa / 2 ^ 15 % 2 ^ 3)), (0x006, BitVec.ofNat 64 (m.sa % 2 ^ 5)),
   (0x007, BitVec.ofNat 64 m.width), (0x010, m.fctl.zeroExtend 64), (0x011, m.flags.fflags.zeroExtend 64),
   (0x012, m.flags.vstat.zeroExtend 64), (0x013, m.flags.srseed.zeroExtend 64), (0x020, m.tvec), (0x021, m.trapPc),
   (0x022, m.trapCause.zeroExtend 64), (0x023, m.trapAddr), (0x024, m.trapInfo.zeroExtend 64),
   (0x050, BitVec.ofNat 64 (0x03000003 + (Config.imageTted s.image).toNat * 2 ^ 8)),
   (0x051, BitVec.ofNat 64 (m.inbox.filter (fun e => e.taken.isNone)).length),
   (0x060, BitVec.ofNat 64 m.census.issued), (0x061, BitVec.ofNat 64 m.census.mem), (0x062, BitVec.ofNat 64 m.census.ship),
   (0x063, BitVec.ofNat 64 m.census.msg), (0x064, BitVec.ofNat 64 m.census.xlate), (0x065, BitVec.ofNat 64 m.census.vacant)]

/-- The strand's troupe has a task that is not finished (R75, R297). -/
def Sys2Proof.hasTasks (s : State) : Prop := ∃ t, s.troupe? s.me.troupe = some t ∧ ∃ k ∈ t.tasks, k.2.unfinished = true

/-- GETSR: the register's value; TKEY and TKEYID by the strand's task; CFRONT is the published frontier while its troupe has tasks and latches the spawn id
beside it for CFRONTID, and both read all-ones without; GSHARE and MSTAT on a
heavy strand, ILLEGAL elsewhere; an unassigned number is ILLEGAL with the word in TRAPADDR. -/
def Sys2Proof.Says.ReadStateRegister : Prop :=
  ∀ (s : State) (d : SReg) (c : Bool),
    let word := fun n : BitVec 12 => BitVec.ofNat 64 (0x3C000000 + d.toNat * 2 ^ 21 + n.toNat * 2 + c.toNat)
    (∀ p ∈ srValues s, WroteS s d p.2 4 c (exec (.getsr d p.1 c) s)) ∧
    (s.me.task = none →
      WroteS s d (BitVec.allOnes 64) 4 c (exec (.getsr d 0x032 c) s) ∧ WroteS s d 0xFFFFFFFF 4 c (exec (.getsr d 0x033 c) s)) ∧
    (∀ id k, s.taskOf s.me = some (id, k) →
      WroteS s d k.t 4 c (exec (.getsr d 0x032 c) s) ∧ WroteS s d (BitVec.ofNat 64 id) 4 c (exec (.getsr d 0x033 c) s)) ∧
    (∀ t, s.troupe? s.me.troupe = some t → hasTasks s →
      WroteS { s with me := { s.me with frontLatch := t.front.2 } } d t.front.1 4 c (exec (.getsr d 0x030 c) s)) ∧
    (¬ hasTasks s → WroteS { s with me := { s.me with frontLatch := BitVec.allOnes 32 } } d (BitVec.allOnes 64) 4 c (exec (.getsr d 0x030 c) s) ∧
      WroteS s d 0xFFFFFFFF 4 c (exec (.getsr d 0x031 c) s)) ∧
    (hasTasks s → WroteS s d (s.me.frontLatch.zeroExtend 64) 4 c (exec (.getsr d 0x031 c) s)) ∧
    (s.me.kind = .heavy →
      WroteS s d ((s.cluster (saPkg s.me.sa)).gshare.zeroExtend 64) 4 c (exec (.getsr d 0x040 c) s) ∧
      WroteS s d (mstatOf s s.me) 4 c (exec (.getsr d 0x041 c) s)) ∧
    (s.me.kind ≠ .heavy →
      Raised s .illegal (word 0x040) (exec (.getsr d 0x040 c) s) ∧ Raised s .illegal (word 0x041) (exec (.getsr d 0x041 c) s)) ∧
    (∀ n : BitVec 12, n ∉ (srValues s).map (·.1) → n ∉ [0x030, 0x031, 0x032, 0x033, 0x040, 0x041] →
      Raised s .illegal (word n) (exec (.getsr d n c) s))

/-- What SETSR makes of the current strand, for the registers it writes without the system bit and for those it writes with it. -/
def Sys2Proof.srWrites (m : Strand) (v : Word) : List (BitVec 12 × Strand) :=
  [(0x010, { m with fctl := v.truncate 10 }), (0x011, { m with flags := { m.flags with fflags := v.truncate 5 } }),
   (0x012, { m with flags := { m.flags with vstat := v.truncate 2 } }),
   (0x013, { m with flags := { m.flags with srseed := if v.toNat % 2 ^ 32 = 0 then 1 else v.truncate 32 } })]
/-- The registers marked "write system". -/
def Sys2Proof.srSystemWrites (m : Strand) (v : Word) : List (BitVec 12 × Strand) :=
  [(0x020, { m with tvec := BitVec.ofNat 64 (v.toNat / 4 * 4) }), (0x021, { m with trapPc := v }),
   (0x022, { m with trapCause := v.truncate 8 }), (0x023, { m with trapAddr := v }),
   (0x024, { m with trapInfo := if v.getLsbD 0 then v.truncate 24 else 0 }),
   (0x060, { m with census := { m.census with issued := v.toNat } }), (0x061, { m with census := { m.census with mem := v.toNat } }),
   (0x062, { m with census := { m.census with ship := v.toNat } }), (0x063, { m with census := { m.census with msg := v.toNat } }),
   (0x064, { m with census := { m.census with xlate := v.toNat } }), (0x065, { m with census := { m.census with vacant := v.toNat } })]

/-- SETSR: the register's writable bits take s[a] and nothing else changes; a system register outside system code raises PRIVILEGED,
GSHARE on another kind of strand and every read-only or unassigned number ILLEGAL. -/
def Sys2Proof.Says.WriteStateRegister : Prop :=
  ∀ (s : State) (a : SReg) (c : Bool),
    let v := s.me.getS a
    let word := fun n : BitVec 12 => BitVec.ofNat 64 (0x3C002000 + a.toNat * 2 ^ 16 + n.toNat * 2 + c.toNat)
    (∀ p ∈ srWrites s.me v, Passed { s with me := p.2 } 4 c (exec (.setsr a p.1 c) s)) ∧
    (s.me.system = true → ∀ p ∈ srSystemWrites s.me v, Passed { s with me := p.2 } 4 c (exec (.setsr a p.1 c) s)) ∧
    (s.me.system = true → s.me.kind = .heavy → ∃ t, exec (.setsr a 0x040 c) s = .next (movedOn t 4 c) ∧
      ((t.cluster (saPkg s.me.sa)).gshare.toNat = min 16 (v.toNat % 32)) ∧
      (∀ p, p ≠ saPkg s.me.sa → t.cluster p = s.cluster p) ∧ t = { s with clusters := t.clusters }) ∧
    (s.me.system = true → s.me.kind ≠ .heavy → Raised s .illegal (word 0x040) (exec (.setsr a 0x040 c) s)) ∧
    (s.me.system = false → ∀ n ∈ 0x040 :: (srSystemWrites s.me v).map (·.1), Raised s .privileged (word n) (exec (.setsr a n c) s)) ∧
    (∀ n : BitVec 12, n ∉ (srWrites s.me v).map (·.1) → n ∉ 0x040 :: (srSystemWrites s.me v).map (·.1) →
      Raised s .illegal (word n) (exec (.setsr a n c) s))

/-- NOP passes, PAUSE n forfeits the next n turns, or on a heavy strand the next n cycles (R90); ILL raises ILLEGAL with its word in
TRAPADDR (R39, R42). -/
def Sys2Proof.Says.NopPauseIll : Prop :=
  ∀ (s : State) (n : BitVec 12) (c : Bool),
    Passed s 4 c (exec (.nop c) s) ∧
    (s.me.kind ≠ .heavy → Passed { s with me := { s.me with forfeit := n.toNat, forfeitCls := .vacant, forfeitQ := s.me.nextQ } } 4 c
      (exec (.pause n c) s)) ∧
    (s.me.kind = .heavy → Passed { s with me := { s.me with readyAt := s.cycle + n.toNat + 1, readyCls := .vacant, forfeitQ := s.me.nextQ } } 4 c
      (exec (.pause n c) s)) ∧
    Raised s .illegal (BitVec.ofNat 64 c.toNat) (exec (.ill c) s)

/-! ### Taking a trap (R71, R199 to R209, R221) -/

/-- The number of a cause in TRAPCAUSE (R199). -/
def Sys2Proof.causeNumber (k : Cause) : Nat :=
  ([.illegal, .privileged, .segLimit, .segRights, .misaligned, .pageUnmapped, .pageRights, .pageCluster, .regionViolation, .fpInvalid,
    .fpDivzero, .fpOverflow, .fpUnderflow, .fpInexact, .intDivzero, .breakpoint, .watchpoint, .singleStep, .channelUnbound, .ringFault,
    .taskTimestamp, .taskState, .troupeQuiescent, .machineCheck, .codeFetch, .shipUnavailable, .syscall] : List Cause).idxOf k + 1

/-- The strand lives and has nothing older that could still trap, nothing saved or held, nothing taken early, no younger asynchronous trap, and no
speculative task: what its instruction raises is delivered at once and undoes nothing. -/
def Sys2Proof.Settled (s : State) : Prop :=
  s.me.run ≠ .dead ∧ (∀ e, s.me.entry = some e → e.q ≤ s.me.nextQ) ∧
  s.me.ops = [] ∧ s.me.held = [] ∧ s.me.undo = [] ∧ s.me.task = none ∧ s.scOps = [] ∧ (∀ e ∈ s.me.inbox, e.taken = none) ∧
  (∀ i : Fin 8, ∀ e ∈ s.me.inPorts[i], e.taken = none)

/-- R201: a trap of the current instruction outside a handler, with a handler address set, writes TRAPPC, TRAPCAUSE, TRAPADDR and
TRAPINFO, sets the handler state, goes to TVEC, and issues again no earlier than 4 cycles later; every register of the program,
the memory and every other strand stay. -/
def Obligations.TrapEntry : Prop :=
  ∀ (s : State) (cause : Cause) (addr : Word), Settled s → s.me.tvec ≠ 0 → s.me.h = false →
    ∃ t, s.raise cause addr = t ∧ t.me.trapPc = s.me.pc ∧ t.me.trapCause = BitVec.ofNat 8 (causeNumber cause) ∧ t.me.trapAddr = addr ∧
      t.me.trapInfo = 0 ∧ t.me.h = true ∧ t.me.pc = s.me.tvec ∧ t.me.block = none ∧ t.me.readyAt = s.cycle + 4 ∧
      t.me.nextQ = s.me.nextQ + 1 ∧ t.me.code = s.me.trapSeg ∧
      t.me.regs = s.me.regs ∧ t.me.vregs = s.me.vregs ∧ t.me.kregs = s.me.kregs ∧ t.me.segs = s.me.segs ∧ t.me.flags = s.me.flags ∧
      t.me.fctl = s.me.fctl ∧ t.me.tvec = s.me.tvec ∧ t.me.accs = s.me.accs ∧ t.me.rings = s.me.rings ∧ t.me.mstat = s.me.mstat ∧
      t.me.inbox = s.me.inbox ∧ t.me.credits = s.me.credits ∧ t.me.census = s.me.census ∧
      SameMemory s t ∧ t.others = s.others ∧ t.cycle = s.cycle ∧ t.agenda = s.agenda ∧ t.troupes = s.troupes ∧ t.clusters = s.clusters

/-- R201, R221: a trap with TVEC = 0, or inside a handler, is fatal: the trap registers are written, the strand issues nothing more,
and where its troupe lives a report with the fault record goes to the launching die, its reason 1 for the first and 2 for the second.
Where the spec leaves a point open or to inference, it states the model's reading: log entry 63. -/
def Sys2Proof.Says.FatalTrap : Prop :=
  ∀ (s : State) (cause : Cause) (addr : Word), Settled s → s.me.kind ≠ .sm → cause ≠ .machineCheck → (s.me.tvec = 0 ∨ s.me.h = true) →
    (s.raise cause addr).me.run = .dead ∧ (s.raise cause addr).me.trapPc = s.me.pc ∧
    (s.raise cause addr).me.trapCause = BitVec.ofNat 8 (causeNumber cause) ∧ (s.raise cause addr).me.trapAddr = addr ∧
    (s.raise cause addr).me.pc = s.me.pc ∧ (s.raise cause addr).me.regs = s.me.regs ∧ SameMemory s (s.raise cause addr) ∧
    ∀ tr, s.troupe? s.me.troupe = some tr → ∃ tr' rec, (s.raise cause addr).troupe? s.me.troupe = some tr' ∧
      tr'.reports = tr.reports ++ [rec] ∧ rec.pc = s.me.pc ∧ rec.addr = addr ∧ rec.cause = BitVec.ofNat 8 (causeNumber cause) ∧
      rec.reason = (if s.me.h then 2 else 1) ∧
      (s.cycle + diePath (saDie s.me.sa) (saDie tr.launcher), Instr.fatalReport s.me.troupe) ∈ (s.raise cause addr).agenda

/-- R71: an exception behind an unconfirmed trappable operation is only held, with the flags it found. -/
def Sys2Proof.Says.TrapHeld : Prop :=
  ∀ (s : State) (cause : Cause) (addr : Word), s.me.held = [] → (∃ o ∈ s.me.ops, o.trappable = true ∧ o.q < s.me.nextQ) →
    s.raise cause addr = { s with me := { s.me with held := [{ q := s.me.nextQ, pc := s.me.pc, cause := cause, addr := addr, info := 0, flags := s.me.flags }] } }

/-- R208, R209, R374: TRAP raises SYSCALL and BRK raises BREAKPOINT, each with its code in TRAPADDR, but a claimed strand stops at a BRK
with reason 4; TRET clears H, returns to TRAPPC and issues 4 cycles later, raises PRIVILEGED outside system code and ILLEGAL outside a
handler. -/
def Sys2Proof.Says.TrapAndReturn : Prop :=
  ∀ (s : State) (n : BitVec 12) (c : Bool),
    let word : Word := BitVec.ofNat 64 (0xE4004000 + c.toNat)
    Raised s .syscall (n.zeroExtend 64) (exec (.trap n c) s) ∧
    (s.me.dbg.claimed = false → Raised s .breakpoint (n.zeroExtend 64) (exec (.brk n c) s)) ∧
    (s.me.dbg.claimed = true → exec (.brk n c) s = .next { s with me := { s.me with dbg := { s.me.dbg with stopReq := some 4, brk := n } } }) ∧
    (s.me.system = true → s.me.h = true → exec (.tret c) s = .next { s with me := { (movedOn s 4 c).me with
      h := false, pc := s.me.trapPc, block := none, readyAt := s.cycle + 4, readyCls := .mem } }) ∧
    (s.me.system = true → s.me.h = false → Raised s .illegal word (exec (.tret c) s)) ∧
    (s.me.system = false → Raised s .privileged word (exec (.tret c) s))

/-- R71, R203: TRAP_DELIVERY delivers the oldest held exception once nothing older can trap; ASYNC_TRAP_DELIVERY delivers a held
asynchronous cause at a boundary, with TRAPPC at the oldest instruction that has not issued, whether or not something issued can still trap; if that
does, the asynchronous cause is held again and the precise trap is taken.
Where the spec leaves a point open or to inference, it states the model's reading: log entry 55. -/
def Sys2Proof.Says.TrapDelivery : Prop :=
  (∀ (s : State) (h : Held), s.me.ops = [] → s.me.undo = [] → s.me.held = [h] → s.me.task = none → s.me.run ≠ .dead →
    (∀ e, s.me.entry = some e → e.q ≤ h.q) → s.me.tvec ≠ 0 → s.me.h = false →
    ∃ t, exec (.trapDelivery s.me.sa) s = .next t ∧ t.me.held = [] ∧ t.me.trapPc = h.pc ∧
      t.me.trapCause = BitVec.ofNat 8 (causeNumber h.cause) ∧ t.me.trapAddr = h.addr ∧ t.me.trapInfo = h.info ∧ t.me.h = true ∧
      t.me.pc = s.me.tvec ∧ t.me.flags = h.flags ∧ t.me.regs = s.me.regs ∧ SameMemory s t) ∧
  (∀ (s : State) (addr : Word), s.me.held = [] → s.me.async = [(.watchpoint, addr)] → s.me.tvec ≠ 0 → s.me.h = false →
    ∃ t, exec (.asyncTrapDelivery s.me.sa) s = .next t ∧ t.me.drain = true ∧ t.me.ops = s.me.ops ∧ t.me.async = [] ∧ t.me.trapPc = s.me.pc ∧ t.me.trapCause = 0x11 ∧
      t.me.trapAddr = addr ∧ t.me.trapInfo = 0 ∧ t.me.h = true ∧ t.me.pc = s.me.tvec ∧ t.me.regs = s.me.regs ∧ SameMemory s t) ∧
  (∀ (s : State) (h : Held) (e : AsyncEntry), s.me.ops = [] → s.me.undo = [] → s.me.held = [h] → s.me.task = none → s.me.run ≠ .dead →
    s.me.entry = some e → h.q < e.q → s.me.tvec ≠ 0 →
    ∃ t, exec (.trapDelivery s.me.sa) s = .next t ∧ t.me.entry = none ∧ t.me.async = (e.cause, e.addr) :: s.me.async ∧ t.me.trapPc = h.pc ∧
      t.me.trapCause = BitVec.ofNat 8 (causeNumber h.cause) ∧ t.me.trapAddr = h.addr ∧ t.me.trapInfo = h.info ∧ t.me.h = true ∧
      t.me.pc = s.me.tvec ∧ t.me.flags = h.flags ∧ t.me.regs = s.me.regs ∧ SameMemory s t)

/-! ### Scalar floating point (chapter 04) -/

/-- R102: the cause of the first enabled condition raised, NV first and NX last. -/
def Sys2Proof.firstEnabled (fctl : BitVec 10) (cond : BitVec 5) : Option Cause :=
  ([(4, 7, Cause.fpInvalid), (3, 6, .fpDivzero), (2, 5, .fpOverflow), (1, 4, .fpUnderflow), (0, 3, .fpInexact)].find?
    (fun p => cond.getLsbD p.1 && fctl.getLsbD p.2.1)).map (·.2.2)

/-- A floating-point instruction delivers `r` into s[d], zero-extended, ORs its conditions into FFLAGS, and where `sub` holds uses the
normaliser; or it traps with the first enabled condition, all conditions in TRAPADDR and nothing written (R91, R102, R104). -/
def Sys2Proof.Delivers (s : State) (d : SReg) (r : FRes) (sub : Bool) (g : Option (BitVec 32)) (c : Bool) (o : Out) : Prop :=
  match firstEnabled s.me.fctl r.cond with
  | some k => Raised s k (r.cond.zeroExtend 64) o
  | none => WroteF s d (BitVec.ofNat 64 r.bits) r.cond sub g c o

/-- The scalar formats of R105 and R113. -/
def Sys2Proof.scalarFmt (f : BitVec 2) : Fmt := if f = 1 then fp16 else if f = 2 then bf16 else fp32
/-- A source in the low bits of its register. -/
def Sys2Proof.lowBits (f : Fmt) (x : Word) : Nat := x.toNat % 2 ^ (1 + f.ebits + f.mbits)
/-- FTZ is off and one of the encodings is subnormal. -/
def Sys2Proof.usesNormaliser (s : State) (f : Fmt) (l : List Nat) : Bool := !s.me.fctl.getLsbD 8 && l.any f.isSub
/-- The rounding that an aux field selects for a form that does not narrow (R99, R100, R105). -/
def Sys2Proof.rounding (s : State) (aux : BitVec 3) : RMode :=
  match (if aux = 7 then s.me.fctl.truncate 3 else aux).toNat with
  | 1 => .rtz | 2 => .rdn | 3 => .rup | 4 => .rna | _ => .rne

/-- R105, R106, R112: the rounding forms deliver the once-rounded sum, difference, product and fused result of their sources, each read
in its format and flushed under FTZ. -/
def Obligations.FloatArithmetic : Prop :=
  ∀ (s : State) (d a b : SReg) (f : BitVec 2) (r : BitVec 3) (c : Bool),
    let F := scalarFmt f
    let z := s.me.fctl.getLsbD 8
    let mode := rounding s r
    let bx := lowBits F (s.me.getS a)
    let by_ := lowBits F (s.me.getS b)
    let bw := lowBits F (s.me.getS d)
    let x := F.source z bx
    let y := F.source z by_
    let w := F.source z bw
    let two := fun v : FRes => Delivers s d v (usesNormaliser s F [bx, by_, v.bits]) none c
    let three := fun v : FRes => Delivers s d v (usesNormaliser s F [bx, by_, bw, v.bits]) none c
    two (fAdd mode F z x y) (exec (.fadd d a b f r c) s) ∧
    two (fAdd mode F z x y.negate) (exec (.fsub d a b f r c) s) ∧
    two (fMul mode F z x y) (exec (.fmul d a b f r c) s) ∧
    three (fFma mode F z x y w) (exec (.fmadd d a b f r c) s) ∧
    three (fFma mode F z x y w.negate) (exec (.fmsub d a b f r c) s) ∧
    three (fFma mode F z x.negate y w.negate) (exec (.fnmadd d a b f r c) s) ∧
    three (fFma mode F z x.negate y w) (exec (.fnmsub d a b f r c) s)

/-- R107, R110, R111: minimum and maximum, and the two estimates. -/
def Sys2Proof.Says.FloatMinMaxEstimate : Prop :=
  ∀ (s : State) (d a b : SReg) (f : BitVec 2) (c : Bool),
    let F := scalarFmt f
    let z := s.me.fctl.getLsbD 8
    let bx := lowBits F (s.me.getS a)
    let by_ := lowBits F (s.me.getS b)
    let two := fun v : FRes => Delivers s d v (usesNormaliser s F [bx, by_, v.bits]) none c
    let one := fun v : FRes => Delivers s d v (usesNormaliser s F [bx, v.bits]) none c
    two (fMinMax F false z bx by_) (exec (.fmin d a b f c) s) ∧
    two (fMinMax F true z bx by_) (exec (.fmax d a b f c) s) ∧
    one (fRcpe F (F.source z bx)) (exec (.frcpe d a f c) s) ∧
    one (fRsqe F (F.source z bx)) (exec (.frsqe d a f c) s)

/-- The magnitude and sign of a finite value as an integer over 2^k, for k at least the size of its exponent. -/
def Sys2Proof.scaled (k : Nat) : FVal → Int
  | .fin neg m e => (if neg then -1 else 1) * (m * 2 ^ ((k : Int) + e).toNat : Nat)
  | _ => 0
/-- x < y as real numbers with infinities, for values of the formats of this chapter (R92). -/
def Sys2Proof.realLess (x y : FVal) : Prop :=
  match x, y with
  | .nan _, _ => False
  | _, .nan _ => False
  | .inf p, .inf q => p = true ∧ q = false
  | .inf p, _ => p = true
  | _, .inf q => q = false
  | x, y => scaled 1100 x < scaled 1100 y

/-- R92, R93, R107, R110, R111: what minimum and maximum and the two estimates deliver, from the operands' bits. A NaN gives way to the other source, two
give the default NaN, −0 is below +0, else the real order decides; the estimates of m · 2^e with 2^l ≤ m < 2^(l+1) are those of the rules' formulas. -/
def Sys2Proof.Says.FloatMinMaxEstimateValues : Prop :=
  ∀ (f : Fmt) (z : Bool) (a b : Nat), f ∈ [fp64, fp32, fp16, bf16] → a < 2 ^ (1 + f.ebits + f.mbits) → b < 2 ^ (1 + f.ebits + f.mbits) →
    let x := f.source z a
    let y := f.source z b
    let top := 2 ^ (f.ebits + f.mbits)
    let read := fun v => if z = true ∧ f.isSub v = true then v / top * top else v
    let nan := (2 ^ f.ebits - 1) * 2 ^ f.mbits + 2 ^ (f.mbits - 1)
    let inf := (2 ^ f.ebits - 1) * 2 ^ f.mbits
    let sgn := fun n : Bool => if n then top else 0
    let lo := fMinMax f false z a b
    let hi := fMinMax f true z a b
    let loud : BitVec 5 := if x = .nan true ∨ y = .nan true then 16 else 0
    lo.cond = loud ∧ hi.cond = loud ∧
    (x.isNan = true → y.isNan = true → lo.bits = nan ∧ hi.bits = nan) ∧
    (x.isNan = true → y.isNan = false → lo.bits = read b ∧ hi.bits = read b) ∧
    (x.isNan = false → y.isNan = true → lo.bits = read a ∧ hi.bits = read a) ∧
    (realLess x y ∨ (x = .zero true ∧ y = .zero false) → lo.bits = read a ∧ hi.bits = read b) ∧
    (realLess y x ∨ (x = .zero false ∧ y = .zero true) → lo.bits = read b ∧ hi.bits = read a) ∧
    (x = y → x.isNan = false → lo.bits = read a ∧ hi.bits = read a) ∧
    (∀ q, x = .nan q → ∀ r ∈ [fRcpe f x, fRsqe f x], r.bits = nan ∧ r.cond = if q then 16 else 0) ∧
    (∀ n, x = .zero n → ∀ r ∈ [fRcpe f x, fRsqe f x], r.bits = sgn n + inf ∧ r.cond = 8) ∧
    (∀ n, x = .inf n → fRcpe f x = { bits := sgn n, cond := 0 } ∧ fRsqe f x = if n then { bits := nan, cond := 16 } else { bits := 0, cond := 0 }) ∧
    (∀ m e, x = .fin true m e → fRsqe f x = { bits := nan, cond := 16 }) ∧
    (∀ n m e (l : Nat), x = .fin n m e → 2 ^ l ≤ m → m < 2 ^ (l + 1) →
      let E : Int := e + l
      let i := (m - 2 ^ l) * 128 / 2 ^ l
      let g := (2 * (128 * 512) + (257 + 2 * i)) / (2 * (257 + 2 * i)) - 128
      fRcpe f x = if (f.bias : Int) < -E - 1 then { bits := sgn n + inf, cond := 5 } else if -E - 1 < 1 - f.bias then { bits := sgn n, cond := 3 }
        else { bits := sgn n + (-E - 1 + f.bias).toNat * 2 ^ f.mbits + g * 2 ^ (f.mbits - 7), cond := 0 }) ∧
    (∀ m e (l : Nat), x = .fin false m e → 2 ^ l ≤ m → m < 2 ^ (l + 1) →
      let E : Int := e + l
      let u := 2 ^ (E - 2 * (E / 2)).toNat * (128 + 2 * ((m - 2 ^ l) * 64 / 2 ^ l) + 1)
      ∃ g < 128, (2 * (g + 128) - 1) ^ 2 * u ≤ 2 ^ 18 * 128 ∧ 2 ^ 18 * 128 < (2 * (g + 128) + 1) ^ 2 * u ∧
        fRsqe f x = { bits := (-(E / 2) - 1 + f.bias).toNat * 2 ^ f.mbits + g * 2 ^ (f.mbits - 7), cond := 0 })

/-- R103, R106: FABS, FNEG and FSGNJ change the sign bit alone, raise nothing and flush nothing. -/
def Sys2Proof.Says.FloatSignBits : Prop :=
  ∀ (s : State) (d a b : SReg) (f : BitVec 2) (c : Bool),
    let F := scalarFmt f
    let top := 2 ^ (F.ebits + F.mbits)
    let x := lowBits F (s.me.getS a)
    let y := lowBits F (s.me.getS b)
    WroteS s d (BitVec.ofNat 64 (x % top)) 4 c (exec (.fabs d a f c) s) ∧
    WroteS s d (BitVec.ofNat 64 (if x < top then x + top else x - top)) 4 c (exec (.fneg d a f c) s) ∧
    WroteS s d (BitVec.ofNat 64 (x % top + y / top * top)) 4 c (exec (.fsgnj d a b f c) s)

/-- R108: FEQ, FLT and FLE write 1 where the real comparison holds and 0 otherwise; a NaN compares false, the zeros are equal, and NV is
raised for a signaling NaN, by FLT and FLE for any NaN. -/
def Obligations.FloatCompare : Prop :=
  ∀ (s : State) (d a b : SReg) (f : BitVec 2) (c : Bool),
    let F := scalarFmt f
    let z := s.me.fctl.getLsbD 8
    let bx := lowBits F (s.me.getS a)
    let by_ := lowBits F (s.me.getS b)
    let x := F.source z bx
    let y := F.source z by_
    let nan := x = .nan true ∨ x = .nan false ∨ y = .nan true ∨ y = .nan false
    let snan := x = .nan true ∨ y = .nan true
    ∃ eq lt le : FRes,
      Delivers s d eq (usesNormaliser s F [bx, by_]) none c (exec (.feq d a b f c) s) ∧
      Delivers s d lt (usesNormaliser s F [bx, by_]) none c (exec (.flt d a b f c) s) ∧
      Delivers s d le (usesNormaliser s F [bx, by_]) none c (exec (.fle d a b f c) s) ∧
      (eq.bits = 0 ∨ eq.bits = 1) ∧ (lt.bits = 0 ∨ lt.bits = 1) ∧ (le.bits = 0 ∨ le.bits = 1) ∧
      (eq.bits = 1 ↔ ¬ nan ∧ ¬ realLess x y ∧ ¬ realLess y x) ∧
      (lt.bits = 1 ↔ realLess x y) ∧
      (le.bits = 1 ↔ ¬ nan ∧ ¬ realLess y x) ∧
      (snan → eq.cond = 16) ∧ (¬ snan → eq.cond = 0) ∧
      (nan → lt.cond = 16 ∧ le.cond = 16) ∧ (¬ nan → lt.cond = 0 ∧ le.cond = 0)

/-- R109: FCLASS writes exactly one bit, by the bits as stored, and raises nothing. -/
def Obligations.FloatClass : Prop :=
  ∀ (s : State) (d a : SReg) (f : BitVec 2) (c : Bool),
    let F := scalarFmt f
    let x := lowBits F (s.me.getS a)
    let neg := x / 2 ^ (F.ebits + F.mbits) = 1
    let e := x / 2 ^ F.mbits % 2 ^ F.ebits
    let m := x % 2 ^ F.mbits
    let ones := 2 ^ F.ebits - 1
    ∃ i < 10, WroteS s d (BitVec.ofNat 64 (2 ^ i)) 4 c (exec (.fclass d a f c) s) ∧
      (i = 0 ↔ neg ∧ e = ones ∧ m = 0) ∧ (i = 1 ↔ neg ∧ e ≠ 0 ∧ e ≠ ones) ∧ (i = 2 ↔ neg ∧ e = 0 ∧ m ≠ 0) ∧
      (i = 3 ↔ neg ∧ e = 0 ∧ m = 0) ∧ (i = 4 ↔ ¬ neg ∧ e = 0 ∧ m = 0) ∧ (i = 5 ↔ ¬ neg ∧ e = 0 ∧ m ≠ 0) ∧
      (i = 6 ↔ ¬ neg ∧ e ≠ 0 ∧ e ≠ ones) ∧ (i = 7 ↔ ¬ neg ∧ e = ones ∧ m = 0) ∧
      (i = 8 ↔ e = ones ∧ m ≠ 0 ∧ m < 2 ^ (F.mbits - 1)) ∧ (i = 9 ↔ e = ones ∧ 2 ^ (F.mbits - 1) ≤ m)

/-- R100, R113 to R116: FCVT between floating formats, to and from integers, by its minor code; a narrowing conversion in the
stochastic mode rounds with the generator's next state and leaves it in SRSEED. -/
def Obligations.FloatConvert : Prop :=
  ∀ (s : State) (d a : SReg) (r : BitVec 3) (c : Bool),
    let z := s.me.fctl.getLsbD 8
    let fmts := [fp32, fp16, bf16, e4m3, e5m2]
    let ranges : List (Int × Int) := [(-(2 ^ 31), 2 ^ 31 - 1), (-(2 ^ 63), 2 ^ 63 - 1), (0, 2 ^ 32 - 1), (0, 2 ^ 64 - 1)]
    let x := s.me.getS a
    let code := if r = 7 then s.me.fctl.truncate 3 else r
    let next := srNext s.me.flags.srseed
    (∀ i j : Fin 5, i ≠ j →
      let src := fmts[j]
      let dst := fmts[i]
      let narrow : Bool := !([(0, 1), (0, 2), (0, 3), (0, 4), (1, 3), (1, 4), (2, 3), (2, 4)].contains (i.val, j.val))
      let b := lowBits src x
      let v := fConvert (if code = 5 ∧ narrow then .sr next.toNat else rounding s r) dst z (src.source z b)
      Delivers s d v (!z && (src.isSub b || dst.isSub v.bits)) (if code = 5 ∧ narrow then some next else none) c
        (exec (.fcvt d a (BitVec.ofNat 7 (16 * i.val + 2 * j.val)) r c) s)) ∧
    (∀ (t : Fin 4) (j : Fin 3),
      let f := fmts[j.val]
      let b := lowBits f x
      let v := fToInt (rounding s r) ranges[t].1 ranges[t].2 (f.source z b)
      Delivers s d { bits := (BitVec.ofInt 64 v.1).toNat, cond := v.2 } (!z && f.isSub b) none c
        (exec (.fcvt d a (BitVec.ofNat 7 (16 * t.val + 2 * j.val + 1)) r c) s) ∧
      Delivers s d (intToF (rounding s r) f [(x.truncate 32).toInt, x.toInt, (x.toNat % 2 ^ 32 : Nat), (x.toNat : Int)][t]) false none c
        (exec (.fcvt d a (BitVec.ofNat 7 (64 + 16 * t.val + 2 * j.val + 1)) r c) s))

/-- The multiple n · unit that a mode chooses of the two beside an exact magnitude: within one unit of it, on the side or at the distance that the mode
names; the stochastic mode takes the upper one where the generator's value is below the remainder's share of 2^32 (R99, R101). -/
def Sys2Proof.Chosen (mode : RMode) (neg : Bool) (n big unit : Nat) : Prop :=
  n * unit < big + unit ∧ big < n * unit + unit ∧
  (mode = .rtz → n * unit ≤ big) ∧
  (mode = .rdn → if neg then big ≤ n * unit else n * unit ≤ big) ∧
  (mode = .rup → if neg then n * unit ≤ big else big ≤ n * unit) ∧
  (mode = .rne → 2 * (n * unit) ≤ 2 * big + unit ∧ 2 * big ≤ 2 * (n * unit) + unit ∧
    (2 * (n * unit) = 2 * big + unit ∨ 2 * big = 2 * (n * unit) + unit → n % 2 = 0)) ∧
  (mode = .rna → 2 * (n * unit) ≤ 2 * big + unit ∧ 2 * big < 2 * (n * unit) + unit) ∧
  (∀ r, mode = .sr r → n = big / unit + if r * unit < big % unit * 2 ^ 32 then 1 else 0)

/-- R99 to R101, R103: rounding of m · 2^e, in every format and mode: the chosen multiple at full precision decides whether the result overflows or is
tiny. Overflow delivers infinity or the largest finite value by the mode, in E4M3 always the largest, with OF and NX; a tiny result is the exact value
rounded once at subnormal precision, with UF and NX where it differs, or under FTZ a zero with UF and NX; any other is the chosen one, with NX where it
differs. -/
def Obligations.RoundingFaithful : Prop :=
  ∀ (f : Fmt) (neg z : Bool) (m : Nat) (e : Int) (mode : RMode), f ∈ [fp64, fp32, fp16, bf16, e5m2, e4m3] → 0 < m →
    let q := (Nat.log2 m : Int) + e - f.mbits
    let emin : Int := 1 - f.bias
    let big := fun q : Int => m * 2 ^ (e - min e q).toNat
    let unit := fun q : Int => 2 ^ (q - min e q).toNat
    let sign := if neg then 2 ^ (f.ebits + f.mbits) else 0
    let r := roundTo mode f z neg m e false
    let topQ : Int := if f.e43 then 5 else f.bias - f.mbits
    let topN := if f.e43 then 14 else 2 ^ (f.mbits + 1) - 1
    let toInf : Bool := !f.e43 && (match mode with | .rtz => false | .rdn => neg | .rup => !neg | _ => true)
    ∃ n, Chosen mode neg n (big q) (unit q) ∧ 2 ^ f.mbits ≤ n ∧ n ≤ 2 ^ (f.mbits + 1) ∧
      let tooBig := topQ < q ∨ (topQ = q ∧ topN < n)
      let tiny := q + f.mbits < emin ∧ ¬ (q + f.mbits + 1 = emin ∧ n = 2 ^ (f.mbits + 1))
      (tooBig → r.bits = sign + (if f.e43 then 0x7E else (2 ^ f.ebits - 1) * 2 ^ f.mbits - if toInf then 0 else 1) ∧ r.cond = 5) ∧
      (¬ tooBig → tiny → z = true → r.bits = sign ∧ r.cond = 3) ∧
      (¬ tooBig → tiny → z = false → let q2 := emin - f.mbits
        ∃ n2, Chosen mode neg n2 (big q2) (unit q2) ∧ r.bits = sign + n2 ∧ r.cond = (if n2 * unit q2 = big q2 then 0 else 3)) ∧
      (¬ tooBig → ¬ tiny → r.bits = sign + ((q + f.mbits + f.bias).toNat * 2 ^ f.mbits + n - 2 ^ f.mbits) ∧
        r.cond = (if n * unit q = big q then 0 else 1))

/-! ### Vector and predicate instructions (chapter 05) -/

/-- Element `i` of `n` bits (R117). -/
def Sys2Proof.elt (n : Nat) (v : VWord) (i : Nat) : BitVec n := v.extractLsb' (n * i) n
/-- Element `i` of the operand in the b position: a register's, or the scalar s[b] cut to the element width (R118). -/
def Sys2Proof.eltB (s : State) (b : SReg) (bs : Bool) (n i : Nat) : BitVec n :=
  if bs then (s.me.getS b).truncate n else elt n (s.me.getV (b.truncate 4)) i
/-- The lane of element `i` is active under k[k]; under k0 every lane is (R45, R119). -/
def Sys2Proof.on (s : State) (k : KReg) (n i : Nat) : Bool := k == 0 || s.me.kregs[k.toNat].getLsbD (n * i / 32)
/-- What an element of a destination holds: the result where it is active, else its old value, or zero with z (R119). -/
def Sys2Proof.merged (s : State) (vd : VReg) (k : KReg) (z : Bool) (n : Nat) (f : Nat → BitVec n) (i : Nat) : BitVec n :=
  if on s k n i then f i else if z then 0 else elt n (s.me.getV vd) i
/-- The strand's flags with bits of VSTAT set (R124). -/
def Sys2Proof.withStat (s : State) (x : BitVec 2) : Flags := { s.me.flags with vstat := s.me.flags.vstat ||| x }

/-- The instruction writes v[vd], its element `i` being `f i` wherever that is given. -/
def Sys2Proof.WroteElts (s : State) (vd : VReg) (n : Nat) (f : Nat → BitVec n) (fl : Flags) (c : Bool) (o : Out) : Prop :=
  ∃ v, WroteV s vd v fl 4 c o ∧ ∀ i, n * i + n ≤ 512 → elt n v i = f i
/-- The instruction writes k[kd], its bit `j` being `f j` where lane j is active, the old bit or zero elsewhere (R119). -/
def Sys2Proof.WroteBits (s : State) (kd k : KReg) (z : Bool) (f : Nat → Bool) (fl : Flags) (c : Bool) (o : Out) : Prop :=
  ∃ v, WroteK s kd v fl 4 c o ∧ ∀ j < 16, v.getLsbD j = (if on s k 32 j then f j else !z && (s.me.getK kd).getLsbD j)

/-- R124, R125: V-INT. Every element form, at 8, 16 and 32 bits, and SAT where an active element clamps. -/
def Sys2Proof.Says.VectorInteger : Prop :=
  ∀ (s : State) (vd va : VReg) (b : SReg) (bs : Bool) (k : KReg) (w : BitVec 2) (z c : Bool), s.me.kind ≠ .sm → w ≠ 3 →
    let n := 8 * 2 ^ w.toNat
    let x := fun i => elt n (s.me.getV va) i
    let y := fun i => eltB s b bs n i
    let puts := fun (f : BitVec n → BitVec n → BitVec n) o => WroteElts s vd n (merged s vd k z n (fun i => f (x i) (y i))) s.me.flags c o
    let clamps := fun (lo hi : Int) (f : Nat → Int) o =>
      WroteElts s vd n (merged s vd k z n (fun i => BitVec.ofInt n (max lo (min hi (f i)))))
        (if (List.range (512 / n)).any (fun i => on s k n i && (decide (f i < lo) || decide (hi < f i))) then withStat s 2 else s.me.flags) c o
    let low : Int := -(2 ^ (n - 1))
    let high : Int := 2 ^ (n - 1) - 1
    let top : Int := 2 ^ n - 1
    puts (· + ·) (exec (.vadd vd va b bs k w z c) s) ∧ puts (· - ·) (exec (.vsub vd va b bs k w z c) s) ∧
    puts (· * ·) (exec (.vmul vd va b bs k w z c) s) ∧
    clamps low high (fun i => (x i).toInt + (y i).toInt) (exec (.vaddsI vd va b bs k w z c) s) ∧
    clamps 0 top (fun i => (x i).toNat + (y i).toNat) (exec (.vaddsN vd va b bs k w z c) s) ∧
    clamps low high (fun i => (x i).toInt - (y i).toInt) (exec (.vsubsI vd va b bs k w z c) s) ∧
    clamps 0 top (fun i => (x i).toNat - (y i).toNat) (exec (.vsubsN vd va b bs k w z c) s) ∧
    clamps low high (fun i => (x i).toInt.natAbs) (exec (.vabss vd va k w z c) s) ∧
    puts (fun x y => if x.slt y then x else y) (exec (.vminI vd va b bs k w z c) s) ∧
    puts (fun x y => if x.ult y then x else y) (exec (.vminN vd va b bs k w z c) s) ∧
    puts (fun x y => if y.slt x then x else y) (exec (.vmaxI vd va b bs k w z c) s) ∧
    puts (fun x y => if y.ult x then x else y) (exec (.vmaxN vd va b bs k w z c) s) ∧
    puts (· &&& ·) (exec (.vand vd va b bs k w z c) s) ∧ puts (· ||| ·) (exec (.vor vd va b bs k w z c) s) ∧
    puts (· ^^^ ·) (exec (.vxor vd va b bs k w z c) s) ∧ puts (fun x y => x &&& ~~~y) (exec (.vandn vd va b bs k w z c) s) ∧
    puts (fun x y => x <<< (y.toNat % n)) (exec (.vsll vd va b bs k w z c) s) ∧
    puts (fun x y => x >>> (y.toNat % n)) (exec (.vsrl vd va b bs k w z c) s) ∧
    puts (fun x y => x.sshiftRight (y.toNat % n)) (exec (.vsra vd va b bs k w z c) s)

/-- R125: the V-INT compares write a predicate register bit by bit. -/
def Sys2Proof.Says.VectorIntegerCompare : Prop :=
  ∀ (s : State) (kd : KReg) (va : VReg) (b : SReg) (bs : Bool) (k : KReg) (z c : Bool), s.me.kind ≠ .sm →
    let x := fun i => elt 32 (s.me.getV va) i
    let y := fun i => eltB s b bs 32 i
    WroteBits s kd k z (fun j => x j == y j) s.me.flags c (exec (.vcmpeqB32 kd va b bs k z c) s) ∧
    WroteBits s kd k z (fun j => (x j).slt (y j)) s.me.flags c (exec (.vcmpltI32 kd va b bs k z c) s) ∧
    WroteBits s kd k z (fun j => (x j).ult (y j)) s.me.flags c (exec (.vcmpltN32 kd va b bs k z c) s)

/-- R123: the end of a vector floating-point form. `rs` lists the lane and the conditions of every active element: if none is enabled,
the destination is as `dest` says, the conditions go to FFLAGS, and the normaliser costs two turns where `sub` holds; else the first
enabled one traps, with the conditions in TRAPADDR[4:0] and the lanes that raised an enabled one in TRAPADDR[31:16]. -/
def Sys2Proof.EndsFp (s : State) (rs : List (Nat × BitVec 5)) (sub : Bool) (c : Bool) (dest : State → Prop) (o : Out) : Prop :=
  let cond := rs.foldl (fun a r => a ||| r.2) (0 : BitVec 5)
  let lanes := (List.range 16).filter (fun j => rs.any (fun r => r.1 == j && (firstEnabled s.me.fctl r.2).isSome))
  match firstEnabled s.me.fctl cond with
  | some cause => Raised s cause (BitVec.ofNat 64 (cond.toNat + (lanes.map (fun j => 2 ^ (16 + j))).sum)) o
  | none => ∃ t, o = .next t ∧ dest t ∧ SameMemory s t ∧ t.me.flags.fflags = s.me.flags.fflags ||| cond ∧
      t.me.flags.vstat = s.me.flags.vstat ∧ t.me.forfeit = (if sub = true ∧ s.me.kind ≠ .heavy then 2 else s.me.forfeit) ∧
      t = { s with me := { (movedOn s 4 c).me with
        regs := t.me.regs, undo := t.me.undo, vregs := t.me.vregs, kregs := t.me.kregs, flags := t.me.flags
        forfeit := t.me.forfeit, forfeitCls := t.me.forfeitCls, forfeitQ := t.me.forfeitQ } }

/-- The destination of `EndsFp` is v[vd] alone; `seed` is what SRSEED becomes. -/
def Sys2Proof.OnlyV (s : State) (vd : VReg) (n : Nat) (f : Nat → BitVec n) (seed : BitVec 32) (t : State) : Prop :=
  (∀ i, n * i + n ≤ 512 → elt n (t.me.getV vd) i = f i) ∧ (∀ r, r ≠ vd → t.me.getV r = s.me.getV r) ∧
  t.me.regs = s.me.regs ∧ t.me.kregs = s.me.kregs ∧ t.me.undo = s.me.undo ∧ t.me.flags.srseed = seed
/-- The elements of `n` bits whose lanes are active. -/
def Sys2Proof.actives (s : State) (k : KReg) (n : Nat) : List Nat := (List.range (512 / n)).filter (on s k n)

/-- A V-FP or V-FMA form of format `F` into v[vd]: element `i` gives `r i` from sources `src i`. -/
def Sys2Proof.EndsElts (s : State) (vd : VReg) (k : KReg) (z c : Bool) (F : Fmt) (bitsOnly : Bool) (r : Nat → FRes) (src : Nat → List Nat) (o : Out) : Prop :=
  let n := 1 + F.ebits + F.mbits
  EndsFp s ((actives s k n).map (fun i => (n * i / 32, (r i).cond)))
    (!bitsOnly && !s.me.fctl.getLsbD 8 && (actives s k n).any (fun i => F.isSub (r i).bits || (src i).any F.isSub)) c
    (OnlyV s vd n (merged s vd k z n (fun i => BitVec.ofNat n (r i).bits)) s.me.flags.srseed) o

/-- R123, R126: every V-FP and V-FMA form with an element result computes its scalar form's function in each active element. -/
def Sys2Proof.Says.VectorFloat : Prop :=
  ∀ (s : State) (vd va : VReg) (b : SReg) (bs : Bool) (k : KReg) (f : BitVec 2) (z c : Bool), s.me.kind ≠ .sm →
    let F := scalarFmt f
    let n := 1 + F.ebits + F.mbits
    let t := s.me.fctl.getLsbD 8
    let top := 2 ^ (F.ebits + F.mbits)
    let mode := rounding s 7
    let x := fun i => (elt n (s.me.getV va) i).toNat
    let y := fun i => (eltB s b bs n i).toNat
    let w := fun i => (elt n (s.me.getV vd) i).toNat
    let X := fun i => F.source t (x i)
    let Y := fun i => F.source t (y i)
    let W := fun i => F.source t (w i)
    let two := fun (r : Nat → FRes) o => EndsElts s vd k z c F false r (fun i => [x i, y i]) o
    let three := fun (r : Nat → FRes) o => EndsElts s vd k z c F false r (fun i => [x i, y i, w i]) o
    let bits := fun (r : Nat → Nat) o => EndsElts s vd k z c F true (fun i => { bits := r i, cond := 0 }) (fun _ => []) o
    two (fun i => fAdd mode F t (X i) (Y i)) (exec (.vaddFp vd va b bs k f z c) s) ∧
    two (fun i => fAdd mode F t (X i) (Y i).negate) (exec (.vsubFp vd va b bs k f z c) s) ∧
    two (fun i => fMul mode F t (X i) (Y i)) (exec (.vmulFp vd va b bs k f z c) s) ∧
    two (fun i => fMinMax F false t (x i) (y i)) (exec (.vminFp vd va b bs k f z c) s) ∧
    two (fun i => fMinMax F true t (x i) (y i)) (exec (.vmaxFp vd va b bs k f z c) s) ∧
    bits (fun i => x i % top) (exec (.vabs vd va k f z c) s) ∧
    bits (fun i => if x i < top then x i + top else x i - top) (exec (.vneg vd va k f z c) s) ∧
    bits (fun i => x i % top + y i / top * top) (exec (.vsgnj vd va b bs k f z c) s) ∧
    three (fun i => fFma mode F t (X i) (Y i) (W i)) (exec (.vmadd vd va b bs k f z c) s) ∧
    three (fun i => fFma mode F t (X i) (Y i) (W i).negate) (exec (.vmsub vd va b bs k f z c) s) ∧
    three (fun i => fFma mode F t (X i).negate (Y i) (W i).negate) (exec (.vnmadd vd va b bs k f z c) s) ∧
    three (fun i => fFma mode F t (X i).negate (Y i) (W i)) (exec (.vnmsub vd va b bs k f z c) s)

/-- R108, R126: the FP32 compares into a predicate register. -/
def Sys2Proof.Says.VectorFloatCompare : Prop :=
  ∀ (s : State) (kd : KReg) (va : VReg) (b : SReg) (bs : Bool) (k : KReg) (z c : Bool), s.me.kind ≠ .sm →
    let t := s.me.fctl.getLsbD 8
    let x := fun i => (elt 32 (s.me.getV va) i).toNat
    let y := fun i => (eltB s b bs 32 i).toNat
    let puts := fun (p : FVal → FVal → Bool) (loud : Bool) o =>
      let r := fun i => fCompare p loud (fp32.source t (x i)) (fp32.source t (y i))
      EndsFp s ((actives s k 32).map (fun i => (i, (r i).cond))) (!t && (actives s k 32).any (fun i => fp32.isSub (x i) || fp32.isSub (y i))) c
        (fun u => (∀ j < 16, kd ≠ 0 → (u.me.getK kd).getLsbD j = (if on s k 32 j then (r j).bits == 1 else !z && (s.me.getK kd).getLsbD j)) ∧
          (∀ q, q ≠ kd → u.me.getK q = s.me.getK q) ∧ u.me.regs = s.me.regs ∧ u.me.vregs = s.me.vregs ∧ u.me.flags.srseed = s.me.flags.srseed) o
    puts fEqual false (exec (.vcmpeqS kd va b bs k z c) s) ∧
    puts fLess true (exec (.vcmpltS kd va b bs k z c) s) ∧
    puts (fun p q => fLess p q || fEqual p q) true (exec (.vcmpleS kd va b bs k z c) s)

/-- R127, R128: V-CVT between floating formats, part by part; in the stochastic mode each active element of a narrowing form rounds
with its own next state of the generator, in ascending order. -/
def Sys2Proof.Says.VectorConvert : Prop :=
  ∀ (s : State) (vd va : VReg) (p : BitVec 2) (k : KReg) (z c : Bool) (i j : Fin 5), s.me.kind ≠ .sm → i ≠ j →
    let fmts := [fp32, fp16, bf16, e4m3, e5m2]
    let widths := [32, 16, 16, 8, 8]
    let nd := widths.getD i 32
    let ns := widths.getD j 32
    let wide := max ns nd
    let cnt := 512 / wide
    let t := s.me.fctl.getLsbD 8
    let i' := BitVec.ofNat 7 (16 * i.val + 2 * j.val)
    let narrow : Bool := !([(0, 1), (0, 2), (0, 3), (0, 4), (1, 3), (1, 4), (2, 3), (2, 4)].contains (i.val, j.val))
    let sto := decide (s.me.fctl.truncate 3 = (5 : BitVec 3)) && narrow
    let act := (List.range cnt).filter (on s k wide)
    let gen := fun q => Nat.repeat srNext q s.me.flags.srseed
    let x := fun e => (elt ns (s.me.getV va) (if ns ≤ nd then cnt * p.toNat + e else e)).toNat
    let r := fun e => fConvert (if sto then .sr (gen ((act.filter (· < e)).length + 1)).toNat else rounding s 7) (fmts.getD i fp32) t ((fmts.getD j fp32).source t (x e))
    (p.toNat < wide / min ns nd →
      EndsFp s (act.map (fun e => (wide * e / 32, (r e).cond))) (!t && act.any (fun e => (fmts.getD j fp32).isSub (x e) || (fmts.getD i fp32).isSub (r e).bits)) c
        (OnlyV s vd nd (fun e =>
          if ns ≤ nd then merged s vd k z nd (fun e => BitVec.ofNat nd (r e).bits) e
          else if cnt * p.toNat ≤ e ∧ e < cnt * p.toNat + cnt then
            (if on s k wide (e - cnt * p.toNat) then BitVec.ofNat nd (r (e - cnt * p.toNat)).bits
             else if z then 0 else elt nd (s.me.getV vd) e)
          else elt nd (s.me.getV vd) e) (if sto then gen act.length else s.me.flags.srseed))
        (exec (.vcvt vd va p k i' z c) s)) ∧
    (wide / min ns nd ≤ p.toNat →
      Raised s .illegal (BitVec.ofNat 64 (encodedWords (.vcvt vd va p k i' z c))) (exec (.vcvt vd va p k i' z c) s))

/-- R115, R116, R127: the four conversions between FP32 and 32-bit integers. -/
def Sys2Proof.Says.VectorConvertInteger : Prop :=
  ∀ (s : State) (vd va : VReg) (k : KReg) (z c : Bool), s.me.kind ≠ .sm →
    let t := s.me.fctl.getLsbD 8
    let x := fun e => elt 32 (s.me.getV va) e
    let out := fun (lo hi : Int) e => fToInt (rounding s 7) lo hi (fp32.source t (x e).toNat)
    let toI := fun (lo hi : Int) o => EndsFp s ((actives s k 32).map (fun e => (e, (out lo hi e).2)))
      (!t && (actives s k 32).any (fun e => fp32.isSub (x e).toNat)) c
      (OnlyV s vd 32 (merged s vd k z 32 (fun e => BitVec.ofInt 32 (out lo hi e).1)) s.me.flags.srseed) o
    let ofI := fun (v : Nat → Int) o => EndsFp s ((actives s k 32).map (fun e => (e, (intToF (rounding s 7) fp32 (v e)).cond))) false c
      (OnlyV s vd 32 (merged s vd k z 32 (fun e => BitVec.ofNat 32 (intToF (rounding s 7) fp32 (v e)).bits)) s.me.flags.srseed) o
    toI (-(2 ^ 31)) (2 ^ 31 - 1) (exec (.vcvt vd va 0 k 0x01 z c) s) ∧ toI 0 (2 ^ 32 - 1) (exec (.vcvt vd va 0 k 0x21 z c) s) ∧
    ofI (fun e => (x e).toInt) (exec (.vcvt vd va 0 k 0x41 z c) s) ∧ ofI (fun e => (x e).toNat) (exec (.vcvt vd va 0 k 0x61 z c) s)

/-- R129: the permutations, lane by lane. -/
def Obligations.VectorPermute : Prop :=
  ∀ (s : State) (vd va : VReg) (b : SReg) (bs : Bool) (k : KReg) (z c : Bool), s.me.kind ≠ .sm →
    let x := fun i => elt 32 (s.me.getV va) i
    let fl := s.me.flags
    let act := (List.range 16).filter (on s k 32)
    let by_ := (s.me.getS b).toInt
    WroteElts s vd 32 (merged s vd k z 32 x) fl c (exec (.vmov vd va k z c) s) ∧
    WroteElts s vd 32 (merged s vd k z 32 (fun _ => (s.me.getS b).truncate 32)) fl c (exec (.vbcast vd b k z c) s) ∧
    WroteElts s vd 32 (merged s vd k z 32 (fun j => if (eltB s b bs 32 j).toNat < 16 then x (eltB s b bs 32 j).toNat else 0)) fl c
      (exec (.vshuf vd va b bs k z c) s) ∧
    WroteElts s vd 32 (merged s vd k z 32 (fun j => if 0 ≤ j + by_ ∧ j + by_ ≤ 15 then x (j + by_).toNat else 0)) fl c
      (exec (.vslide vd va b k z c) s) ∧
    WroteElts s vd 32 (fun j => if j < act.length then x (act.getD j 0) else if z then 0 else elt 32 (s.me.getV vd) j) fl c
      (exec (.vcompress vd va k z c) s) ∧
    WroteElts s vd 32 (merged s vd k z 32 (fun j => x (act.filter (· < j)).length)) fl c (exec (.vexpand vd va k z c) s) ∧
    (∀ l : BitVec 4, WroteS s b ((x l.toNat).zeroExtend 64) 4 c (exec (.vextr l va b c) s)) ∧
    (∀ l : BitVec 4, WroteElts s vd 32 (fun j => if j = l.toNat then (s.me.getS b).truncate 32 else elt 32 (s.me.getV vd) j) fl c
      (exec (.vins vd l b c) s))

/-- R130: the integer reductions over the active lanes, exact, with the table's result for none. -/
def Sys2Proof.Says.VectorReduceInteger : Prop :=
  ∀ (s : State) (va : VReg) (d : SReg) (k : KReg) (c : Bool), s.me.kind ≠ .sm →
    let act := (List.range 16).filter (on s k 32)
    let si := act.map (fun j => (elt 32 (s.me.getV va) j).toInt)
    let un := act.map (fun j => ((elt 32 (s.me.getV va) j).toNat : Int))
    WroteS s d (BitVec.ofInt 64 si.sum) 4 c (exec (.vredaddI32 va d k c) s) ∧
    WroteS s d (BitVec.ofInt 64 un.sum) 4 c (exec (.vredaddN32 va d k c) s) ∧
    WroteS s d (BitVec.ofInt 64 (si.max?.getD (-(2 ^ 31)))) 4 c (exec (.vredmaxI32 va d k c) s) ∧
    WroteS s d (BitVec.ofInt 64 (un.max?.getD 0)) 4 c (exec (.vredmaxN32 va d k c) s) ∧
    WroteS s d (BitVec.ofInt 64 (si.min?.getD (2 ^ 31 - 1))) 4 c (exec (.vredminI32 va d k c) s) ∧
    WroteS s d (BitVec.ofInt 64 (un.min?.getD 0xFFFFFFFF)) 4 c (exec (.vredminN32 va d k c) s)

/-- One level of the fixed pairwise tree of R131, over values with the lanes under them. -/
def Sys2Proof.pairUp (g : Nat × List Nat → Nat × List Nat → FRes) (n : Nat) (t : Nat → Nat × List Nat) : Nat → Nat × List Nat :=
  fun i => if i < n then ((g (t (2 * i)) (t (2 * i + 1))).bits, (t (2 * i)).2 ++ (t (2 * i + 1)).2) else t i

/-- R131: the floating-point reductions: four levels of the pairwise tree, (0+1), (2+3) and so on; a node under which no lane of one
side is active delivers a zero of the other side as it is.
Where the spec leaves a point open or to inference, it states the model's reading: log entry 16. -/
def Sys2Proof.Says.VectorReduceFloat : Prop :=
  ∀ (s : State) (va : VReg) (d : SReg) (k : KReg) (c : Bool), s.me.kind ≠ .sm →
    let t := s.me.fctl.getLsbD 8
    let leaf := fun (pad : Nat) j => if on s k 32 j then ((elt 32 (s.me.getV va) j).toNat, [j]) else (pad, ([] : List Nat))
    let reduces := fun (g : Nat × List Nat → Nat × List Nat → FRes) (pad : Nat) o =>
      let l0 := leaf pad
      let l1 := pairUp g 8 l0
      let l2 := pairUp g 4 l1
      let l3 := pairUp g 2 l2
      let nodes : List ((Nat × List Nat) × (Nat × List Nat)) :=
        (List.range 8).map (fun i => (l0 (2 * i), l0 (2 * i + 1))) ++ (List.range 4).map (fun i => (l1 (2 * i), l1 (2 * i + 1))) ++
        (List.range 2).map (fun i => (l2 (2 * i), l2 (2 * i + 1))) ++ [(l3 0, l3 1)]
      EndsFp s (nodes.flatMap (fun p => (16, (g p.1 p.2).cond) :: (p.1.2 ++ p.2.2).map (fun j => (j, (g p.1 p.2).cond))))
        (!t && nodes.any (fun p => fp32.isSub p.1.1 || fp32.isSub p.2.1 || fp32.isSub (g p.1 p.2).bits)) c
        (fun u => u.me.getS d = (if d = 0 then 0 else BitVec.ofNat 64 (g (l3 0) (l3 1)).bits) ∧ (∀ r, r ≠ d → u.me.getS r = s.me.getS r) ∧
          u.me.vregs = s.me.vregs ∧ u.me.kregs = s.me.kregs ∧ u.me.flags.srseed = s.me.flags.srseed) o
    reduces (fun p q => fMinMax fp32 true t p.1 q.1) 0x7FC00000 (exec (.vredmaxS va d k c) s) ∧
    reduces (fun p q => fMinMax fp32 false t p.1 q.1) 0x7FC00000 (exec (.vredminS va d k c) s) ∧
    reduces (fun p q =>
      let v := fAdd (rounding s 7) fp32 t (fp32.source t p.1) (fp32.source t q.1)
      let keep := fun u : Nat => match fp32.source t u with
        | .zero n => { v with bits := fp32.zero n }
        | _ => v
      if p.2 = [] then keep q.1 else if q.2 = [] then keep p.1 else v) 0x80000000 (exec (.vredfadd va d k c) s)

/-- R132, R133: the narrow dot products. -/
def Sys2Proof.Says.VectorDot : Prop :=
  ∀ (s : State) (vd va : VReg) (b : SReg) (bs : Bool) (k : KReg) (z c : Bool), s.me.kind ≠ .sm →
    let acc := fun j => elt 32 (s.me.getV vd) j
    let a8 := fun j i => elt 8 (s.me.getV va) (4 * j + i)
    let b8 := fun j i => (eltB s b bs 32 j).extractLsb' (8 * i) 8
    let a16 := fun j i => (elt 16 (s.me.getV va) (2 * j + i)).toNat
    let b16 := fun j i => ((eltB s b bs 32 j).extractLsb' (16 * i) 16).toNat
    let t := s.me.fctl.getLsbD 8
    let half := fun (F : Fmt) o =>
      let r := fun j => dot2 (rounding s 7) F t (acc j).toNat (a16 j 0) (b16 j 0) (a16 j 1) (b16 j 1)
      EndsFp s ((actives s k 32).map (fun j => (j, (r j).cond))) (!t && (actives s k 32).any (fun j => (r j).sub)) c
        (OnlyV s vd 32 (merged s vd k z 32 (fun j => BitVec.ofNat 32 (r j).bits)) s.me.flags.srseed) o
    WroteElts s vd 32 (merged s vd k z 32 (fun j => acc j + BitVec.ofInt 32 ((a8 j 0).toInt * (b8 j 0).toInt + (a8 j 1).toInt * (b8 j 1).toInt +
      (a8 j 2).toInt * (b8 j 2).toInt + (a8 j 3).toInt * (b8 j 3).toInt))) s.me.flags c (exec (.vdot4I8 vd va b bs k z c) s) ∧
    WroteElts s vd 32 (merged s vd k z 32 (fun j => acc j + BitVec.ofNat 32 ((a8 j 0).toNat * (b8 j 0).toNat + (a8 j 1).toNat * (b8 j 1).toNat +
      (a8 j 2).toNat * (b8 j 2).toNat + (a8 j 3).toNat * (b8 j 3).toNat))) s.me.flags c (exec (.vdot4N8 vd va b bs k z c) s) ∧
    half fp16 (exec (.vdot2hH vd va b bs k z c) s) ∧
    half bf16 (exec (.vdot2hBf vd va b bs k z c) s)

/-- Weight `i` of a packed-ternary byte (R95): its base-3 digit less one; an invalid byte has zero weights. -/
def Sys2Proof.weight (b : BitVec 8) (i : Nat) : Int := if 243 ≤ b.toNat then 0 else ((b.toNat / 3 ^ i % 3 : Nat) : Int) - 1

/-- R95, R134 to R136: VUNPK3 and VDOTT decode the base-3 digits of their bytes, and set TBAD for an invalid byte they decode. -/
def Sys2Proof.Says.VectorTernary : Prop :=
  ∀ (s : State) (vd va : VReg) (b : SReg) (k : KReg) (z c : Bool), s.me.kind ≠ .sm →
    let src := fun j => elt 8 (s.me.getV va) j
    let act := fun j i => elt 8 (s.me.getV (b.truncate 4)) (5 * j + i)
    WroteElts s vd 8 (merged s vd k z 8 (fun e => if e < 60 then BitVec.ofInt 8 (weight (src (e / 5)) (e % 5)) else 0))
      (if (List.range 60).any (fun e => on s k 8 e && decide (243 ≤ (src (e / 5)).toNat)) then withStat s 1 else s.me.flags) c (exec (.vunpk3 vd va k z c) s) ∧
    WroteElts s vd 32 (fun j => if 12 ≤ j then elt 32 (s.me.getV vd) j else
        merged s vd k z 32 (fun j => elt 32 (s.me.getV vd) j + BitVec.ofInt 32 (weight (src j) 0 * (act j 0).toInt + weight (src j) 1 * (act j 1).toInt +
          weight (src j) 2 * (act j 2).toInt + weight (src j) 3 * (act j 3).toInt + weight (src j) 4 * (act j 4).toInt)) j)
      (if (List.range 12).any (fun j => on s k 32 j && decide (243 ≤ (src j).toNat)) then withStat s 1 else s.me.flags) c (exec (.vdott vd va b k z c) s)

/-- Eight times the value of a 4-bit code of a type (R96), and its sign. -/
def Sys2Proof.codeEighths (ty c : Nat) : Int :=
  (if c < 8 then 1 else -1) * (([[0, 8, 16, 24, 32, 40, 48, 56, 64, 56, 48, 40, 32, 24, 16, 8], [0, 4, 8, 12, 16, 24, 32, 48, 0, 4, 8, 12, 16, 24, 32, 48],
    [0, 1, 2, 4, 8, 16, 32, 64, 0, 1, 2, 4, 8, 16, 32, 64], [0, 8, 16, 24, 32, 48, 64, 96, 0, 8, 16, 24, 32, 48, 64, 96]].getD ty []).getD c 0 : Nat)

/-- R96 to R98, R137, R138: VDECQ decodes sixteen codes exactly, and VDOTQ adds one pair of blocks to lane 0 with one rounding.
Where the spec leaves a point open or to inference, it states the model's reading: log entry 14. -/
def Sys2Proof.Says.VectorBlockCodes : Prop :=
  ∀ (s : State) (vd va : VReg) (sb : SReg) (k : KReg) (a b : BitVec 3) (z c : Bool), s.me.kind ≠ .sm →
    let y := s.me.getS sb
    let scale := (y.extractLsb' 0 8).toNat
    let part := (y.extractLsb' 8 3).toNat
    let code := fun j => (elt 4 (s.me.getV va) (16 * part + j)).toNat
    let decode := fun j =>
      let v := codeEighths (scale / 64) (code j)
      if v = 0 then fp32.zero (8 ≤ code j) else if scale % 64 = 63 then fp32.inf (v < 0)
      else (roundInt .rne fp32 false v ((scale % 64 : Nat) - 35) false).bits
    let old := s.me.getV vd
    let half := fun (r : BitVec 3) (j : Nat) => (elt 4 (s.me.getV (if j < 128 then r ++ (0 : BitVec 1) else r ++ (1 : BitVec 1))) (j % 128)).toNat
    let eA := (elt 8 old 4).toNat
    let eB := (elt 8 old 5).toNat
    let sum := ((List.range 256).map (fun j => codeEighths (eA / 64) (half a j) * codeEighths (eB / 64) (half b j))).sum
    let allNeg := (List.range 256).all (fun j => codeEighths (eA / 64) (half a j) * codeEighths (eB / 64) (half b j) == 0 && (decide (8 ≤ half a j) != decide (8 ≤ half b j)))
    let C : FVal :=
      if eA % 64 = 63 ∨ eB % 64 = 63 then (if sum = 0 then .nan false else .inf (decide (sum < 0)))
      else if sum = 0 then .zero allNeg else .fin (decide (sum < 0)) sum.natAbs ((eA % 64 + eB % 64 : Nat) - 70)
    let t := s.me.fctl.getLsbD 8
    let acc := fp32.source t (elt 32 old 0).toNat
    let r := fAdd .rne fp32 t acc C
    WroteElts s vd 32 (merged s vd k z 32 (fun j => BitVec.ofNat 32 (decode j))) s.me.flags c (exec (.vdecq vd va sb k z c) s) ∧
    EndsFp s [(0, if acc.isNan || C.isNan then 0 else r.cond)] (!t && (fp32.isSub (elt 32 old 0).toNat || fp32.isSub r.bits)) c
      (OnlyV s vd 32 (fun j => if j = 0 then BitVec.ofNat 32 r.bits else elt 32 old j) s.me.flags.srseed) (exec (.vdotq vd a b c) s)

/-- R139: the predicate instructions. -/
def Sys2Proof.Says.PredicateResults : Prop :=
  ∀ (s : State) (kd ka kb : KReg) (d : SReg) (c : Bool), s.me.kind ≠ .sm →
    let x := s.me.getK ka
    let y := s.me.getK kb
    let fl := s.me.flags
    WroteK s kd (x &&& y) fl 4 c (exec (.kand kd ka kb c) s) ∧ WroteK s kd (x ||| y) fl 4 c (exec (.kor kd ka kb c) s) ∧
    WroteK s kd (x ^^^ y) fl 4 c (exec (.kxor kd ka kb c) s) ∧ WroteK s kd (x &&& ~~~y) fl 4 c (exec (.kandn kd ka kb c) s) ∧
    WroteK s kd (~~~x) fl 4 c (exec (.knot kd ka c) s) ∧
    WroteK s kd ((s.me.getS d).truncate 16) fl 4 c (exec (.kset kd d c) s) ∧
    WroteS s d (x.zeroExtend 64) 4 c (exec (.kget ka d c) s) ∧
    WroteS s d (BitVec.ofNat 64 ((List.range 16).map (fun i => x.toNat / 2 ^ i % 2)).sum) 4 c (exec (.kpopc ka d c) s) ∧
    (∃ i ≤ 16, WroteS s d (BitVec.ofNat 64 i) 4 c (exec (.kfirst ka d c) s) ∧ (∀ j < i, x.getLsbD j = false) ∧ (i < 16 → x.getLsbD i = true))

/-! ### Memory access (chapters 06 and 07) -/

/-- R140, R141, R143, R349: the segment check, in its order; the control page of a die scratchpad is reached through SYS = 1 only.
Where the spec leaves a point open or to inference, it states the model's reading: log entry 32. -/
def Sys2Proof.Says.SegmentCheck : Prop :=
  ∀ (m : Strand) (g : Seg) (rd wr : Bool) (off : Word) (size align : Nat),
    let kind := (g.desc.extractLsb' 44 4).toNat
    let length := (g.desc.extractLsb' 0 41).toNat
    let reached := kind = 1 ∨ kind = 4 ∨ (kind = 2 ∧ m.kind = .lean) ∨ (kind = 3 ∧ m.kind ≠ .sm)
    let allowed := (g.desc.getLsbD 48 = true → m.code.desc.getLsbD 48 = true) ∧ (rd = true → g.desc.getLsbD 41 = true) ∧
      (wr = true → g.desc.getLsbD 42 = true)
    let addr := g.base.toNat + off.toNat
    let page := kind = 4 ∧ g.desc.getLsbD 48 = false ∧ 0x1FF0000 < addr + size ∧ addr < 0x2000000
    (¬ (reached ∧ allowed) → segCheck m g rd wr off size align = .bad .segRights off) ∧
    (reached ∧ allowed → length < off.toNat + size → segCheck m g rd wr off size align = .bad .segLimit off) ∧
    (reached ∧ allowed → off.toNat + size ≤ length → page → segCheck m g rd wr off size align = .bad .segRights off) ∧
    (reached ∧ allowed → off.toNat + size ≤ length → ¬ page → addr % align ≠ 0 →
      segCheck m g rd wr off size align = .bad .misaligned (BitVec.ofNat 64 addr)) ∧
    (reached ∧ allowed → off.toNat + size ≤ length → ¬ page → addr % align = 0 → segCheck m g rd wr off size align = .ok addr)

/-- Every outstanding operation of the current strand is older than its next instruction. -/
def Sys2Proof.InOrder (s : State) : Prop := ∀ o ∈ s.me.ops, o.q < s.me.nextQ

/-- The instruction joins the outstanding operations as `what` with its accesses, and the strand goes on: no register and no byte of
memory changes yet. A global access is unconfirmed and trappable until its translation 10 cycles later; any other is confirmed at once and
waits in the store queue or for its SC release time, or is on its way (R67 to R69, R144, R168, R172). -/
def Sys2Proof.Issued (s : State) (what : OpWhat) (dsts : List RegName) (accs : List Access) (ord : BitVec 2) (kind : Nat) (c strided : Bool) (o : Out) : Prop :=
  ∃ t, o = .next t ∧
    t.me.ops = s.me.ops ++ [{
      q := s.me.nextQ, pc := s.me.pc, what := what, dsts := dsts, accs := accs, ord := ord, kind := kind
      stage := (if kind = 1 then .unconfirmed else if what.queued = true ∨ ord = 3 then .waiting else .away)
      trappable := kind == 1, flags := s.me.flags, issued := s.cycle, strided := strided }] ∧
    t.me = { (movedOn s 4 c).me with ops := t.me.ops } ∧ SameMemory s t ∧ t.others = s.others ∧ t.cycle = s.cycle ∧
    (kind = 1 → (s.cycle + 10, Instr.translationConfirm s.me.sa s.me.nextQ) ∈ t.agenda)

/-- Where the bytes of an address of a segment lie in the model's memory: unknown before translation (KIND 1), else in the strand's
core scratchpad, its cluster's shared window or its die's scratchpad (R141, R142). -/
def Sys2Proof.place (m : Strand) (g : Seg) (addr : Nat) : Option Nat :=
  match (g.desc.extractLsb' 44 4).toNat with
  | 1 => none
  | 2 => some (2 ^ 48 + (saPkg m.sa * 64 + saCore m.sa) * 2 ^ 17 + addr)
  | 3 => some (2 ^ 49 + saPkg m.sa * 2 ^ 25 + addr)
  | _ => some (2 ^ 50 + saDie m.sa * 2 ^ 25 + addr)

/-- A scalar access of `size` bytes at offset `off` of seg[seg]: it traps as the segment check says, or is issued. -/
def Sys2Proof.ScalarAccess (s : State) (seg : SegIx) (off : Word) (size : Nat) (rd wr : Bool) (what : OpWhat) (dsts : List RegName) (data : Nat)
    (ord : BitVec 2) (c : Bool) (o : Out) : Prop :=
  let g := s.me.segs[seg.toNat]
  match segCheck s.me g rd wr off size size with
  | .bad cause addr => Raised s cause addr o
  | .ok addr => Issued s what dsts [{ lane := 0, va := addr, size := size, loc := place s.me g addr, region := .priv, data := data }] ord
      (g.desc.extractLsb' 44 4).toNat c false o

/-- R153, R154: LD, ST and the AMOs check their segment and issue one access, of the size their width gives, at s[a] plus the displacement
counted in that size; an AMO takes s[b] as its operand and s[t] as its compare value, cut to its size. -/
def Sys2Proof.Says.ScalarMemoryIssue : Prop :=
  ∀ (s : State) (t a b : SReg) (seg : SegIx) (ord : BitVec 2) (sz : Bool) (w : BitVec 3) (i : BitVec 7) (c : Bool), InOrder s →
    let size : Nat := 2 ^ (w.extractLsb' 0 2).toNat
    let off := BitVec.ofInt 64 ((s.me.getS a).toInt + i.toInt * size)
    let n := if sz then 8 else 4
    let amo := fun (n : Nat) (op : AmoOp) (sg : Bool) o => ScalarAccess s seg (s.me.getS a) n true true
      (.amo t op ((s.me.getS t).toNat % 2 ^ (8 * n)) sg) [.s t] ((s.me.getS b).toNat % 2 ^ (8 * n)) ord c o
    ScalarAccess s seg off size true false (.load t (!w.getLsbD 2)) [.s t] 0 ord c (exec (.ld t a seg ord w i c) s) ∧
    ScalarAccess s seg off size false true .store [] ((s.me.getS t).toNat % 2 ^ (8 * size)) ord c (exec (.st t a seg ord w i c) s) ∧
    amo n .add true (exec (.amoadd t a seg ord sz b c) s) ∧ amo n .swap true (exec (.amoswap t a seg ord sz b c) s) ∧
    amo n .cas true (exec (.amocas t a seg ord sz b c) s) ∧ amo n .and true (exec (.amoand t a seg ord sz b c) s) ∧
    amo n .or true (exec (.amoor t a seg ord sz b c) s) ∧ amo n .xor true (exec (.amoxor t a seg ord sz b c) s) ∧
    amo n .min true (exec (.amomin t a seg ord sz b c) s) ∧ amo n .max true (exec (.amomax t a seg ord sz b c) s) ∧
    amo n .minn false (exec (.amominn t a seg ord sz b c) s) ∧ amo n .maxn false (exec (.amomaxn t a seg ord sz b c) s) ∧
    amo 4 .fadd false (exec (.amofadd t a seg ord b c) s)

/-- A V-MEM form with offsets `off` by lane: nothing without an active lane; MISALIGNED where lane 0 of VLD and VST is not 64-byte aligned;
the first failing active lane's trap; else one 4-byte access for each active lane (R159). -/
def Sys2Proof.LaneAccess (s : State) (load base64 : Bool) (off : Nat → Word) (vt : VReg) (seg : SegIx) (k : KReg) (ord : BitVec 2) (c : Bool) (o : Out) : Prop :=
  let g := s.me.segs[seg.toNat]
  let ls := (List.range 16).filter (on s k 32)
  let a0 := g.base + off 0
  let chk := fun j => segCheck s.me g load (!load) (off j) 4 4
  (ls = [] → Passed s 4 c o) ∧
  (ls ≠ [] → base64 = true → a0.toNat % 64 ≠ 0 → Raised s .misaligned a0 o) ∧
  (ls ≠ [] → (base64 = false ∨ a0.toNat % 64 = 0) →
    (∀ j ∈ ls, ∀ cause addr, chk j = .bad cause addr → (∀ i ∈ ls, i < j → ∃ a, chk i = .ok a) → Raised s cause addr o) ∧
    (∀ ad : Nat → Nat, (∀ j ∈ ls, chk j = .ok (ad j)) →
      Issued s (if load then .vload vt else .store) (if load then [.v vt] else [])
        (ls.map (fun j => { lane := j, va := ad j, size := 4, loc := place s.me g (ad j), region := .priv, data := (elt 32 (s.me.getV vt) j).toNat }))
        ord (g.desc.extractLsb' 44 4).toNat c (!base64) o))

/-- R159: the six V-MEM forms, with their offsets. -/
def Sys2Proof.Says.VectorMemoryIssue : Prop :=
  ∀ (s : State) (vt : VReg) (a : SReg) (x : BitVec 5) (vx : VReg) (seg : SegIx) (k : KReg) (ord : BitVec 2) (c : Bool),
    InOrder s → s.me.kind ≠ .sm →
    let base := s.me.getS a
    let unit := fun j : Nat => BitVec.ofInt 64 (base.toInt + x.toInt * 64 + 4 * j)
    let stride := fun j : Nat => BitVec.ofNat 64 (base.toNat + j * (s.me.getS x).toNat)
    let index := fun j : Nat => BitVec.ofNat 64 (base.toNat + 4 * (elt 32 (s.me.getV vx) j).toNat)
    LaneAccess s true true unit vt seg k ord c (exec (.vld vt a x seg k ord c) s) ∧
    LaneAccess s false true unit vt seg k ord c (exec (.vst vt a x seg k ord c) s) ∧
    LaneAccess s true false stride vt seg k ord c (exec (.vlds vt a x seg k ord c) s) ∧
    LaneAccess s false false stride vt seg k ord c (exec (.vsts vt a x seg k ord c) s) ∧
    LaneAccess s true false index vt seg k ord c (exec (.vgather vt a vx seg k ord c) s) ∧
    LaneAccess s false false index vt seg k ord c (exec (.vscatter vt a vx seg k ord c) s)

/-- An operation without accesses that a fence leaves behind. -/
def Sys2Proof.fenceOp (s : State) (what : OpWhat) : Op :=
  { q := s.me.nextQ, pc := s.me.pc, what := what, dsts := [], accs := [], ord := 0, kind := 0, stage := .waiting, trappable := false
    flags := s.me.flags, issued := s.cycle }

/-- R157, R158, R170 to R172: FENCE passes and leaves the wait of its kind behind: acquire for older load parts, release a marker in the
store queue, sc a place in the SC total order until its release time. PREF never traps and changes no register and no byte of memory; a private
line whose page passes R150 is then in the L1D or the L2. FLUSHL and INVL
check as a load, issue a line operation on global memory, and only check elsewhere.
Where the spec leaves a point open or to inference, it states the model's reading: log entry 11. -/
def Sys2Proof.Says.FenceAndLines : Prop :=
  ∀ (s : State) (p : BitVec 3) (l : BitVec 5) (a : SReg) (seg : SegIx) (i : BitVec 7) (c : Bool), InOrder s →
    let loads := s.me.ops.any (fun o => o.what.loadPart)
    let off := BitVec.ofInt 64 ((s.me.getS a).toInt + i.toInt * 128)
    let g := s.me.segs[seg.toNat]
    let lines := fun (drop : Bool) o =>
      match segCheck s.me g true false off 1 1 with
      | .bad cause addr => Raised s cause addr o
      | .ok va =>
        ((g.desc.extractLsb' 44 4).toNat = 1 →
          Issued s (.line drop) [] [{ lane := 0, va := va, size := 1, loc := none, region := .priv, data := 0 }] 0 1 c false o) ∧
        ((g.desc.extractLsb' 44 4).toNat ≠ 1 → Passed s 4 c o)
    (exec (.fence p 0 c) s = .next (movedOn { s with me := { s.me with ops := s.me.ops ++ (if loads then [fenceOp s .acqFence] else []) } } 4 c)) ∧
    (∀ k : BitVec 2, k = 1 ∨ k = 2 → ∃ t, exec (.fence p k c) s = .next t ∧
      t.me = (movedOn { s with me := { s.me with ops := s.me.ops ++ (if k = 2 ∧ loads = true then [fenceOp s .acqFence] else []) ++ [fenceOp s .marker] } } 4 c).me ∧
      (s.cycle + 1, Instr.releaseMarkerLeave s.me.sa s.me.nextQ) ∈ t.agenda ∧ SameMemory s t) ∧
    (∃ t, exec (.fence p 3 c) s = .next t ∧ t.me = (movedOn { s with me := { s.me with ops := s.me.ops ++ [fenceOp s .scFence] } } 4 c).me ∧
      t.scOps = s.scOps ++ [{ window := s.cycle / 64, sa := s.me.sa, q := s.me.nextQ, locs := [] }] ∧
      (64 * (s.cycle / 64 + 1) + 24, Instr.scReleaseTime s.me.sa s.me.nextQ) ∈ t.agenda ∧ SameMemory s t) ∧
    (∃ t, exec (.pref l a seg i c) s = .next t ∧ t.me = (movedOn s 4 c).me ∧ t.others = s.others ∧ (∀ x, memGet t.mem x = memGet s.mem x) ∧
      ((∀ va lf, segCheck s.me g true false off 1 1 = .ok va → (g.desc.extractLsb' 44 4).toNat = 1 → (s.port s.me.port).find s.me.asid va = some lf →
        lf.region ≠ .priv ∨ (lf.check (portDie s.me.port) (portCluster s.me.port) true false).isSome = true) → SameMemory s t) ∧
      (∀ va lf, segCheck s.me g true false off 1 1 = .ok va → (g.desc.extractLsb' 44 4).toNat = 1 → (s.port s.me.port).find s.me.asid va = some lf →
        lf.region = .priv → lf.check (portDie s.me.port) (portCluster s.me.port) true false = none →
        let n := lf.addr va / 128
        OnLine s t s.me.sa n ∧ (l = 0 → ∃ y, Fetched s s.me.sa n y ∧ t.inL1 s.me.sa n = some y) ∧ (l = 1 → (t.inL2 (saDie s.me.sa) n).isSome = true))) ∧
    lines false (exec (.flushl a seg i c) s) ∧ lines true (exec (.invl a seg i c) s)

/-! ### Memory events (R69, R149 to R172) -/

/-- Nothing around the strand's operations interferes: no fatal fault, held exception, asynchronous trap, saved value or speculative task, no SC operation announced, no
poisoned byte, no watch armed, no dequeue unconfirmed. -/
def Sys2Proof.Calm (s : State) : Prop :=
  s.me.run ≠ .dead ∧ s.me.entry = none ∧ s.me.held = [] ∧ s.me.undo = [] ∧ s.me.task = none ∧ s.scOps = [] ∧ s.poison = [] ∧ (∀ d ∈ s.dies, d.2.watches = []) ∧
  (∀ e ∈ s.me.inbox, e.taken = none) ∧ (∀ i : Fin 8, ∀ e ∈ s.me.inPorts[i], e.taken = none)

/-- The `n` bytes at `l` hold `v`, and every byte outside them and every private line in a cache reads as before. -/
def Sys2Proof.Stored (s t : State) (l n v : Nat) : Prop :=
  memRead t.mem l n = v % 2 ^ (8 * n) ∧ (∀ x, x < l ∨ l + n ≤ x → memGet t.mem x = memGet s.mem x) ∧ t.l1d = s.l1d ∧ t.l2 = s.l2

/-- R69, R149, R150: TRANSLATION_CONFIRM of the only outstanding access: on a hit it is placed at the page's physical address and confirmed;
where the page forbids it the trap is taken at its PC; on a miss it is undone, its PC issues again, and the strand waits for the walk. -/
def Sys2Proof.Says.TranslationConfirm : Prop :=
  ∀ (s : State) (o : Op) (a : Access), Calm s → s.me.ops = [o] → o.stage = .unconfirmed → o.accs = [a] →
    (o.what = .store ∨ ∃ d sg, o.what = .load d sg) →
    let wr := o.what == .store
    let port := s.port s.me.port
    let out := exec (.translationConfirm s.me.sa o.q) s
    (∀ l, port.find s.me.asid a.va = some l → l.check (portDie s.me.port) (portCluster s.me.port) (!wr) wr = none →
      ∃ t, out = .next t ∧ t.me.regs = s.me.regs ∧ t.me.pc = s.me.pc ∧ SameMemory s t ∧ t.me.ops = [{ o with
        accs := [{ a with loc := some (l.pa + a.va % (if l.large then 2 ^ 29 else 2 ^ 16)), region := l.region }]
        trappable := false, stage := (if wr = true ∨ o.ord = 3 then .waiting else .away) }]) ∧
    (∀ l k, port.find s.me.asid a.va = some l → l.check (portDie s.me.port) (portCluster s.me.port) (!wr) wr = some k →
      s.me.tvec ≠ 0 → s.me.h = false →
      ∃ t, out = .next t ∧ t.me.trapPc = o.pc ∧ t.me.trapAddr = BitVec.ofNat 64 a.va ∧ t.me.trapCause = BitVec.ofNat 8 (causeNumber k) ∧
        t.me.ops = [] ∧ t.me.pc = s.me.tvec ∧ t.me.h = true ∧ t.me.regs = s.me.regs ∧ SameMemory s t) ∧
    (port.find s.me.asid a.va = none → (∀ w ∈ port.walks, w.failed = false) →
      ∃ t, out = .next t ∧ t.me.pc = o.pc ∧ t.me.ops = [] ∧ t.me.xwait = some (s.me.asid, a.va / 2 ^ 16) ∧ t.me.regs = s.me.regs ∧
        SameMemory s t ∧ ∃ w ∈ (t.port s.me.port).walks, w.who = .strand s.me.sa ∧ w.va = a.va ∧ w.asid = s.me.asid)

/-- R150: the checks of a leaf: masks, rights, region, in that order.
Where the spec leaves a point open or to inference, it states the model's reading: log entry 13. -/
def Sys2Proof.Says.PageChecks : Prop :=
  ∀ (l : Leaf) (die : Nat) (cl : Option Nat) (rd wr : Bool),
    let inside := l.dmask.getLsbD die = true ∧ ∀ c, cl = some c → l.cmask.getLsbD c = true
    let rights := (rd = true → l.rd = true) ∧ (wr = true → l.w = true)
    let region := l.region ≠ .remote ∧ (wr = true → l.region ≠ .readShared)
    (¬ inside → l.check die cl rd wr = some .pageCluster) ∧ (inside → ¬ rights → l.check die cl rd wr = some .pageRights) ∧
    (inside → rights → ¬ region → l.check die cl rd wr = some .regionViolation) ∧
    (inside → rights → region → l.check die cl rd wr = none)

/-- R151, R153, R160, R162, R180: the load's data return: the destination takes the bytes of memory, sign- or zero-extended, and the operation is
over; so it is where a controller held it. Of a private line it takes the copy of the core's L1D, else that of the die's L2 or the LLC, which then is in
the L1D. Where a page of another REGION lies over the bytes, the value alone is undefined.
Where the spec leaves a point open or to inference, it states the model's reading: log entries 11, 12. -/
def Sys2Proof.Says.LoadReturns : Prop :=
  ∀ (s : State) (o : Op) (a : Access) (d : SReg) (sg : Bool) (l : Nat), Calm s → s.me.ops = [o] → o.stage = .away → o.what = .load d sg →
    o.accs = [a] → a.loc = some l → a.size ∈ [1, 2, 4, 8] →
    let own := o.kind = 1 ∧ a.region = .priv
    (own → l % a.size = 0) →
    ∀ e ∈ [Instr.loadDataReturn s.me.sa o.q, Instr.scHeldAccessPerform s.me.sa o.q],
      ∃ t v, exec e s = .next t ∧
        (¬ own → v = memRead s.mem l a.size ∧ SameMemory s t) ∧
        (own → OnLine s t s.me.sa (l / 128) ∧ ∃ y, Fetched s s.me.sa (l / 128) y ∧ t.inL1 s.me.sa (l / 128) = some y ∧ v = lineRead y l a.size) ∧
        ((o.kind = 1 → s.aliased l a.size a.region = false) →
          t.me.getS d = (if d = 0 then 0 else if sg then (BitVec.ofNat (8 * a.size) v).signExtend 64 else BitVec.ofNat 64 v)) ∧
        (∀ r, r ≠ d → t.me.getS r = s.me.getS r) ∧ t.me.ops = [] ∧
        t.me.pc = s.me.pc ∧ t.me.vregs = s.me.vregs ∧ t.me.kregs = s.me.kregs ∧ t.me.flags = s.me.flags ∧ t.others = s.others

/-- R165, R168: a confirmed store leaves the store queue; R160: then it is performed, and its bytes and no others change; so it is where a
controller or an occupied ring slot held it. R151, R180: a private one changes its line in the core's L1D, and neither memory nor what another core
holds.
Where the spec leaves a point open or to inference, it states the model's reading: log entries 11, 12. -/
def Sys2Proof.Says.StorePerforms : Prop :=
  ∀ (s : State) (o : Op) (a : Access) (l : Nat), Calm s → Memory.wf s.mem = true → s.me.ops = [o] → o.what = .store → o.accs = [a] → a.loc = some l →
    s.ringWait s.me o = false →
    let own := o.kind = 1 ∧ a.region = .priv
    (own → l % 128 + a.size ≤ 128 ∧ 0 < a.size) →
    (o.stage = .waiting → o.trappable = false → ∃ t, exec (.storeQueueDrain s.me.sa) s = .next t ∧
      t.me = { s.me with ops := [{ o with stage := .away }] } ∧ SameMemory s t ∧
      ∃ n, (s.cycle + n, Instr.storePerformed s.me.sa o.q) ∈ t.agenda) ∧
    (o.stage = .away → ∀ e ∈ [Instr.storePerformed s.me.sa o.q, Instr.scHeldAccessPerform s.me.sa o.q, Instr.ringSlotWriteResume s.me.sa o.q],
      ∃ t, exec e s = .next t ∧ (¬ own → Stored s t l a.size a.data) ∧ (own → PrivateStored s t s.me.sa l a.size a.data) ∧
        t.me = { s.me with ops := [] } ∧ t.others = s.others)

/-- R151, R158, R180: FLUSHL and INVL, performed: every byte of the line that the core's L1D or its die's L2 has not written back is in memory, no
other byte and no other line changes; FLUSHL leaves clean copies, INVL none. Of a line that is not private nothing changes.
Where the spec leaves a point open or to inference, it states the model's reading: log entry 11. -/
def Sys2Proof.Says.LinePerforms : Prop :=
  ∀ (s : State) (o : Op) (a : Access) (l : Nat) (drop : Bool), Calm s → Memory.wf s.mem = true → s.me.ops = [o] → o.what = .line drop → o.accs = [a] →
    a.loc = some l → s.ringWait s.me o = false → o.stage = .away →
    ∀ e ∈ [Instr.storePerformed s.me.sa o.q, Instr.scHeldAccessPerform s.me.sa o.q, Instr.ringSlotWriteResume s.me.sa o.q],
      let n := l / 128
      let die := saDie s.me.sa
      ∃ t, exec e s = .next t ∧ t.me = { s.me with ops := [] } ∧ t.others = s.others ∧
        (a.region ≠ .priv → SameMemory s t) ∧
        (a.region = .priv →
          (∀ x, memGet t.mem x = if x / 128 = n then (unwrittenAt s s.me.sa x).getD (memGet s.mem x) else memGet s.mem x) ∧
          (∀ sb k, ¬ (coreOf sb = coreOf s.me.sa ∧ k = n) → t.inL1 sb k = s.inL1 sb k) ∧ (∀ d k, ¬ (d = die ∧ k = n) → t.inL2 d k = s.inL2 d k) ∧
          (drop = true → t.inL1 s.me.sa n = none ∧ t.inL2 die n = none) ∧
          (drop = false → ((s.inL1 s.me.sa n).isSome = true → (t.inL1 s.me.sa n).isSome = true) ∧
            (∀ y, t.inL1 s.me.sa n = some y → y.dirty = 0) ∧ ∀ z, t.inL2 die n = some z → z.dirty = 0))

/-- The value an atomic writes, on values of `n` bits (R154). -/
def Sys2Proof.amoResult (n : Nat) (op : AmoOp) (old v cmp : BitVec n) : BitVec n :=
  match op with
  | .add => old + v
  | .swap => v
  | .cas => if old = cmp then v else old
  | .and => old &&& v
  | .or => old ||| v
  | .xor => old ^^^ v
  | .min => if v.slt old then v else old
  | .max => if old.slt v then v else old
  | .minn => if v.ult old then v else old
  | .maxn => if old.ult v then v else old
  | .fadd => BitVec.ofNat n (fAdd .rne fp32 false (fp32.value old.toNat) (fp32.value v.toNat)).bits

/-- R154, R155: an atomic reads and writes its bytes as one step and returns the old value; every other byte stays. A private line leaves the core's
L1D for it and is read and written in the die's L2. R160: where a page of
another REGION lies over the bytes, the value read is undefined.
Where the spec leaves a point open or to inference, it states the model's reading: log entries 11, 12, 19. -/
def Sys2Proof.Says.AtomicPerforms : Prop :=
  ∀ (s : State) (o : Op) (a : Access) (d : SReg) (op : AmoOp) (cmp : Nat) (sg : Bool) (l : Nat), Calm s → Memory.wf s.mem = true → s.me.ops = [o] → o.stage = .away →
    o.what = .amo d op cmp sg → o.accs = [a] → a.loc = some l → a.size ∈ [4, 8] → a.data < 2 ^ (8 * a.size) → cmp < 2 ^ (8 * a.size) →
    (op = .fadd → a.size = 4) → s.ringWait s.me o = false →
    let n := 8 * a.size
    let own := o.kind = 1 ∧ a.region = .priv
    (own → l % a.size = 0) →
    let kept := if own then s.recall s.me.sa true l a.size else s
    let old := BitVec.ofNat n (kept.view s.me.sa (decide own) l a.size)
    ∃ t v, exec (.atomicAtController s.me.sa o.q) s = .next t ∧
      (¬ own → old = BitVec.ofNat n (memRead s.mem l a.size) ∧ Stored s t l a.size v) ∧ (own → WrittenBelow s t s.me.sa l a.size v) ∧
      ((o.kind = 1 → s.aliased l a.size a.region = false) →
        v = (amoResult n op old (BitVec.ofNat n a.data) (BitVec.ofNat n cmp)).toNat ∧
        t.me.getS d = (if d = 0 then 0 else if sg then old.signExtend 64 else old.zeroExtend 64)) ∧ (∀ r, r ≠ d → t.me.getS r = s.me.getS r) ∧
      t.me.ops = [] ∧ t.me.pc = s.me.pc ∧ t.me.flags = s.me.flags ∧ t.others = s.others

/-- R171, R172: a release marker with nothing older leaves the store queue; an SC fence is over at its release time. -/
def Sys2Proof.Says.FencesEnd : Prop :=
  ∀ (s : State) (o : Op), Calm s → s.me.ops = [o] →
    (o.what = .marker → ∃ t, exec (.releaseMarkerLeave s.me.sa o.q) s = .next t ∧ t.me = { s.me with ops := [] } ∧ SameMemory s t) ∧
    (o.what = .scFence → o.stage = .waiting → ∃ t, exec (.scReleaseTime s.me.sa o.q) s = .next t ∧ t.me = { s.me with ops := [] } ∧ SameMemory s t)

/-! ### Walks, fault service and invalidation (R145, R149, R212) -/

/-- The word of a page table at a physical address, read through the L2 of a die: each byte of the copy there, or of memory (R145, R151). -/
def Sys2Proof.tableWord (s : State) (die a : Nat) : Nat :=
  ((List.range 8).map (fun i => (match s.inL2 die ((a + i) / 128) with
    | some y => y.byte (a + i)
    | none => memGet s.mem (a + i)).toNat * 256 ^ i)).sum

/-- The port holds the walk `w` alone, and its walk cache nothing. -/
def Sys2Proof.OnlyWalk (s : State) (p : Nat) (w : Walk) : Prop := (s.port p).walks = [w] ∧ (s.port p).wcache = []

/-- R145, R149: WALK_END reads the entry of the level at table + 8·index, with a leaf's companion word 64 KiB above, through the L2 of the port's die; an entry outside physical
memory faults; a leaf that came fills the translation buffer and lets the strand issue again; an unmapped entry ends the walk as failed.
Where the spec leaves a point open or to inference, it states the model's reading: log entries 35, 61. -/
def Sys2Proof.Says.WalkSteps : Prop :=
  ∀ (s : State) (p : Nat) (w : Walk), OnlyWalk s p w → w.running = true → w.restart = false → w.failed = false → w.req = none →
    w.who = .strand s.me.sa → s.me.xwait = some (w.asid, w.va / 2 ^ 16) →
    let entry := w.table + 8 * vaIndex w.level w.va
    let out := exec (.walkEnd p w.id) s
    (w.got = none → entry + 8 + 0x10000 ≤ 0xC000000000 → ∃ t w', out = .next t ∧ (t.port p).walks = [w'] ∧ w'.level = w.level ∧
      w'.table = w.table ∧ (∃ x, w'.got = some (tableWord s (portDie p) entry, x) ∧
        (w.level < 2 → tableWord s (portDie p) entry % 4 = 3 → x = tableWord s (portDie p) (entry + 0x10000))) ∧ t.me = s.me ∧ SameMemory s t) ∧
    (w.got = none → 0xC000000000 < entry + 8 → out = .fault (.noSuchPhysical entry)) ∧
    (∀ e x l, w.got = some (e, x) → classify w.level e x = .leaf l → l.large = false → ∃ t, out = .next t ∧ (t.port p).walks = [] ∧
      (t.port p).find w.asid w.va = some l ∧ (s.cycle, Instr.reissue s.me.sa) ∈ t.agenda ∧ t.me = s.me ∧ SameMemory s t) ∧
    (∀ e x, w.got = some (e, x) → classify w.level e x = .unmapped → ∃ t, out = .next t ∧
      (t.port p).walks = [{ w with running := false, failed := true, req := none }] ∧ (s.cycle, Instr.reissue s.me.sa) ∈ t.agenda ∧ t.me = s.me)

/-- The entry of a level, and a leaf's companion word 64 KiB above it, lie in the module's memory (R145). -/
def Sys2Proof.EntryThere (s : State) (die level table va : Nat) : Prop :=
  let a := table + 8 * vaIndex level va
  a + 8 + (if level < 2 ∧ tableWord s die a % 4 = 3 then 0x10000 else 0) ≤ 0xC000000000

/-- R145, R149: every WALK_END completes but one that would read outside the module's memory. One without its walk changes nothing; a walk
reads its current level; a table entry leads to a read one level down; an entry with V = 0 and SVC = 1 posts the request of the faulting
access, or joins the one of its entry and ASID; a walk that a TLBINV reached starts again where it would have ended.
Where the spec leaves a point open or to inference, it states the model's reading: log entries 35, 61. -/
def Sys2Proof.Says.WalkEndCompletes : Prop :=
  ∀ (s : State) (p : Nat),
    (∀ id, (∀ w ∈ (s.port p).walks, ¬ (w.id = id ∧ w.running = true)) → exec (.walkEnd p id) s = .next s) ∧
    (∀ w, OnlyWalk s p w → w.running = true →
      let out := exec (.walkEnd p w.id) s
      let entry := w.table + 8 * vaIndex w.level w.va
      let reads := fun level table => ∃ t w', out = .next t ∧ (t.port p).walks = [w'] ∧ w'.id = w.id ∧ w'.running = true ∧ w'.level = level ∧
        w'.table = table ∧ (∃ x, w'.got = some (tableWord s (portDie p) (table + 8 * vaIndex level w.va), x)) ∧ t.me = s.me ∧ SameMemory s t
      (w.got = none → EntryThere s (portDie p) w.level w.table w.va → reads w.level w.table) ∧
      (w.got = none → ¬ EntryThere s (portDie p) w.level w.table w.va → out = .fault (.noSuchPhysical entry)) ∧
      (∀ e x, w.got = some (e, x) →
        (∀ pa, classify w.level e x = .table pa → EntryThere s (portDie p) (w.level - 1) pa w.va → reads (w.level - 1) pa) ∧
        (∀ pa, classify w.level e x = .table pa → ¬ EntryThere s (portDie p) (w.level - 1) pa w.va →
          out = .fault (.noSuchPhysical (pa + 8 * vaIndex (w.level - 1) w.va))) ∧
        ((∀ pa, classify w.level e x ≠ .table pa) → w.restart = true → ∃ t w', out = .next t ∧ (t.port p).walks = [w'] ∧ w'.id = w.id ∧
          w'.running = true ∧ w'.restart = false ∧ w'.got = none ∧ w'.level = 3 ∧ w'.table = w.root ∧ t.me = s.me ∧ SameMemory s t) ∧
        (∀ l, classify w.level e x = .leaf l → w.restart = false → ∃ t, out = .next t ∧ (t.port p).find w.asid w.va ≠ none ∧ t.me = s.me ∧ SameMemory s t) ∧
        (classify w.level e x = .unmapped → w.restart = false → ∃ t, out = .next t ∧ (∀ y ∈ (t.port p).walks, y.running = false ∧ y.failed = true) ∧
          t.me = s.me ∧ SameMemory s t) ∧
        (classify w.level e x = .service → w.restart = false → ∃ t r, out = .next t ∧ r ∈ (t.die (portDie p)).reqs ∧ r.entry = entry ∧ r.asid = w.asid ∧
          (p, w.id) ∈ r.joined ∧ (((s.die (portDie p)).reqs = [] → r.va = w.va ∧ r.acc = w.acc ∧ r.joined = [(p, w.id)])) ∧
          (t.port p).walks = [{ w with running := false, req := some r.id }] ∧ t.me = s.me ∧ SameMemory s t)))

/-- R145 to R147: what a page-table entry means. -/
def Sys2Proof.Says.PageEntries : Prop :=
  ∀ (level : Nat) (e x : BitVec 64), level < 4 →
    let pa := (e.extractLsb' 16 32).toNat * 2 ^ 16
    let reserved := e.extractLsb' 48 16 ≠ 0 ∨ e.extractLsb' 6 10 ≠ 0
    let means := classify level e.toNat x.toNat
    (e.getLsbD 0 = false → means = (if e.getLsbD 2 then .service else .unmapped)) ∧
    (e.getLsbD 0 = true → reserved → means = .unmapped) ∧
    (e.getLsbD 0 = true → ¬ reserved → e.getLsbD 1 = false → means = (if level = 0 then .unmapped else .table pa)) ∧
    (e.getLsbD 0 = true → ¬ reserved → e.getLsbD 1 = true → 2 ≤ level → means = .unmapped) ∧
    (∀ l, means = .leaf l → e.getLsbD 0 = true ∧ e.getLsbD 1 = true ∧ level < 2 ∧ l.pa = pa ∧ l.large = decide (level = 1) ∧
      l.x = e.getLsbD 5 ∧ l.w = e.getLsbD 4 ∧ l.rd = e.getLsbD 3 ∧ l.cmask = x.extractLsb' 8 12 ∧ l.dmask = x.extractLsb' 0 8 ∧
      (level = 1 → pa % 2 ^ 29 = 0) ∧ (l.x = true → l.w = false ∧ l.rd = false))

/-- R149, R212: a retry starts the joined walk anew, a decline ends it as failed; REISSUE lets the strand issue again; TLBINV's arrival removes
the named page from a port, keeps every other entry, and makes running walks start again.
Where the spec leaves a point open or to inference, it states the model's reading: log entry 33. -/
def Sys2Proof.Says.FaultServiceAndInvalidate : Prop :=
  (∀ (s : State) (p die : Nat) (w : Walk) (r : Req), OnlyWalk s p w → (s.die die).reqs = [r] → r.joined = [(p, w.id)] → w.running = false → w.failed = false →
    w.who = .strand s.me.sa → s.me.xwait = some (w.asid, w.va / 2 ^ 16) →
    (∃ t w', exec (.faultServiceRetry die r.id) s = .next t ∧ (t.die die).reqs = [] ∧ (t.port p).walks = [w'] ∧ w'.id = w.id ∧ w'.running = true ∧
      w'.req = none ∧ w'.level = 3 ∧ w'.table = w.root ∧ (s.cycle + 12, Instr.walkEnd p w.id) ∈ t.agenda ∧ t.me = s.me ∧ SameMemory s t) ∧
    (∃ t, exec (.faultServiceDecline die r.id) s = .next t ∧ (t.die die).reqs = [] ∧
      (t.port p).walks = [{ w with running := false, failed := true, req := none }] ∧ (s.cycle, Instr.reissue s.me.sa) ∈ t.agenda ∧ t.me = s.me)) ∧
  (∀ s : State, exec (.reissue s.me.sa) s = .next { s with me := { s.me with xwait := none } }) ∧
  (∀ (s : State) (p : Nat) (va : BitVec 64) (space : Nat), ∃ t, exec (.tlbinvPortArrival p 0 va space) s = .next t ∧
    (t.port p).find space va.toNat = none ∧
    (∀ e, e ∈ (t.port p).base ↔ e ∈ (s.port p).base ∧ ¬ (e.asid = space ∧ e.vpn = va.toNat / 2 ^ 16)) ∧
    (∀ e, e ∈ (t.port p).large ↔ e ∈ (s.port p).large ∧ ¬ (e.asid = space ∧ e.vpn = va.toNat / 2 ^ 29)) ∧
    (∀ w ∈ (t.port p).walks, w.running = true → w.restart = true) ∧ t.me = s.me ∧ t.mem = s.mem ∧ ∀ q, q ≠ p → t.port q = s.port q)

/-! ### Channels, barriers and the inbox (chapter 08) -/

/-- The current strand holds the vcore of a live troupe, and it has not halted. -/
def Sys2Proof.Seated (s : State) (t : Troupe) : Prop :=
  s.me.run ≠ .vacant ∧ s.me.kind ≠ .sm ∧ s.troupe? s.me.troupe = some t ∧ t.live s.me.vcid = true

/-- The word of an instruction as ILLEGAL and PRIVILEGED leave it in TRAPADDR (R42). -/
def Sys2Proof.wordOf (i : Instr) : Word := BitVec.ofNat 64 (encodedWords i)

/-- The channel path latency L between two strands of lean or heavy cores, by their SADDRs (R13, R182). -/
def Sys2Proof.pathOf (a b : Nat) : Nat :=
  let p := saPkg a
  let q := saPkg b
  let diff := fun (x y : Nat) => (x - y) + (y - x)
  if a / 32 = b / 32 then 6
  else if p = q then 16
  else 30 + 4 * (diff (p / 16) (q / 16) + diff (p % 16) (q % 16)) + 40 * (diff (p / 48) (q / 48) + diff (p % 16 / 4) (q % 16 / 4))

/-- Two strands are in places of the cluster grid: neither is a stage manager's. -/
def Sys2Proof.OnGrid (a b : Nat) : Prop := saCluster a < 12 ∧ saCluster b < 12

/-- R177, R182, R184: SEND and SENDV take a credit of a bound port and put one entry on its way to the bound receiver, L cycles long and for a vector
one more, or until an entry sent before it on the channel has arrived; an unbound port raises
CHANNEL_UNBOUND with the port in TRAPADDR; without a credit nothing happens. -/
def Sys2Proof.Says.ChannelSend : Prop :=
  ∀ (s : State) (a : SReg) (v : VReg) (n : BitVec 3) (c : Bool), s.me.kind ≠ .sm →
    let sends := fun (vec : Bool) (data : VWord) o => ∀ b, s.outBind s.me n.toNat = some b → b.srcPort = n.toNat →
      (s.me.credits[n.toNat] ≠ 0 → ∃ t at_, o = Host.Outcome.next t ∧ t.me = { (movedOn s 4 c).me with credits := t.me.credits } ∧
        (∀ i : Fin 8, t.me.credits[i] = if i.val = n.toNat then s.me.credits[i] - 1 else s.me.credits[i]) ∧ SameMemory s t ∧
        s.cycle ≤ at_ ∧ (∀ tr dst, s.troupe? s.me.troupe = some tr → Tab.get? tr.place b.dst = some dst → OnGrid s.me.sa dst →
          let due := s.cycle + pathOf s.me.sa dst + (if vec then 1 else 0)
          due ≤ at_ ∧ ((∀ e ∈ s.agenda, ∀ d w x, e.2 = Instr.channelEntryArrival s.me.troupe d b.dstPort w x → d.vcid = b.dst → e.1 ≤ due) → at_ = due)) ∧
        (at_, Instr.channelEntryArrival s.me.troupe ⟨b.dst, s.routeTo s.me.troupe b.dst⟩ b.dstPort vec data) ∈ t.agenda) ∧
      (s.me.credits[n.toNat] = 0 → o = .next s)
    sends false ((s.me.getS a).zeroExtend 512) (exec (.send a n c) s) ∧ sends true (s.me.getV v) (exec (.sendv v n c) s) ∧
    (s.outBind s.me n.toNat = none →
      Raised s .channelUnbound (BitVec.ofNat 64 n.toNat) (exec (.send a n c) s) ∧ Raised s .channelUnbound (BitVec.ofNat 64 n.toNat) (exec (.sendv v n c) s))

/-- R182, R184, R185: RECV, RECVV and TRYRECV take the oldest entry of a bound port, and its credit is back L cycles later; a word entry fills lanes 0 and 1
of a vector, a vector entry gives its lanes 0 and 1 to a scalar; TRYRECV of an empty port writes 0 and no other register. -/
def Sys2Proof.Says.ChannelReceive : Prop :=
  ∀ (s : State) (d a : SReg) (v : VReg) (n : BitVec 3) (c : Bool) (b : Binding), s.me.kind ≠ .sm → s.me.ops = [] →
    (∀ e ∈ s.me.inbox, e.taken = none) → (∀ i : Fin 8, ∀ e ∈ s.me.inPorts[i], e.taken = none) → s.inBind s.me n.toNat = some b →
    (∀ e rest, s.me.inPorts[n.toNat] = e :: rest →
      let word : Word := e.data.truncate 64
      let takes := fun (t : State) (o : Out) => o = .next t ∧ t.me.inPorts[n.toNat] = rest ∧
        (∀ i : Fin 8, i.val ≠ n.toNat → t.me.inPorts[i] = s.me.inPorts[i]) ∧ (∃ at_, (at_, Instr.creditReturn s.me.troupe b.src b.srcPort) ∈ t.agenda) ∧
        (∀ tr src, s.troupe? s.me.troupe = some tr → Tab.get? tr.place b.src = some src → OnGrid s.me.sa src →
          (s.cycle + pathOf s.me.sa src, Instr.creditReturn s.me.troupe b.src b.srcPort) ∈ t.agenda) ∧
        SameMemory s t ∧ t.others = s.others ∧
        t.me = { (movedOn s 4 c).me with regs := t.me.regs, vregs := t.me.vregs, undo := t.me.undo, inPorts := t.me.inPorts }
      (∃ t, takes t (exec (.recv d n c) s) ∧ (∀ r, t.me.getS r = if r = d ∧ d ≠ 0 then word else s.me.getS r) ∧ t.me.vregs = s.me.vregs) ∧
      (∃ t, takes t (exec (.recvv v n c) s) ∧ t.me.getV v = (if e.vec then e.data else word.zeroExtend 512) ∧
        (∀ r, r ≠ v → t.me.getV r = s.me.getV r) ∧ t.me.regs = s.me.regs) ∧
      (∃ t, takes t (exec (.tryrecv d a n c) s) ∧ t.me.vregs = s.me.vregs ∧
        ∀ r, t.me.getS r = if r = a ∧ a ≠ 0 then 1 else if r = d ∧ d ≠ 0 then word else s.me.getS r)) ∧
    (s.me.inPorts[n.toNat] = [] → exec (.recv d n c) s = .next s ∧ exec (.recvv v n c) s = .next s ∧ WroteS s a 0 4 c (exec (.tryrecv d a n c) s))

/-- R184, R186, R189, R192: the status forms, INBOX.POLL and INBOX.WAIT, BAR.WAIT and BAR.STAT, and what an unbound port or barrier raises.
Where the spec leaves a point open or to inference, it states the model's reading: log entry 28. -/
def Sys2Proof.Says.ChannelStatusAndInbox : Prop :=
  ∀ (s : State) (d a : SReg) (v : VReg) (n sc : BitVec 3) (c : Bool), s.me.ops = [] → (∀ e ∈ s.me.inbox, e.taken = none) →
    (∀ i : Fin 8, ∀ e ∈ s.me.inPorts[i], e.taken = none) →
    let bound := fun b : Bool => if b then 256 else 0
    let head := match s.me.inPorts[n.toNat] with | e :: _ => (if e.vec then 512 else 0) | [] => 0
    (s.me.kind ≠ .sm →
      WroteS s d (BitVec.ofNat 64 (head + bound (s.inBind s.me n.toNat).isSome + s.me.inPorts[n.toNat].length)) 4 c (exec (.chstatIn d n c) s) ∧
      WroteS s d (BitVec.ofNat 64 (bound (s.outBind s.me n.toNat).isSome + s.me.credits[n.toNat])) 4 c (exec (.chstatOut d n c) s) ∧
      (s.inBind s.me n.toNat = none → ∀ i ∈ [Instr.recv d n c, .recvv v n c, .tryrecv d a n c],
        Raised s .channelUnbound (BitVec.ofNat 64 (0x10 + n.toNat)) (exec i s)) ∧
      (s.barrier? s.me.troupe n.toNat = none → ∀ i ∈ [Instr.barArrive d n sc c, .barWait d a n sc c, .barSync d n sc c, .barStat d n c],
        Raised s .channelUnbound (BitVec.ofNat 64 (0x20 + n.toNat)) (exec i s)) ∧
      (∀ b, s.barrier? s.me.troupe n.toNat = some b →
        let gen := b.genAt (saPkg s.me.sa)
        ((gen - (s.me.getS a).truncate 16).toNat < 2 ^ 15 → WroteS s d (gen.zeroExtend 64) 4 c (exec (.barWait d a n sc c) s)) ∧
        (2 ^ 15 ≤ (gen - (s.me.getS a).truncate 16).toNat → exec (.barWait d a n sc c) s = .next s) ∧
        (∀ t, s.troupe? s.me.troupe = some t → t.barHome b = saPkg s.me.sa →
          WroteS s d (BitVec.ofNat 64 (b.members.length % 2 ^ 16 * 2 ^ 32 + b.arrived.length % 2 ^ 16 * 2 ^ 16 + b.gen.toNat)) 4 c
            (exec (.barStat d n c) s)))) ∧
    (s.me.inbox = [] → WroteS s d 0 4 c (exec (.inboxPoll d c) s) ∧ exec (.inboxWait d c) s = .next s) ∧
    (∀ e rest, s.me.inbox = e :: rest → ∀ i ∈ [Instr.inboxPoll d c, .inboxWait d c], ∃ t, exec i s = .next t ∧ t.me.inbox = rest ∧
      (∀ r, t.me.getS r = if r = d ∧ d ≠ 0 then e.data else s.me.getS r) ∧ SameMemory s t ∧ (s.me.kind ≠ .sm → t.me.copies = s.me.copies) ∧
      t.me = { (movedOn s 4 c).me with regs := t.me.regs, undo := t.me.undo, inbox := t.me.inbox, copies := t.me.copies })

/-- R120, R159, R183, R224: on a stage-manager strand every instruction of majors 0x20 to 0x28 and 0x30 to 0x33 (the vector, predicate and vector
memory forms, and the shipped ones, the wide atomics among them) and every channel or barrier instruction raises ILLEGAL with its word in TRAPADDR. -/
def Sys2Proof.Says.StageManagerIllegal : Prop :=
  ∀ (s : State), s.me.kind = .sm →
    (∀ i : Instr, i.wf = true → i.isEvent = false →
      let major := encodedWords i / 2 ^ 26 % 2 ^ 6
      (0x20 ≤ major ∧ major ≤ 0x28) ∨ (0x30 ≤ major ∧ major ≤ 0x33) → Raised s .illegal (wordOf i) (exec i s)) ∧
    ∀ (d a : SReg) (v : VReg) (n sc : BitVec 3) (c : Bool),
      ∀ i ∈ [Instr.send a n c, .sendv v n c, .recv d n c, .recvv v n c, .tryrecv d a n c, .chstatIn d n c, .chstatOut d n c, .barArrive d n sc c,
          .barWait d a n sc c, .barSync d n sc c, .barStat d n c],
        Raised s .illegal (wordOf i) (exec i s)

/-- R176, R187 to R190: an arrival with nothing older outstanding leaves at once for the home: its target is the next generation as the
strand's cluster sees it, it is counted barSpan cycles later, and BAR.ARRIVE's destination comes with the home's reply; a member whose last
arrival has not been answered waits. BAR.STAT from another cluster is read at the home and comes back.
Where the spec leaves a point open or to inference, it states the model's reading: log entry 27. -/
def Sys2Proof.Says.BarrierArrive : Prop :=
  ∀ (s : State) (d : SReg) (n sc : BitVec 3) (c : Bool) (t : Troupe) (b : Barrier), s.me.kind ≠ .sm → s.me.ops = [] →
    s.troupe? s.me.troupe = some t → s.barrier? s.me.troupe n.toNat = some b → s.me.vcid ∈ b.members →
    let gen := b.genAt (saPkg s.me.sa)
    let op := fun (what : OpWhat) (st : Stage) => ({ fenceOp s what with dsts := [.s d], stage := st } : Op)
    (b.mustWait s.me.vcid (saPkg s.me.sa) = true → exec (.barArrive d n sc c) s = .next s ∧ exec (.barSync d n sc c) s = .next s) ∧
    (b.mustWait s.me.vcid (saPkg s.me.sa) = false →
      (∃ u, exec (.barArrive d n sc c) s = .next u ∧ u.me = { (movedOn s 4 c).me with ops := [op (.barArrive d n.toNat false (gen + 1)) .away] } ∧
        (s.cycle + t.barSpan b, Instr.barrierArrival s.me.troupe n.toNat s.me.vcid) ∈ u.agenda ∧
        (s.cycle + t.barReply b (saPkg s.me.sa), Instr.barArriveResult s.me.sa s.me.nextQ) ∈ u.agenda ∧ SameMemory s u) ∧
      (∃ u, exec (.barSync d n sc c) s = .next u ∧ u.me = { (movedOn s 4 c).me with ops := [op (.barArrive d n.toNat true (gen + 1)) .away] } ∧
        (s.cycle + t.barSpan b, Instr.barrierArrival s.me.troupe n.toNat s.me.vcid) ∈ u.agenda ∧ SameMemory s u)) ∧
    (t.barHome b ≠ saPkg s.me.sa → ∃ u, exec (.barStat d n c) s = .next u ∧
      u.me = { (movedOn s 4 c).me with ops := [op (.barStat d n.toNat 0) .waiting] } ∧
      (s.cycle + routeLatency (t.barHome b) (saPkg s.me.sa), Instr.barStatResult s.me.sa s.me.nextQ) ∈ u.agenda ∧ SameMemory s u)

/-- R187 to R190: the results of BAR.ARRIVE and BAR.STAT land in their destination; an arrival is counted once a phase, and the last one
completes the phase at the home; another cluster sees the new generation when its update arrives.
Where the spec leaves a point open or to inference, it states the model's reading: log entry 27. -/
def Sys2Proof.Says.BarrierEvents : Prop :=
  (∀ (s : State) (o : Op) (d : SReg) (n : Nat) (g : BitVec 16) (v : Word), Calm s → s.me.ops = [o] →
    let lands := fun (w : Word) out => ∃ t, out = Host.Outcome.next t ∧ (∀ r, t.me.getS r = if r = d ∧ d ≠ 0 then w else s.me.getS r) ∧
      t.me.ops = [] ∧ t.me.pc = s.me.pc ∧ SameMemory s t
    (o.what = .barArrive d n false g → lands (g.zeroExtend 64) (exec (.barArriveResult s.me.sa o.q) s)) ∧
    (o.what = .barStat d n v → o.stage = .away → lands v (exec (.barStatResult s.me.sa o.q) s)) ∧
    (o.what = .barStat d n v → o.stage = .waiting → ∀ b, s.barrier? s.me.troupe n = some b →
      let stat : Word := BitVec.ofNat 64 (b.members.length % 2 ^ 16 * 2 ^ 32 + b.arrived.length % 2 ^ 16 * 2 ^ 16 + b.gen.toNat)
      ∃ t, exec (.barStatResult s.me.sa o.q) s = .next t ∧ t.me = { s.me with ops := [{ o with stage := .away, what := .barStat d n stat }] } ∧
      (s.cycle + (s.cycle - o.issued), Instr.barStatResult s.me.sa o.q) ∈ t.agenda)) ∧
  (∀ (s : State) (tr n v : Nat) (t : Troupe) (b : Barrier), s.troupe? tr = some t → Tab.get? t.bars n = some b → b.members ≠ [] →
    (v ∈ b.members → v ∉ b.arrived →
      (b.arrived.length + 1 < b.members.length → ∃ u b', exec (.barrierArrival tr n v) s = .next u ∧ u.barrier? tr n = some b' ∧
        b' = { b with arrived := b.arrived ++ [v] } ∧ u.me = s.me ∧ SameMemory s u) ∧
      (b.members.length ≤ b.arrived.length + 1 → ∃ u b', exec (.barrierArrival tr n v) s = .next u ∧ u.barrier? tr n = some b' ∧
        b'.gen = b.gen + 1 ∧ b'.arrived = [] ∧ b'.members = b.members ∧ b'.genAt (t.barHome b) = b.gen + 1 ∧ u.me = s.me ∧ SameMemory s u)) ∧
    (∀ (cl : Nat) (g : BitVec 16), ∃ u b', exec (.genUpdateArrival tr n cl g) s = .next u ∧ u.barrier? tr n = some b' ∧ b'.genAt cl = g ∧
      (∀ x, x ≠ cl → Tab.get? b'.seen x = Tab.get? b.seen x) ∧ b'.gen = b.gen ∧ b'.arrived = b.arrived ∧ u.me = s.me ∧ SameMemory s u))

/-- R182, R185, R191, R193, R220: what arrives at a seated vcore: a channel entry at the end of its port, a credit, a message at the end of the
inbox while it has room and nothing is spilled; at a slot that the vcore has left, an entry or a message goes to mail spill; a spilled message read
back follows the inbox's; what arrives for a halted vcore is discarded and counted.
Where the spec leaves a point open or to inference, it states the model's reading: log entries 29, 34, 70. -/
def Sys2Proof.Says.MailArrivals : Prop :=
  ∀ (s : State) (t : Troupe) (n : BitVec 3) (vec : Bool) (data : VWord) (msg : Word), Seated s t → 0 < s.me.troupe →
    let ring := t.spill s.me.vcid
    let head := memRead s.mem ring 8
    let tail := memRead s.mem (ring + 8) 8
    let count := memRead s.mem (ring + 0x10 + n.toNat) 1
    (count = 0 → ∃ u, exec (.channelEntryArrival s.me.troupe ⟨s.me.vcid, s.me.sa⟩ n.toNat vec data) s = .next u ∧
      u.me = { s.me with inPorts := u.me.inPorts } ∧ u.me.inPorts[n.toNat] = s.me.inPorts[n.toNat] ++ [{ vec := vec, data := data, taken := none }] ∧
      (∀ i : Fin 8, i.val ≠ n.toNat → u.me.inPorts[i] = s.me.inPorts[i]) ∧ SameMemory s u) ∧
    (∀ slot, (slot ≠ s.me.sa ∨ count ≠ 0) → count < 8 → Memory.wf s.mem = true →
      ∃ u, exec (.channelEntryArrival s.me.troupe ⟨s.me.vcid, slot⟩ n.toNat vec data) s = .next u ∧ u.me = s.me ∧
        memRead u.mem (ring + 0x40 + 512 * n.toNat + 64 * count) 8 = data.toNat % 2 ^ 64 ∧ memRead u.mem (ring + 0x10 + n.toNat) 1 = count + 1 ∧
        (vec = true → memRead u.mem (ring + 0x40 + 512 * n.toNat + 64 * count) 64 = data.toNat) ∧
        (∀ i < 64, (memRead u.mem (ring + 0x18) 8).testBit i = if i = 8 * n.toNat + count then vec else (memRead s.mem (ring + 0x18) 8).testBit i) ∧
        ∀ x, x < ring + 0x10 ∨ ring + 0x1040 ≤ x → memGet u.mem x = memGet s.mem x) ∧
    (∀ slot, slot ≠ s.me.sa → s.ringFull t s.me.troupe s.me.vcid = false → Memory.wf s.mem = true →
      ∃ u, exec (.inboxMessageArrival s.me.troupe ⟨s.me.vcid, slot⟩ msg) s = .next u ∧ u.me = s.me ∧
        memRead u.mem (ring + 0x1040 + 8 * (tail % 4096)) 8 = msg.toNat ∧ memRead u.mem (ring + 8) 8 = (tail + 1) % 2 ^ 64 ∧
        ∀ x, ¬ (ring + 8 ≤ x ∧ x < ring + 16) → ¬ (ring + 0x1040 + 8 * (tail % 4096) ≤ x ∧ x < ring + 0x1048 + 8 * (tail % 4096)) →
          memGet u.mem x = memGet s.mem x) ∧
    (∃ u, exec (.creditReturn s.me.troupe s.me.vcid n.toNat) s = .next u ∧ u.me = { s.me with credits := u.me.credits } ∧
      (∀ i : Fin 8, u.me.credits[i] = s.me.credits[i] + if i.val = n.toNat then 1 else 0) ∧ SameMemory s u) ∧
    (s.me.inbox.length < 16 → head = tail → ∃ u, exec (.inboxMessageArrival s.me.troupe ⟨s.me.vcid, s.me.sa⟩ msg) s = .next u ∧
      u.me = { s.me with inbox := s.me.inbox ++ [{ data := msg, taken := none }] } ∧ SameMemory s u) ∧
    (s.me.inbox.length < 16 → head ≠ tail → s.portsSpilled ring = false → Memory.wf s.mem = true → ∃ u, exec (.spillReadback s.me.troupe s.me.vcid) s = .next u ∧
      u.me = { s.me with inbox := s.me.inbox ++ [{ data := BitVec.ofNat 64 (memRead s.mem (ring + 0x1040 + 8 * (head % 4096)) 8), taken := none }] } ∧
      Stored s u ring 8 (head + 1)) ∧
    (∀ t', s.troupe? s.me.troupe = some t' → ∀ v slot, t'.live v = false → ∃ u t'', exec (.inboxMessageArrival s.me.troupe ⟨v, slot⟩ msg) s = .next u ∧
      u.troupe? s.me.troupe = some t'' ∧ t''.discarded = t'.discarded + 1 ∧ u.me = s.me ∧ SameMemory s u)

/-! ### System instructions (chapter 09) -/

/-- R41, R210: outside system code every system-class instruction raises PRIVILEGED with its word in TRAPADDR; in system code one that another
kind of strand executes raises ILLEGAL. -/
def Sys2Proof.Says.PrivilegeGate : Prop :=
  ∀ (s : State) (d a b : SReg) (n : SegIx) (x c : Bool),
    let everywhere := [Instr.setseg a b n c, .getseg d x n c, .tlbinvPage a b c, .tlbinvSpace b c, .tlbinvAll c, .wake a c,
      .codesync a b n c, .xlatinvRange a b c, .xlatinvAll c, .wpsetPhys d a b c]
    let vcores := [Instr.park d a c, .halt c]
    let managers := [Instr.wakeStrand a c, .ctxsave d a b n c, .ctxload d a b n c, .slotswap d a b c, .slotctl d a b c, .qwait d c, .qpop d c,
      .qpush d a c, .qsignal d a b x c, .qsignalAdd d a b x c, .launch d a c, .launchTry d a c, .wqmap d c, .wqmapQ d a c, .wqunmap d c, .rankset d a c]
    (s.me.system = false → ∀ i ∈ everywhere ++ vcores ++ managers, Raised s .privileged (wordOf i) (exec i s)) ∧
    (s.me.system = true → s.me.kind = .sm → ∀ i ∈ vcores, Raised s .illegal (wordOf i) (exec i s)) ∧
    (s.me.system = true → s.me.kind ≠ .sm → ∀ i ∈ managers, Raised s .illegal (wordOf i) (exec i s))

/-- R140, R212, R217: SETSEG writes one segment register or raises what its value breaks; GETSEG reads a word of one. -/
def Sys2Proof.Says.SegmentRegisters : Prop :=
  ∀ (s : State) (d a b : SReg) (n : SegIx) (c : Bool), s.me.system = true →
    let base := s.me.getS a
    let desc := s.me.getS b
    let kind := (desc.extractLsb' 44 4).toNat
    let size : Nat := [0, 2 ^ 57, 128 * 1024, 19 * 1024 * 1024, 32 * 1024 * 1024].getD kind 0
    let fits := kind = 0 ∨ base.toNat + (desc.extractLsb' 0 41).toNat ≤ size
    let range := kind2 [{ base := base, desc := desc }]
    let clash := s.me.kind == .lean && (s.rangeClash (s.me.sa - saSlot s.me.sa) s.me.troupe range || s.rangeClash (s.homeOf s.me) s.me.troupe range)
    let out := exec (.setseg a b n c) s
    ((desc.extractLsb' 49 15 ≠ 0 ∨ 4 < kind) → Raised s .segRights desc out) ∧
    (desc.extractLsb' 49 15 = 0 → kind ≤ 4 → ¬ fits → Raised s .segLimit base out) ∧
    (desc.extractLsb' 49 15 = 0 → kind ≤ 4 → fits → clash = true → Raised s .segRights desc out) ∧
    (desc.extractLsb' 49 15 = 0 → kind ≤ 4 → fits → clash = false → ∃ t, out = .next t ∧ t.me = { (movedOn s 4 c).me with segs := t.me.segs } ∧
      (∀ i : Fin 8, t.me.segs[i] = if i.val = n.toNat then { base := base, desc := desc } else s.me.segs[i]) ∧ SameMemory s t ∧ t.others = s.others) ∧
    WroteS s d (s.me.segs[n.toNat]).base 4 c (exec (.getseg d false n c) s) ∧ WroteS s d (s.me.segs[n.toNat]).desc 4 c (exec (.getseg d true n c) s)

/-- R212: TLBINV reaches every port of the module within 160 cycles, and is complete after them.
Where the spec leaves a point open or to inference, it states the model's reading: log entry 33. -/
def Sys2Proof.Says.TlbInvalidate : Prop :=
  (∀ (s : State) (a b : SReg) (c : Bool), s.me.system = true →
    let space := (s.me.getS b).toNat % 2 ^ 32
    ∀ p ∈ [(Instr.tlbinvPage a b c, TlbForm.page (s.me.getS a).toNat space, (0 : BitVec 2), s.me.getS a, space),
        (.tlbinvSpace b c, .space space, 1, 0, space), (.tlbinvAll c, .all, 2, 0, 0)],
      ∃ t, exec p.1 s = .next t ∧ t.me = { (movedOn s 4 c).me with ops := s.me.ops ++ [{ fenceOp s (.tlbinv p.2.1) with stage := .away }] } ∧
        (∀ port < 104, ∃ k, 1 ≤ k ∧ k ≤ 160 ∧ (s.cycle + k, Instr.tlbinvPortArrival port p.2.2.1 p.2.2.2.1 p.2.2.2.2) ∈ t.agenda) ∧
        (s.cycle + 160, Instr.tlbinvCompletion s.me.sa s.me.nextQ) ∈ t.agenda ∧ SameMemory s t) ∧
  (∀ (s : State) (o : Op) (form : TlbForm), Calm s → s.me.ops = [o] → o.what = .tlbinv form →
    ∃ t, exec (.tlbinvCompletion s.me.sa o.q) s = .next t ∧ t.me = { s.me with ops := [] } ∧ SameMemory s t)

/-- R213: PARK takes a waiting token or parks until a wake or its deadline; a WAKE travels to its vcore and leaves PARK with 1, or sets the
token; the deadline leaves it with 0; a vcid outside the troupe raises CHANNEL_UNBOUND.
Where the spec leaves a point open or to inference, it states the model's reading: log entry 31. -/
def Obligations.ParkAndWake : Prop :=
  ∀ (s : State) (d a : SReg) (c : Bool),
    let resumed := fun (v : Word) (t : State) => t.me.run = .active ∧ t.me.pc = s.me.pc + 4 ∧ t.me.nextQ = s.me.nextQ + 1 ∧
      (∀ r, t.me.getS r = if r = s.me.parkDst ∧ s.me.parkDst ≠ 0 then v else s.me.getS r) ∧ t.me.vregs = s.me.vregs ∧ SameMemory s t
    (s.me.system = true → s.me.kind ≠ .sm →
      (s.me.token = true → WroteS { s with me := { s.me with token := false, parkAgain := false } } d 1 4 c (exec (.park d a c) s)) ∧
      (s.me.token = false → s.me.parkAgain = false → ∃ t, exec (.park d a c) s = .next t ∧
        t.me = { s.me with run := .parked, parkDl := (s.me.getS a).toNat, parkDst := d, parkCue := c } ∧ SameMemory s t ∧
        (s.cycle ≤ (s.me.getS a).toNat → s.me.getS a ≠ 0 → ((s.me.getS a).toNat, Instr.parkDeadline s.me.sa) ∈ t.agenda))) ∧
    (s.me.run = .parked → s.me.parkDl ≠ 0 → s.me.parkDl ≤ s.cycle → ∃ t, exec (.parkDeadline s.me.sa) s = .next t ∧ resumed 0 t) ∧
    (∀ tr, Seated s tr →
      (s.me.run = .parked → s.earlierEvent s.me = false → s.me.swap = none → ∃ t, exec (.wakeArrival s.me.troupe s.me.vcid) s = .next t ∧
        resumed 1 t ∧ t.me.cue = (s.me.cue || s.me.parkCue)) ∧
      (s.me.run ≠ .parked ∨ s.earlierEvent s.me = true ∨ s.me.swap ≠ none → ∃ t, exec (.wakeArrival s.me.troupe s.me.vcid) s = .next t ∧ t.me = { s.me with token := true } ∧ SameMemory s t)) ∧
    (s.me.system = true → ∀ tr, s.troupe? s.me.troupe = some tr →
      let v := (s.me.getS a).toNat % 2 ^ 32
      (Tab.get? tr.place v = none → Raised s .channelUnbound 0x30 (exec (.wake a c) s)) ∧
      (Tab.get? tr.place v ≠ none → ∃ t, exec (.wake a c) s = .next t ∧ t.me = (movedOn s 4 c).me ∧ SameMemory s t ∧
        (s.cycle + s.latencyTo s.me.sa s.me.troupe v, Instr.wakeArrival s.me.troupe v) ∈ t.agenda)) ∧
    (s.me.system = true → s.me.kind = .sm →
      (s.strand? (s.me.getS a).toNat = none → Passed s 4 c (exec (.wakeStrand a c) s)) ∧
      (∀ m, s.strand? (s.me.getS a).toNat = some m → (m.run = .vacant ∨ m.kind = .sm) → Passed s 4 c (exec (.wakeStrand a c) s)) ∧
      (∀ m, s.strand? (s.me.getS a).toNat = some m → m.run ≠ .vacant → m.kind ≠ .sm → ∃ t, exec (.wakeStrand a c) s = .next t ∧
        t.me = (movedOn s 4 c).me ∧ (s.cycle + chanLatency s.me.sa m.sa, Instr.wakeArrival m.troupe m.vcid) ∈ t.agenda ∧ SameMemory s t))

/-- An instruction without an access of its own joins the outstanding operations and its strand goes on. -/
def Sys2Proof.Joined (s : State) (what : OpWhat) (dsts : List RegName) (stage : Stage) (c : Bool) (t : State) : Prop :=
  t.me = { (movedOn s 4 c).me with ops := s.me.ops ++ [{ fenceOp s what with dsts := dsts, stage := stage }] } ∧ SameMemory s t ∧ t.others = s.others

/-- R214, R216, R218: CTXSAVE and CTXLOAD check 1,536 bytes of their segment and start the transfer; SLOTSWAP sends its request to its target;
SLOTCTL sets the enable of a slot, writes 1 for an occupied one that it should disable, and a value the spec does not state for an SADDR that
names no lean or heavy slot.
Where the spec leaves a point open or to inference, it states the model's reading: log entry 37. -/
def Sys2Proof.Says.ContextInstructions : Prop :=
  ∀ (s : State) (d a b : SReg) (n : SegIx) (c : Bool), s.me.system = true → s.me.kind = .sm →
    let g := s.me.segs[n.toNat]
    let moves := fun (load : Bool) o =>
      match segCheck s.me g load (!load) (s.me.getS b) 1536 1 with
      | .bad cause addr => Raised s cause addr o
      | .ok addr =>
        ((s.me.getS b).toNat % 64 ≠ 0 → Raised s .misaligned (s.me.getS b) o) ∧
        ((s.me.getS b).toNat % 64 = 0 → ∃ t op, o = Host.Outcome.next t ∧ t.me = { (movedOn s 4 c).me with ops := s.me.ops ++ [op] } ∧
          op.q = s.me.nextQ ∧ op.what = .context d load (s.me.getS a).toNat ∧ op.dsts = [.s d] ∧ (op.accs.map (·.size)).sum = 1536 ∧
          (∀ x ∈ op.accs, addr ≤ x.va ∧ x.va + x.size ≤ addr + 1536) ∧ SameMemory s t ∧
          ((g.desc.extractLsb' 44 4).toNat = 1 → (s.cycle + 10, Instr.translationConfirm s.me.sa s.me.nextQ) ∈ t.agenda) ∧
          ((g.desc.extractLsb' 44 4).toNat ≠ 1 → ∃ k, 24 ≤ k ∧ (s.cycle + k, Instr.contextTransferResult s.me.sa s.me.nextQ) ∈ t.agenda))
    let on := (s.me.getS b).getLsbD 0
    let target := (s.me.getS a).toNat
    moves false (exec (.ctxsave d a b n c) s) ∧ moves true (exec (.ctxload d a b n c) s) ∧
    (∃ t, exec (.slotswap d a b c) s = .next t ∧ Joined s (.slotswap d target (s.me.getS b).toNat) [.s d] .away c t ∧
      (s.cycle + diePath (saDie s.me.sa) (saDie target), Instr.slotswapArrival s.me.sa s.me.nextQ) ∈ t.agenda) ∧
    ((∀ x, s.slotAt target = some x → x.kind = .sm) → WroteS { s with freeCtr := s.freeCtr + 1 } d (Config.freeWord s.freeCtr) 4 c (exec (.slotctl d a b c) s)) ∧
    (∀ x, s.slotAt target = some x → x.kind ≠ .sm →
      (on = false → x.occupied = true → WroteS s d 1 4 c (exec (.slotctl d a b c) s)) ∧
      (on = true ∨ x.occupied = false → x.sa = target → target ≠ s.me.sa → ∃ t, exec (.slotctl d a b c) s = .next t ∧
        t.strand? target = some { x with enabled := on } ∧ (∀ r, t.me.getS r = if r = d ∧ d ≠ 0 then 0 else s.me.getS r) ∧ t.me.pc = s.me.pc + 4 ∧
        SameMemory s t))

/-- R214, R216: CTXSAVE writes the record of a switched-out context and 0, CTXLOAD takes one into a cache; status 3 is an unknown CID and 4 a
resident one. The bytes are those that the strand's core reads and writes, so that private ones go through its L1D. The status of a SLOTSWAP lands in
its destination.
Where the spec leaves a point open or to inference, it states the model's reading: log entries 11, 32, 65. -/
def Sys2Proof.Says.ContextResults : Prop :=
  ∀ (s : State) (o : Op) (d : SReg) (cid : Nat) (a : Access) (l : Nat), Calm s → Memory.wf s.mem = true → s.me.ops = [o] → o.accs = [a] → a.loc = some l →
    a.size = 1536 →
    let own := o.kind == 1 && a.region == .priv
    let gives := fun (v : Nat) (t : State) => (∀ r, t.me.getS r = if r = d ∧ d ≠ 0 then BitVec.ofNat 64 v else s.me.getS r) ∧ t.me.ops = [] ∧ t.me.pc = s.me.pc
    let out := exec (.contextTransferResult s.me.sa o.q) s
    (o.what = .context d false cid → s.residentCid cid = true → ∃ t, out = .next t ∧ gives 4 t ∧ SameMemory s t) ∧
    (o.what = .context d false cid → s.residentCid cid = false → s.knownCid cid = false → ∃ t, out = .next t ∧ gives 3 t ∧ SameMemory s t) ∧
    (o.what = .context d false cid → s.residentCid cid = false → s.knownCid cid = true →
      let rec_ := s.vcoreRecord (cid / 2 ^ 32) (cid % 2 ^ 32)
      rec_.length = 1536 → ∃ t, out = .next t ∧ gives 0 t ∧ (List.range 1536).map (fun i => t.seen s.me.sa own (l + i)) = rec_ ∧
        (∀ x, own = true ∨ x < l ∨ l + 1536 ≤ x → memGet t.mem x = memGet s.mem x) ∧ (own = false → t.l1d = s.l1d ∧ t.l2 = s.l2)) ∧
    (o.what = .context d true cid →
      let c2 := s.view s.me.sa own (l + 4) 4 * 2 ^ 32 + s.view s.me.sa own l 4
      s.residentCid c2 = false → s.knownCid c2 = true → ∃ t cl, out = .next t ∧ gives 0 t ∧ (t.cluster cl).cached c2 = some ((List.range 1536).map (fun i => s.seen s.me.sa own (l + i)))) ∧
    (∀ v : Nat, o.what = .result d (BitVec.ofNat 64 v) → ∃ t, exec (.slotswapStatus s.me.sa o.q) s = .next t ∧ gives v t ∧ SameMemory s t)

/-- R214 to R217: a SLOTSWAP request takes hold of a free and enabled slot, with the context it is to restore, if any; else it answers at once and
leaves the slot as it is: 5 where there is no slot, 1 at a disabled or stopped one, 4 for a context that another slot holds or waits for, 3 for an unknown
one, 2 where kind or width differ, 6 where its KIND 2 ranges are not at home there or meet another troupe's. A drained strand is
saved in 24 cycles, 8,192 more on a heavy core; then its record is in its cluster's cache and its slot vacant, and the context to come follows 24 cycles
later, or later from its backing slot; an empty slot just restores. A restored strand has the record's
registers. The status goes back to who asked.
Where the spec leaves a point open or to inference, it states the model's reading: log entries 29, 30, 37, 64. -/
def Sys2Proof.Says.SlotSwapEvents : Prop :=
  let answered := fun (s t : State) (issuer q target status : Nat) =>
    (s.cycle + diePath (saDie target) (saDie issuer), Instr.slotswapStatus issuer q) ∈ t.agenda ∧
    ∀ im o d x c, s.strand? issuer = some im → im.ops = [o] → o.q = q → o.what = .slotswap d x c →
      ∃ im', t.strand? issuer = some im' ∧ im'.ops = [{ o with what := .result d (BitVec.ofNat 64 status) }]
  (∀ (s : State) (o : Op) (d : SReg) (target cid : Nat), s.me.ops = [o] → o.what = .slotswap d target cid → s.me.sa < 2 ^ 18 →
    let out := exec (.slotswapArrival s.me.sa o.q) s
    let answers := fun (status : Nat) => ∃ t, out = .next t ∧ t.me = { s.me with ops := [{ o with what := .result d (BitVec.ofNat 64 status) }] } ∧
      answered s t s.me.sa o.q target status ∧ t.others = s.others ∧ SameMemory s t
    let takesHold := fun (m : Strand) (c : Option Nat) => ∃ t, out = .next t ∧
      t.strand? target = some { m with swap := some { issuer := s.me.sa, q := o.q, cid := c, saving := false } } ∧
      (s.cycle, Instr.contextSave target) ∈ t.agenda ∧ t.me = s.me ∧ SameMemory s t
    (s.slotAt target = none → answers 5) ∧
    (∀ m, s.slotAt target = some m → m.sa = target → target ≠ s.me.sa → m.real = true → m.swap = none →
      let tr := cid / 2 ^ 32
      let v := cid % 2 ^ 32
      let elsewhere := s.claimedCid cid = true ∨ (¬ (m.cid = cid ∧ m.run ≠ .vacant) ∧ s.residentCid cid = true)
      let known := (m.cid = cid ∧ m.run ≠ .vacant) ∨ ∃ u, s.troupe? tr = some u ∧ v ∈ u.out ∧ u.live v = true
      let flags := bytesNat (s.vcoreRecord tr v) 0x00C 4
      let fits := (flags / 2 % 2 = 1 ↔ m.kind = .heavy) ∧ flags / 4 % 64 = m.width
      let ranges := kind2 (recordSegs (s.vcoreRecord tr v))
      let core := target - saSlot target
      let atHome := ∃ u, s.troupe? tr = some u ∧ Tab.get? u.homes v = some core
      let meets := ∃ h ∈ s.heldRanges core, h.1 ≠ tr ∧ ∃ r ∈ ranges, overlaps r.1 r.2 h.2.1 h.2.2 = true
      (m.enabled = false ∨ m.dbg.stopped = true → answers 1) ∧
      (m.enabled = true → m.dbg.stopped = false →
        (cid = 2 ^ 64 - 1 → takesHold m none) ∧
        (cid ≠ 2 ^ 64 - 1 →
          (elsewhere → answers 4) ∧
          (¬ elsewhere → ¬ known → answers 3) ∧
          (¬ elsewhere → known → ¬ fits → answers 2) ∧
          (¬ elsewhere → known → fits → m.kind = .lean → ranges ≠ [] → (¬ atHome ∨ meets) → answers 6) ∧
          (¬ elsewhere → known → fits → (m.kind = .heavy ∨ ranges = [] ∨ (atHome ∧ ¬ meets)) → s.movedTied m (some cid) = false →
            takesHold m (some cid)))))) ∧
  (∀ (s : State) (r : SwapReq) (tr : Troupe), s.me.swap = some r → s.me.run ≠ .vacant → s.troupe? s.me.troupe = some tr →
    (r.saving = false → s.me.dbg.stopped = false → s.earlierEvent s.me = false → s.drained s.me = true → s.movedTied s.me r.cid = false →
      (∀ c, r.cid = some c → ∀ u, s.troupe? (c / 2 ^ 32) = some u → ∀ k ∈ u.tasks, k.2.worker = some (c % 2 ^ 32) → k.2.state ≠ .running) →
      ∃ t, exec (.contextSave s.me.sa) s = .next t ∧ t.me = { s.me with swap := some { r with saving := true } } ∧
        (s.cycle + 24 + (if s.me.kind = .heavy then 8192 else 0), Instr.contextSave s.me.sa) ∈ t.agenda ∧ SameMemory s t) ∧
    (r.saving = true → r.issuer < 2 ^ 18 → r.issuer ≠ s.me.sa → s.me.kind = .lean → s.me.inbox = [] → (∀ i : Fin 8, s.me.inPorts[i] = []) →
      (s.cluster (saPkg s.me.sa)).tcc = [] →
      ∃ t tr', exec (.contextSave s.me.sa) s = .next t ∧ t.me.run = .vacant ∧
        (t.cluster (saPkg s.me.sa)).cached s.me.cid = some (s.recordOf s.me) ∧ t.troupe? s.me.troupe = some tr' ∧ s.me.vcid ∈ tr'.out ∧ SameMemory s t ∧
        (r.cid = none → t.me.swap = none ∧ answered s t r.issuer r.q s.me.sa 0) ∧
        (∀ c, r.cid = some c → t.me.swap = some r ∧ (∃ k, 24 ≤ k ∧ (s.cycle + k, Instr.contextRestore s.me.sa) ∈ t.agenda) ∧
          ((∃ p ∈ s.clusters, (p.2.cached c).isSome = true) → (s.cycle + 24, Instr.contextRestore s.me.sa) ∈ t.agenda)))) ∧
  (∀ (s : State) (r : SwapReq) (c : Nat), s.me.swap = some r → s.me.run = .vacant → r.cid = some c → s.movedTied s.me (some c) = false →
    (∀ u, s.troupe? (c / 2 ^ 32) = some u → ∀ k ∈ u.tasks, k.2.worker = some (c % 2 ^ 32) → k.2.state ≠ .running) →
    ∃ t, exec (.contextSave s.me.sa) s = .next t ∧ t.me = s.me ∧ SameMemory s t ∧ ∃ k, 24 ≤ k ∧ (s.cycle + k, Instr.contextRestore s.me.sa) ∈ t.agenda) ∧
  (∀ (s : State) (r : SwapReq) (cid : Nat) (tr : Troupe), s.me.swap = some r → r.cid = some cid → s.troupe? (cid / 2 ^ 32) = some tr → s.me.kind = .lean →
    s.lostCtx = [] → r.issuer < 2 ^ 18 → r.issuer ≠ s.me.sa → (∀ k ∈ tr.tasks, k.2.worker = some (cid % 2 ^ 32) → k.2.state ≠ .running) →
    let m := s.me.fromContext (s.vcoreRecord (cid / 2 ^ 32) (cid % 2 ^ 32))
    ∃ t tr', exec (.contextRestore s.me.sa) s = .next t ∧ t.me.regs = m.regs ∧ t.me.vregs = m.vregs ∧ t.me.kregs = m.kregs ∧ t.me.segs = m.segs ∧
      t.me.pc = m.pc ∧ t.me.flags = m.flags ∧ t.me.fctl = m.fctl ∧ t.me.tvec = m.tvec ∧ t.me.credits = m.credits ∧ t.me.token = m.token ∧
      (t.me.run ≠ .idle → t.me.h = m.h) ∧
      t.me.codeSeg = m.codeSeg ∧ t.me.trapSeg = m.trapSeg ∧ t.me.swap = none ∧ t.troupe? (cid / 2 ^ 32) = some tr' ∧
      Tab.get? tr'.place (cid % 2 ^ 32) = some s.me.sa ∧ cid % 2 ^ 32 ∉ tr'.out ∧ answered s t r.issuer r.q s.me.sa 0)

/-- R215: a saved context gives back what it saved: registers, predicates, vectors, segments, PC, handler state, flags and trap registers, where
TVEC, TRAPINFO and the segments are such as every writer leaves them: reserved bits clear, a range inside its tier. -/
def Obligations.ContextRoundTrip : Prop :=
  ∀ (m m0 : Strand) (key : Word) (id bararr : Nat), m.vcid < 2 ^ 32 → m.troupe < 2 ^ 32 → m.asid < 2 ^ 32 → (∀ i : Fin 8, m.credits[i] < 16) →
    m.tvec.extractLsb' 0 2 = 0 → (m.trapInfo.getLsbD 0 = true ∨ m.trapInfo = 0) → (∀ g ∈ m.codeSeg :: m.trapSeg :: m.segs.toList, g.valid = true) →
    let r := m0.fromContext (m.context key id bararr)
    (m.context key id bararr).length = 1536 ∧ r.vcid = m.vcid ∧ r.troupe = m.troupe ∧ r.asid = m.asid ∧ r.h = m.h ∧ r.token = m.token ∧ r.pc = m.pc ∧
    r.codeSeg = m.codeSeg ∧ r.trapSeg = m.trapSeg ∧ r.fctl = m.fctl ∧ r.flags = m.flags ∧ r.tvec = m.tvec ∧ r.trapPc = m.trapPc ∧
    r.trapAddr = m.trapAddr ∧ r.trapCause = m.trapCause ∧ r.trapInfo = m.trapInfo ∧ r.credits = m.credits ∧ r.segs = m.segs ∧
    (∀ x, r.getS x = m.getS x) ∧ (∀ x, r.getK x = m.getK x) ∧ r.vregs = m.vregs

/-- R141, R217, R220: SCRATCHPAD_COPY gives a vcore's range its bytes on its new home core; SCRATCHPAD_CLEAR_END zeroes a range that nobody
holds; HALT vacates the slot once nothing is outstanding, and its vcore counts as halted.
Where the spec leaves a point open or to inference, it states the model's reading: log entry 36. -/
def Sys2Proof.Says.ScratchpadsAndHalt : Prop :=
  (∀ (s : State) (tr v core home off n : Nat) (t : Troupe), Memory.wf s.mem = true → s.troupe? tr = some t → t.live v = true → Tab.get? t.homes v = some home →
    home ≠ mkSa (pcDie (core / 64)) (pcIndex (core / 64)) (core % 64) 0 → kind2 (s.vcoreSegs tr v) = [(off, n)] →
    ∃ u t', exec (.scratchpadCopy tr v core) s = .next u ∧ memBytes u.mem (coreLoc core off) n = memBytes s.mem (coreLoc (coreNumber home) off) n ∧
      (∀ x, x < coreLoc core off ∨ coreLoc core off + n ≤ x → memGet u.mem x = memGet s.mem x) ∧ u.troupe? tr = some t' ∧
      Tab.get? t'.homes v = some (mkSa (pcDie (core / 64)) (pcIndex (core / 64)) (core % 64) 0) ∧ u.me = s.me) ∧
  (∀ (s : State) (core off n : Nat), Memory.wf s.mem = true → (s.cluster (core / 64)).clearing = [(core % 64, off, n)] → s.troupes = [] →
    ∃ u, exec (.scratchpadClearEnd core) s = .next u ∧ (u.cluster (core / 64)).clearing = [] ∧ u.me = s.me ∧
      ∀ x, memGet u.mem x = if coreLoc core off ≤ x ∧ x < coreLoc core off + n then 0 else memGet s.mem x) ∧
  (∀ (s : State) (c : Bool), s.me.system = true → s.me.kind ≠ .sm →
    (s.me.ops ≠ [] → exec (.halt c) s = .next s) ∧
    (s.me.ops = [] → s.me.held = [] → s.me.mq = [] → s.me.task = none → ∃ t, exec (.halt c) s = .next t ∧ t.me.run = .vacant ∧ t.me.ops = [] ∧
      t.me.census = s.me.census ∧ t.me.enabled = s.me.enabled ∧ ∀ tr, t.troupe? s.me.troupe = some tr → s.me.vcid ∈ tr.halted))


/-! ### Fatal faults and quiescence (chapters 08 and 09) -/

/-- Every strand is listed once, under its own SADDR. -/
def Sys2Proof.Listed (s : State) : Prop := (∀ p ∈ s.others, p.2.sa = p.1 ∧ p.1 ≠ s.me.sa) ∧ (s.others.map (·.1)).Nodup

/-- R221 to R223, R346: the first fatal report begins the dump with its record, later ones are counted, nine records kept; a resident vcore is
asked to vacate its slot, the next request follows in 32 cycles; without one the dump is copied; at its end the area begins with the dump's
mark, the completion record says 1, the launcher's notice is 2, and the troupe is gone; a die whose dump writer has faulted goes no further.
Where the spec leaves a point open or to inference, it states the model's reading: log entries 38, 39, 71. -/
def Sys2Proof.Says.FatalEnd : Prop :=
  ∀ (s : State) (tr : Nat) (t : Troupe), s.troupe? tr = some t →
    let die := saDie t.launcher
    let dump := t.field 0x0F0 8
    let done := t.field 0x130 8
    (∀ r, t.reports = [r] →
      (t.ending = false → (s.die die).hold = false → (s.die die).dumps = [] → ∃ u, exec (.fatalReport tr) s = .next u ∧
        u.troupe? tr = some { t with reports := [], ending := true, faults := [r] } ∧ (s.cycle, Instr.coreDump tr) ∈ u.agenda ∧
        (u.die die).dumps = [tr] ∧ u.me = s.me ∧ SameMemory s u) ∧
      (t.ending = true → ∃ u, exec (.fatalReport tr) s = .next u ∧ u.troupe? tr = some { t with
        reports := [], seconds := t.seconds + 1, faults := if t.faults.length < 9 then t.faults ++ [r] else t.faults } ∧ u.me = s.me ∧ SameMemory s u)) ∧
    ((s.die die).hold = true → exec (.coreDump tr) s = .next s ∧ exec (.coreDumpEnd tr) s = .next s) ∧
    ((s.die die).hold = false → s.toVacate tr = [] → (∀ m ∈ s.strands, m.swap = none) → ∃ u, exec (.coreDump tr) s = .next u ∧
      (s.cycle + s.dumpTime tr t, Instr.coreDumpEnd tr) ∈ u.agenda ∧ u.me = s.me ∧ SameMemory s u) ∧
    (∀ m, (s.die die).hold = false → s.toVacate tr = [m] → s.vacating m = false → ∃ u, exec (.coreDump tr) s = .next u ∧ (s.cycle + 32, Instr.coreDump tr) ∈ u.agenda ∧
      (s.cycle + diePath die (saDie m.sa), Instr.slotswapArrival (2 ^ 18 + m.sa) m.cid) ∈ u.agenda ∧ u.me = s.me ∧ SameMemory s u) ∧
    ((s.die die).hold = false → Listed s → Memory.wf s.mem = true → (dump + t.field 0x0F8 8 ≤ done ∨ done + 64 ≤ dump) → 0x200 ≤ t.field 0x0F8 8 → t.quietRecs = [] →
      ∃ u, exec (.coreDumpEnd tr) s = .next u ∧ u.troupe? tr = none ∧ memRead u.mem dump 4 = 0x504D5544 ∧ memRead u.mem (dump + 8) 4 = tr % 2 ^ 32 ∧
        memRead u.mem (dump + 0x20) 8 = s.cycle % 2 ^ 64 ∧ memRead u.mem done 4 = 1 ∧ memRead u.mem (done + 4) 4 = tr % 2 ^ 32 ∧
        (∀ x, (x < dump ∨ dump + t.field 0x0F8 8 ≤ x) → (x < done ∨ done + 64 ≤ x) → memGet u.mem x = memGet s.mem x) ∧
        (∀ m ∈ u.strands, m.troupe = tr → m.kind ≠ .sm → m.run = .vacant) ∧
        ∃ slot, (s.troupe? 0 = none → slot = t.launcher) ∧
          (s.cycle + 6, Instr.inboxMessageArrival 0 ⟨t.launcher, slot⟩ (BitVec.ofNat 64 (tr % 2 ^ 32 * 2 ^ 32 + 3 * 2 ^ 16 + 2))) ∈ u.agenda)

/-- R196, R197, R203: the count's expiry combines over the cluster tree; the report waits at the launching die, or where 64 wait is offered
again; a parked vcore's record names WAIT 6, its vcid and its PC in the dump area, whose FLAGS[1] is set.
Where the spec leaves a point open or to inference, it states the model's reading: log entry 54. -/
def Sys2Proof.Says.QuiescenceReport : Prop :=
  ∀ (s : State) (tr : Nat) (t : Troupe), s.troupe? tr = some t →
    let die := saDie t.launcher
    let rec_ := t.field 0x0F0 8 + 0x200 + 1536 * t.place.length
    (65536 ≤ t.quiet → ∃ u, exec (.quiescenceCountExpiry tr) s = .next u ∧ (s.cycle + (64 + 8 * t.reach), Instr.troupeQuiescent tr) ∈ u.agenda ∧
      u.me = s.me ∧ SameMemory s u) ∧
    (65536 ≤ t.quiet → ∃ u, exec (.quiescenceReoffer tr) s = .next u ∧ (s.cycle, Instr.troupeQuiescent tr) ∈ u.agenda ∧ u.me = s.me ∧ SameMemory s u) ∧
    (t.quiet < 65536 → exec (.quiescenceCountExpiry tr) s = .next s ∧ exec (.quiescenceReoffer tr) s = .next s) ∧
    ((s.die die).quiescent.length < 64 → ∃ u, exec (.troupeQuiescent tr) s = .next u ∧ (u.die die).quiescent = (s.die die).quiescent ++ [tr] ∧ u.me = s.me ∧
      ∀ x, x < t.field 0x0F0 8 ∨ t.field 0x0F0 8 + t.field 0x0F8 8 ≤ x → memGet u.mem x = memGet s.mem x) ∧
    (64 ≤ (s.die die).quiescent.length → ∃ u, exec (.troupeQuiescent tr) s = .next u ∧ (s.cycle + 65536, Instr.quiescenceReoffer tr) ∈ u.agenda ∧
      (u.die die).quiescent = (s.die die).quiescent ∧ u.me = s.me) ∧
    ((s.die die).quiescent.length < 64 → s.others = [] → s.me.troupe = tr → s.me.run = .parked → s.me.kind ≠ .sm → Memory.wf s.mem = true →
      0x200 + 1536 * t.place.length + 16 ≤ t.field 0x0F8 8 → ∃ u, exec (.troupeQuiescent tr) s = .next u ∧
        memRead u.mem rec_ 8 = 6 * 2 ^ 32 + s.me.vcid % 2 ^ 32 ∧ memRead u.mem (rec_ + 8) 8 = s.me.pc.toNat ∧
        memRead u.mem (t.field 0x0F0 8 + 6) 1 / 2 % 2 = 1)


/-! ### Shipped instructions (chapter 10) -/

/-- What every shipped instruction does with its computed result: a heavy strand delivers it as a local one's, after `lat` cycles, or traps with
`addr` in TRAPADDR; a lean strand traps where its cluster has no serving core, else sends the packet, which reaches that core's guest queue the
network time later, and goes on (R224 to R230, R235, R236). `can` are the conditions of its rule that make it trappable (R69). -/
def Sys2Proof.Ships (s : State) (d : RegName) (lat : Nat) (can cond : BitVec 5) (lanes : Nat) (addr : Word) (wrote : State → Prop)
    (carries : ShipResult → Prop) (c : Bool) (o : Out) : Prop :=
  (s.me.kind = .heavy → match firstEnabled s.me.fctl cond with
    | some k => Raised s k addr o
    | none => ∃ t, o = .next t ∧ wrote t ∧ SameMemory s t ∧
      t.me.flags = { fflags := s.me.flags.fflags ||| cond, vstat := s.me.flags.vstat, srseed := s.me.flags.srseed } ∧
      t = { s with me := { (movedOn s 4 c).me with
        regs := t.me.regs, vregs := t.me.vregs, undo := t.me.undo, flags := t.me.flags
        fixed := { q := s.me.nextQ, reg := d, due := s.cycle + lat, fflags := can != 0, vstat := false } :: s.me.fixed } }) ∧
  (s.me.kind = .lean → s.shipTarget (saPkg s.me.sa) = none → Raised s .shipUnavailable 0 o) ∧
  (s.me.kind = .lean → ∀ h, s.shipTarget (saPkg s.me.sa) = some h → ∃ t res g, o = .next t ∧
    t.me = { (movedOn s 4 c).me with ops := s.me.ops ++ [{ fenceOp s (.ship d res) with
      dsts := [d], stage := .away, trappable := s.me.fctl.extractLsb' 3 5 &&& can != 0 }] } ∧
    res.cond = cond ∧ res.trap = (firstEnabled s.me.fctl cond).map (fun k => (k, addr)) ∧ res.core = h ∧ res.lanes = BitVec.ofNat 16 lanes ∧ res.sets = (can != 0) ∧ carries res ∧
    (s.cycle + shipNet (saPkg s.me.sa) h, Instr.guestQueueEntry h) ∈ t.agenda ∧ (t.cluster h).guestIn = (s.cluster h).guestIn ++ [g] ∧
    g.sa = s.me.sa ∧ g.q = s.me.nextQ ∧ g.latency = lat ∧ g.wide = false ∧ g.entered = s.cycle + shipNet (saPkg s.me.sa) h ∧
    g.net = shipNet (saPkg s.me.sa) h ∧ SameMemory s t ∧ t.others = s.others)

/-- A shipped instruction with a scalar result. -/
def Sys2Proof.ShipsS (s : State) (d : SReg) (r : FRes) (lat : Nat) (can : BitVec 5) (c : Bool) (o : Out) : Prop :=
  Ships s (.s d) lat can r.cond (if r.cond &&& s.me.fctl.extractLsb' 3 5 = 0 then 0 else 1) (r.cond.zeroExtend 64)
    (fun t => t.me.getS d = (if d = 0 then 0 else BitVec.ofNat 64 r.bits) ∧ (∀ x, x ≠ d → t.me.getS x = s.me.getS x) ∧ t.me.vregs = s.me.vregs)
    (fun res => res.data.truncate 64 = BitVec.ofNat 64 r.bits) c o

/-- A shipped instruction with a vector result: its element `i` of `n` bits is `res i`, or stays; `act` are the active lanes with their results. -/
def Sys2Proof.ShipsV (s : State) (vd : VReg) (n : Nat) (res : Nat → Option (BitVec n)) (act : List (Nat × FRes)) (lat : Nat) (can : BitVec 5) (c : Bool)
    (o : Out) : Prop :=
  let cond := act.foldl (fun a p => a ||| p.2.cond) (0 : BitVec 5)
  let lanes := (act.filter (fun p => p.2.cond &&& s.me.fctl.extractLsb' 3 5 != 0)).foldl (fun a p => a ||| 2 ^ p.1) 0
  Ships s (.v vd) lat can cond lanes (BitVec.ofNat 64 (cond.toNat + lanes % 65536 * 65536))
    (fun t => (∀ i, n * i + n ≤ 512 → elt n (t.me.getV vd) i = (res i).getD (elt n (s.me.getV vd) i)) ∧ (∀ r, r ≠ vd → t.me.getV r = s.me.getV r) ∧
      t.me.regs = s.me.regs ∧ t.me.undo = s.me.undo)
    (fun r => ∀ old i, n * i + n ≤ 512 → elt n ((old &&& ~~~r.mask) ||| (r.data &&& r.mask)) i = (res i).getD (elt n old i)) c o

/-- R237 to R244: the scalar shipped forms, FP64 and FP32: their results, execution latencies and conditions. -/
def Sys2Proof.Says.ShippedScalar : Prop :=
  ∀ (s : State) (d a b : SReg) (r : BitVec 3) (c : Bool), s.me.kind ≠ .sm →
    let z := s.me.fctl.getLsbD 8
    let mode := rounding s r
    let D := fun x : SReg => fp64.source z (s.me.getS x).toNat
    let F := fun x : SReg => fp32.source z (lowBits fp32 (s.me.getS x))
    ShipsS s d (fAdd mode fp64 z (D a) (D b)) 4 0x17 c (exec (.dadd d a b r c) s) ∧
    ShipsS s d (fAdd mode fp64 z (D a) (D b).negate) 4 0x17 c (exec (.dsub d a b r c) s) ∧
    ShipsS s d (fMul mode fp64 z (D a) (D b)) 4 0x17 c (exec (.dmul d a b r c) s) ∧
    ShipsS s d (fDiv mode fp64 z (D a) (D b)) 22 0x1F c (exec (.ddiv d a b r c) s) ∧
    ShipsS s d (fSqrt mode fp64 z (D a)) 26 0x11 c (exec (.dsqrt d a r c) s) ∧
    ShipsS s d (fFma mode fp64 z (D a) (D b) (D d)) 5 0x17 c (exec (.dfma d a b r c) s) ∧
    ShipsS s d (fMinMax fp64 false z (s.me.getS a).toNat (s.me.getS b).toNat) 2 0x10 c (exec (.dmin d a b c) s) ∧
    ShipsS s d (fMinMax fp64 true z (s.me.getS a).toNat (s.me.getS b).toNat) 2 0x10 c (exec (.dmax d a b c) s) ∧
    ShipsS s d (fCompare fEqual false (D a) (D b)) 2 0x10 c (exec (.dcmpEq d a b c) s) ∧
    ShipsS s d (fCompare fLess true (D a) (D b)) 2 0x10 c (exec (.dcmpLt d a b c) s) ∧
    ShipsS s d (fCompare (fun p q => fLess p q || fEqual p q) true (D a) (D b)) 2 0x10 c (exec (.dcmpLe d a b c) s) ∧
    ShipsS s d { bits := fClass fp64 (s.me.getS a).toNat, cond := 0 } 2 0 c (exec (.dclass d a c) s) ∧
    ShipsS s d (fDiv mode fp32 z (F a) (F b)) 12 0x1F c (exec (.fdiv d a b r c) s) ∧
    ShipsS s d (fSqrt mode fp32 z (F a)) 14 0x11 c (exec (.fsqrt d a r c) s) ∧
    (∀ p ∈ [(Instr.fexp2 d a c, tExp2 z (F a), 10, (0x17 : BitVec 5)), (.flog2 d a c, tLog2 z (F a), 12, 0x1F), (.fsin d a c, tSin z (F a), 18, 0x17),
        (.fcos d a c, tCos z (F a), 18, 0x17), (.ftanh d a c, tTanh z (F a), 16, 0x17), (.fsigm d a c, tSigm z (F a), 16, 0x17),
        (.frcp d a c, tRcp z (F a), 8, 0x1F), (.frsqrt d a c, tRsqrt z (F a), 9, 0x1F)],
      ShipsS s d p.2.1 p.2.2.1 p.2.2.2 c (exec p.1 s)) ∧
    (∀ p ∈ [((0 : BitVec 4), fp32), (1, fp16), (2, bf16)],
      ShipsS s d (fConvert mode fp64 z (p.2.source z (lowBits p.2 (s.me.getS a)))) 4 0x10 c (exec (.dcvt d a p.1 r c) s) ∧
      ShipsS s d (fConvert mode p.2 z (D a)) 4 0x17 c (exec (.dcvt d a (p.1 + 4) r c) s)) ∧
    (∀ p ∈ [((8 : BitVec 4), ((s.me.getS a).truncate 32).toInt, (0 : BitVec 5)), (9, (s.me.getS a).toInt, 1), (10, ((s.me.getS a).toNat % 2 ^ 32 : Nat), 0),
        (11, ((s.me.getS a).toNat : Int), 1)],
      ShipsS s d (intToF mode fp64 p.2.1) 4 p.2.2 c (exec (.dcvt d a p.1 r c) s)) ∧
    (∀ p ∈ [((12 : BitVec 4), (-(2 ^ 31) : Int), (2 ^ 31 - 1 : Int)), (13, -(2 ^ 63), 2 ^ 63 - 1), (14, 0, 2 ^ 32 - 1), (15, 0, 2 ^ 64 - 1)],
      let v := fToInt mode p.2.1 p.2.2 (D a)
      ShipsS s d { bits := (BitVec.ofInt 64 v.1).toNat, cond := v.2 } 4 0x11 c (exec (.dcvt d a p.1 r c) s))

/-- R245, R246: the vector shipped forms, element by element under predicate bit `j`; VDCVT.s.d writes one half of the FP32 lanes. -/
def Sys2Proof.Says.ShippedVector : Prop :=
  ∀ (s : State) (vd va : VReg) (b : SReg) (bs : Bool) (k : KReg) (z c : Bool), s.me.kind ≠ .sm →
    let t := s.me.fctl.getLsbD 8
    let mode := rounding s 7
    let p := fun j => (s.me.getK k).getLsbD j
    let D := fun j => fp64.source t (elt 64 (s.me.getV va) j).toNat
    let B := fun j => fp64.source t (eltB s b bs 64 j).toNat
    let F := fun j => fp32.source t (elt 32 (s.me.getV va) j).toNat
    let G := fun j => fp32.source t (eltB s b bs 32 j).toNat
    let puts := fun (n lat : Nat) (can : BitVec 5) (f : Nat → FRes) o =>
      ShipsV s vd n (fun i => if p i then some (BitVec.ofNat n (f i).bits) else if z then some 0 else none)
        (((List.range (512 / n)).filter p).map (fun i => (i, f i))) lat can c o
    puts 64 6 0x17 (fun j => fAdd mode fp64 t (D j) (B j)) (exec (.vdadd vd va b bs k z c) s) ∧
    puts 64 6 0x17 (fun j => fAdd mode fp64 t (D j) (B j).negate) (exec (.vdsub vd va b bs k z c) s) ∧
    puts 64 6 0x17 (fun j => fMul mode fp64 t (D j) (B j)) (exec (.vdmul vd va b bs k z c) s) ∧
    puts 64 24 0x1F (fun j => fDiv mode fp64 t (D j) (B j)) (exec (.vddiv vd va b bs k z c) s) ∧
    puts 64 28 0x11 (fun j => fSqrt mode fp64 t (D j)) (exec (.vdsqrt vd va k z c) s) ∧
    puts 64 7 0x17 (fun j => fFma mode fp64 t (D j) (fp64.source t (s.me.getS b).toNat) (fp64.source t (elt 64 (s.me.getV vd) j).toNat))
      (exec (.vdfma vd va b k z c) s) ∧
    puts 64 4 0x10 (fun j => fMinMax fp64 false t (elt 64 (s.me.getV va) j).toNat (eltB s b bs 64 j).toNat) (exec (.vdmin vd va b bs k z c) s) ∧
    puts 64 4 0x10 (fun j => fMinMax fp64 true t (elt 64 (s.me.getV va) j).toNat (eltB s b bs 64 j).toNat) (exec (.vdmax vd va b bs k z c) s) ∧
    puts 32 14 0x1F (fun j => fDiv mode fp32 t (F j) (G j)) (exec (.vfdiv vd va b bs k z c) s) ∧
    puts 32 16 0x11 (fun j => fSqrt mode fp32 t (F j)) (exec (.vfsqrt vd va k z c) s) ∧
    (∀ e ∈ [(Instr.vfexp2 vd va k z c, tExp2 t, 12, (0x17 : BitVec 5)), (.vflog2 vd va k z c, tLog2 t, 14, 0x1F), (.vfsin vd va k z c, tSin t, 20, 0x17),
        (.vfcos vd va k z c, tCos t, 20, 0x17), (.vftanh vd va k z c, tTanh t, 18, 0x17), (.vfsigm vd va k z c, tSigm t, 18, 0x17),
        (.vfrcp vd va k z c, tRcp t, 10, 0x1F), (.vfrsqrt vd va k z c, tRsqrt t, 11, 0x1F)],
      puts 32 e.2.2.1 e.2.2.2 (fun j => e.2.1 (F j)) (exec e.1 s)) ∧
    (∀ h : Bool,
      let base := if h then 8 else 0
      let r := fun j => fConvert mode fp32 t (D j)
      puts 64 6 0x10 (fun j => fConvert .rne fp64 t (F (base + j))) (exec (.vdcvtDS vd va h k z c) s) ∧
      ShipsV s vd 32 (fun i => if base ≤ i ∧ i < base + 8 then (if p (i - base) then some (BitVec.ofNat 32 (r (i - base)).bits) else if z then some 0 else none) else none)
        (((List.range 8).filter p).map (fun j => (j, r j))) 6 0x17 c (exec (.vdcvtSD vd va h k z c) s))

/-- R226, R227, R229, R231, R234, R235: a packet enters the guest queue; the head issues in a guest cycle, of which GSHARE come in every 16; the
result comes back after its latency and the network time and lands in its destination with its conditions, or is the trap of its instruction; a
squash notice takes an entry out; a changed map entry serves from then on.
Where the spec leaves a point open or to inference, it states the model's reading: log entry 20. -/
def Obligations.ShipEvents : Prop :=
  (∀ (s : State) (cl : Nat) (g : Guest), (s.cluster cl).guestIn = [g] → g.entered ≤ s.cycle → (s.cluster cl).guestQ.length < 256 →
    ((∀ h, s.shipTarget (saPkg g.sa) = some h → h = cl) → ∃ t, exec (.guestQueueEntry cl) s = .next t ∧ (t.cluster cl).guestIn = [] ∧
      (t.cluster cl).guestQ = (s.cluster cl).guestQ ++ [{ g with entered := s.cycle }] ∧ t.guestDue cl = true ∧ t.me = s.me ∧ SameMemory s t) ∧
    (∀ h, s.shipTarget (saPkg g.sa) = some h → h ≠ cl →
      let n := shipNet (saPkg g.sa) h
      ∃ t, exec (.guestQueueEntry cl) s = .next t ∧ (t.cluster cl).guestIn = [] ∧ (t.cluster cl).guestQ = (s.cluster cl).guestQ ∧
        (t.cluster h).guestIn = (s.cluster h).guestIn ++ [{ g with entered := s.cycle + g.net + n, net := n }] ∧ SameMemory s t)) ∧
  (∀ (n : BitVec 5) (c : Nat), n.toNat ≤ 16 → ((List.range 16).filter (fun i => guestCycle n (c + i))).length = n.toNat) ∧
  (∀ (s : State) (cl : Nat) (g : Guest), (s.cluster cl).guestQ = [g] → g.entered = s.cycle → (s.cluster cl).blackout = none → (s.cluster cl).guestIn = [] →
    (g.wide = true → (s.cluster cl).wide.length < 4) →
    (guestCycle (s.cluster cl).gshare s.cycle = true → ∃ t, exec (.guestIssue cl) s = .next t ∧ (t.cluster cl).guestQ = [] ∧ t.me = s.me ∧ SameMemory s t ∧
      (g.wide = false → (s.cycle + g.latency + g.net, Instr.shipResultReturn g.sa g.q) ∈ t.agenda) ∧
      (g.wide = true → (s.cycle + 10, Instr.wideAtomicTranslate cl g.sa g.q) ∈ t.agenda ∧ (t.cluster cl).wide = (s.cluster cl).wide ++ [g])) ∧
    (guestCycle (s.cluster cl).gshare s.cycle = false → ∃ t, exec (.guestIssue cl) s = .next t ∧ (t.cluster cl).guestQ = [g] ∧ t.guestDue cl = true ∧ t.me = s.me)) ∧
  (∀ (s : State) (o : Op) (d : RegName) (r : ShipResult), Calm s → s.me.ops = [o] → o.stage = .away → o.what = .ship d r →
    (r.trap = none → ∃ t, exec (.shipResultReturn s.me.sa o.q) s = .next t ∧ t.me.ops = [] ∧ t.me.pc = s.me.pc ∧ SameMemory s t ∧ t.others = s.others ∧
      t.me.flags = { s.me.flags with fflags := s.me.flags.fflags ||| r.cond } ∧
      (∀ x, d = .s x → (∀ y, t.me.getS y = if y = x ∧ x ≠ 0 then r.data.truncate 64 else s.me.getS y) ∧ t.me.vregs = s.me.vregs) ∧
      (∀ x, d = .v x → (∀ y, t.me.getV y = if y = x then (s.me.getV x &&& ~~~r.mask) ||| (r.data &&& r.mask) else s.me.getV y) ∧ t.me.regs = s.me.regs)) ∧
    (∀ k addr, r.trap = some (k, addr) → s.me.tvec ≠ 0 → s.me.h = false → ∃ t, exec (.shipResultReturn s.me.sa o.q) s = .next t ∧ t.me.ops = [] ∧
      t.me.trapPc = o.pc ∧ t.me.trapCause = BitVec.ofNat 8 (causeNumber k) ∧ t.me.trapAddr = addr ∧
      t.me.trapInfo = BitVec.ofNat 24 (r.lanes.toNat * 256 + pcIndex r.core * 16 + pcDie r.core * 2 + 1) ∧ t.me.pc = s.me.tvec ∧ t.me.h = true ∧
      t.me.flags = o.flags ∧ t.me.regs = s.me.regs ∧ t.me.vregs = s.me.vregs ∧ SameMemory s t)) ∧
  (∀ (s : State) (cl sa q : Nat), ∃ t, exec (.squashNotice cl sa q) s = .next t ∧ SameMemory s t ∧
    (∀ g ∈ (t.cluster cl).guestQ, ¬ (g.sa = sa ∧ g.q = q)) ∧ ((s.cluster cl).guestIn = [] → t.me = s.me ∧
      ∀ g, g ∈ (t.cluster cl).guestQ ↔ g ∈ (s.cluster cl).guestQ ∧ ¬ (g.sa = sa ∧ g.q = q))) ∧
  (∀ (s : State) (cl : Nat) (entry : BitVec 8), ∃ t, exec (.shipMapChange cl entry) s = .next t ∧ SameMemory s t ∧
    (∀ p, t.shipTarget p = if p = cl then
      (if entry.getLsbD 7 then some (pkgCluster (entry.extractLsb' 4 3).toNat (entry.extractLsb' 0 4).toNat) else none) else s.shipTarget p) ∧
    t.me.regs = s.me.regs ∧ t.me.pc = s.me.pc)

/-- R233, R247, R248: a wide atomic is checked as a read and a write of its bytes; outside global memory it raises SEG_RIGHTS; a lean strand
ships it, a heavy one gives it to its own core's unit. A private line, where its port knows the page, is written back from the sender core's L1D and
dropped there (R178).
Where the spec leaves a point open or to inference, it states the model's reading: log entries 11, 66. -/
def Sys2Proof.Says.WideAtomicIssue : Prop :=
  ∀ (s : State) (t a b : SReg) (seg : SegIx) (ord : BitVec 2) (c : Bool), s.me.kind ≠ .sm →
    let pair := fun r : SReg => (s.me.getS r).toNat + (s.me.getS (r + 1)).toNat * 2 ^ 64
    let g := s.me.segs[seg.toNat]
    let ships := fun (op : WideOp) (size v cmp : Nat) o =>
      match segCheck s.me g true true (s.me.getS a) size size with
      | .bad cause addr => Raised s cause addr o
      | .ok va =>
        ((g.desc.extractLsb' 44 4).toNat ≠ 1 → Raised s .segRights (s.me.getS a) o) ∧
        ((g.desc.extractLsb' 44 4).toNat = 1 →
          let op' : Op := { fenceOp s (.wide t op v cmp none) with
            dsts := (if size = 16 then [.s t, .s (t + 1)] else [.s t])
            accs := [{ lane := 0, va := va, size := size, loc := none, region := .priv, data := 0 }]
            ord := ord, kind := 1, stage := .unconfirmed, trappable := true }
          let me := { (movedOn s 4 c).me with ops := s.me.ops ++ [op'] }
          let kept := match (s.port s.me.port).find s.me.asid va with
            | some lf => if lf.region = .priv then s.recall s.me.sa true (lf.addr va) size else s
            | none => s
          (s.me.kind = .heavy → s.wideFull (saPkg s.me.sa) = true → o = .next s) ∧
          (s.me.kind = .heavy → s.wideFull (saPkg s.me.sa) = false → ∃ u, o = Host.Outcome.next u ∧ u.me = me ∧ SameMemory kept u ∧
            (s.cycle + 10, Instr.wideAtomicTranslate (saPkg s.me.sa) s.me.sa s.me.nextQ) ∈ u.agenda ∧
            (u.cluster (saPkg s.me.sa)).wide.length = (s.cluster (saPkg s.me.sa)).wide.length + 1) ∧
          (s.me.kind = .lean → s.shipTarget (saPkg s.me.sa) = none → Raised s .shipUnavailable 0 o) ∧
          (s.me.kind = .lean → ∀ h, s.shipTarget (saPkg s.me.sa) = some h → ∃ u x, o = Host.Outcome.next u ∧ u.me = me ∧ SameMemory kept u ∧
            (s.cycle + shipNet (saPkg s.me.sa) h, Instr.guestQueueEntry h) ∈ u.agenda ∧ (u.cluster h).guestIn = (s.cluster h).guestIn ++ [x] ∧
            x.wide = true ∧ x.latency = 30 ∧ x.sa = s.me.sa ∧ x.q = s.me.nextQ))
    ships .cas128 16 (pair b) (pair t) (exec (.wcas128 t a seg ord b c) s) ∧
    ships .swap128 16 (pair b) 0 (exec (.wswap128 t a seg ord b c) s) ∧
    ships .fadd 8 (s.me.getS b).toNat 0 (exec (.wamofadd t a seg ord b c) s) ∧
    ships .fmin 8 (s.me.getS b).toNat 0 (exec (.wamomin t a seg ord b c) s) ∧
    ships .fmax 8 (s.me.getS b).toNat 0 (exec (.wamomax t a seg ord b c) s)

/-- R234, R247, R249, R250: the unit translates a wide atomic at its own cluster's port and answers its sender the network time later: confirmed, or
failed, which is its trap with the serving core in TRAPINFO where it was shipped; a miss walks. Performed, it writes its bytes and no others, and the
old value goes back and lands in its destination. A private line is read and written in the L2 of the sender's die. Where a page of another REGION lies over the bytes, the values alone are undefined.
Where the spec leaves a point open or to inference, it states the model's reading: log entries 11, 12, 19, 66. -/
def Sys2Proof.Says.WideAtomicUnit : Prop :=
  ∀ (s : State) (o : Op) (a : Access) (g : Guest) (t : SReg) (op : WideOp) (v cmp cl l : Nat), Calm s → Memory.wf s.mem = true → s.me.ops = [o] → o.accs = [a] →
    t.toNat % 2 = 0 ∨ a.size = 8 → (a.size = 16 ↔ op = .cas128 ∨ op = .swap128) → (a.size = 8 ↔ op = .fadd ∨ op = .fmin ∨ op = .fmax) →
    (s.cluster cl).wide = [g] → g.sa = s.me.sa → g.q = o.q → o.dsts.length = (if a.size = 16 then 2 else 1) →
    let out := exec (.wideAtomicTranslate cl s.me.sa o.q) s
    let back := exec (.shipResultReturn s.me.sa o.q) s
    let own := a.region = .priv
    let old := if own then (s.recall s.me.sa true l a.size).view s.me.sa true l a.size else memRead s.mem l a.size
    let new := match op with
      | .cas128 => if old = cmp then v else old
      | .swap128 => v
      | .fadd => (fAdd .rne fp64 false (fp64.value old) (fp64.value v)).bits
      | .fmin => (fMinMax fp64 false false old v).bits
      | .fmax => (fMinMax fp64 true false old v).bits
    (o.what = .wide t op v cmp none → o.stage = .unconfirmed → o.ord ≠ 3 → ∀ lf, (s.port cl).find s.me.asid a.va = some lf →
      lf.check (portDie cl) (portCluster cl) true true = none →
      ∃ u k, out = .next u ∧ u.me = { s.me with ops := [{ o with
        accs := [{ a with loc := some (lf.pa + a.va % (if lf.large then 2 ^ 29 else 2 ^ 16)), region := lf.region }], stage := .away }] } ∧
        (s.cycle + g.net, Instr.shipResultReturn s.me.sa o.q) ∈ u.agenda ∧
        20 ≤ k ∧ (s.cycle + k, Instr.wideAtomicPerform cl s.me.sa o.q) ∈ u.agenda ∧ SameMemory s u) ∧
    (o.what = .wide t op v cmp none → o.stage = .unconfirmed → ∀ lf k, (s.port cl).find s.me.asid a.va = some lf →
      lf.check (portDie cl) (portCluster cl) true true = some k → ∃ u, out = .next u ∧ u.me = { s.me with ops := [{ o with
        what := .wide t op v cmp (some (.failed k a.va cl)), stage := .away }] } ∧
        (s.cycle + g.net, Instr.shipResultReturn s.me.sa o.q) ∈ u.agenda ∧ (u.cluster cl).wide = [] ∧ SameMemory s u) ∧
    (o.what = .wide t op v cmp none → o.stage = .unconfirmed → (s.port cl).find s.me.asid a.va = none → (∀ w ∈ (s.port cl).walks, w.failed = false) →
      ∃ u, out = .next u ∧ u.me = s.me ∧
      SameMemory s u ∧ ∃ w ∈ (u.port cl).walks, w.who = .wide cl s.me.sa o.q ∧ w.va = a.va ∧ w.asid = s.me.asid) ∧
    (o.what = .wide t op v cmp none → o.stage = .away → a.loc = some l → (own → l % a.size = 0) → ∃ u w x, exec (.wideAtomicPerform cl s.me.sa o.q) s = .next u ∧
      (s.aliased l a.size a.region = false → w = old ∧ x = new) ∧ (¬ own → Stored s u l a.size x) ∧ (own → WrittenBelow s u s.me.sa l a.size x) ∧
      u.me = { s.me with ops := [{ o with what := .wide t op v cmp (some (.old w)) }] } ∧ (u.cluster cl).wide = [] ∧
      (s.cycle + g.net, Instr.shipResultReturn s.me.sa o.q) ∈ u.agenda ∧ u.others = s.others) ∧
    (o.what = .wide t op v cmp none → o.stage = .away → o.trappable = true → ∃ u, back = .next u ∧
      u.me = { s.me with ops := [{ o with trappable := false }] } ∧ SameMemory s u) ∧
    (∀ w, o.what = .wide t op v cmp (some (.old w)) → o.stage = .away → o.trappable = false → ∃ u, back = .next u ∧ u.me.ops = [] ∧ u.me.pc = s.me.pc ∧
      u.me.flags = s.me.flags ∧ u.others = s.others ∧ SameMemory s u ∧
      ∀ r, u.me.getS r = if r = 0 then 0 else if r = t then BitVec.ofNat 64 w else if r = t + 1 ∧ a.size = 16 then BitVec.ofNat 64 (w / 2 ^ 64) else s.me.getS r) ∧
    (∀ k, o.what = .wide t op v cmp (some (.failed k a.va cl)) → o.stage = .away → s.me.tvec ≠ 0 → s.me.h = false → ∃ u, back = .next u ∧ u.me.ops = [] ∧
      u.me.trapPc = o.pc ∧ u.me.trapCause = BitVec.ofNat 8 (causeNumber k) ∧ u.me.trapAddr = BitVec.ofNat 64 a.va ∧
      u.me.trapInfo = (if s.me.kind = .heavy then 0 else BitVec.ofNat 24 (256 + pcIndex cl * 16 + pcDie cl * 2 + 1)) ∧
      u.me.pc = s.me.tvec ∧ u.me.regs = s.me.regs ∧ SameMemory s u)


/-! ### The matrix unit (chapter 11) -/

/-- The operation of `n` bytes' form joins the strand's matrix queue, which it enters 2 cycles later (R256). -/
def Sys2Proof.Queued (s : State) (what : MatWhat) (c : Bool) (o : Out) : Prop :=
  ∃ t, o = .next t ∧ t.me = { (movedOn s 8 c).me with mq := s.me.mq ++ [{
      q := s.me.nextQ, what := what, entered := none, started := none, ends := none, pops := [], conds := 0, row := 0, status := 0, pieces := [] }] } ∧
    (s.cycle + 2, Instr.matrixQueueEntry s.me.sa s.me.nextQ) ∈ t.agenda ∧ SameMemory s t ∧ t.others = s.others

/-- The tile bytes of the operands of a format (R252, R259). -/
def Sys2Proof.tiles (fmt : Nat) : Nat × Nat :=
  [(2 ^ 17, 2 ^ 17), (2 ^ 17, 2 ^ 17), (2 ^ 16, 2 ^ 16), (2 ^ 16, 2 ^ 16), (2 ^ 16, 2 ^ 16), (2 ^ 16, 2 ^ 16), (2 ^ 15, 2 ^ 15), (2 ^ 16, 2 ^ 16),
    (2 ^ 14, 2 ^ 16), (2 ^ 18, 2 ^ 18), (2 ^ 19, 2 ^ 19)].getD fmt (0, 0)
/-- NSLOT and the slot bytes of a ring (R253). -/
def Sys2Proof.ringSlots (m : Strand) (r : RingIx) : Nat := (m.rings[r.toNat].cfg.extractLsb' 32 8).toNat
def Sys2Proof.slotBytes (m : Strand) (r : RingIx) : Nat := 2 ^ (15 + (m.rings[r.toNat].cfg.extractLsb' 40 4).toNat)

/-- R253 to R256, R259, R264, R265, R267 to R269, R272: on a heavy strand a matrix form checks its rings or its rows, waits while eight operations
are queued, and joins the queue; elsewhere it raises ILLEGAL.
Where the spec leaves a point open or to inference, it states the model's reading: log entry 23. -/
def Sys2Proof.Says.MatrixIssue : Prop :=
  ∀ (s : State) (d : AccIx) (a b : RingIx) (fmt : BitVec 4) (zero keepa keepb : Bool) (x y : SReg) (n : SegIx) (f : BitVec 3) (tag : BitVec 16) (c : Bool),
    let mma := Instr.mma d a b fmt zero keepa keepb c
    let mmag := Instr.mmag d a b fmt n x zero keepa c
    let st := Instr.maccst d x y n tag f c
    let ld := Instr.maccld d x y n f c
    let fault := fun (r : RingIx) (reason : Nat) => (BitVec.ofNat 64 (r.toNat + reason * 256) : Word)
    let g := s.me.segs[n.toNat]
    let kind := (g.desc.extractLsb' 44 4).toNat
    let v := s.me.getS y
    let stride := (v.extractLsb' 0 32).toNat
    let first := (v.extractLsb' 32 8).toNat
    let count := (v.extractLsb' 40 8).toNat + 1
    let row := 256 * [4, 2, 2, 1, 1, 8, 8, 8].getD f.toNat 8
    let desc := fun (addr : Nat) => ({ lane := 0, va := 0, size := 40, loc := place s.me g addr, region := .priv, data := 0 } : Access)
    (s.me.kind ≠ .heavy → ∀ i ∈ [mma, mmag, .mzero d c, st, ld, .mringcfgSet a y c, .mringcfgPub a y c, .mringcfgGet x a c, .mstat x y c, .mwait fmt c],
      Raised s .illegal (wordOf i) (exec i s)) ∧
    (s.me.kind = .heavy → fmt.toNat ≤ 10 →
      (ringSlots s.me a = 0 → Raised s .ringFault (fault a 1) (exec mma s) ∧ Raised s .ringFault (fault a 1) (exec mmag s)) ∧
      (ringSlots s.me a ≠ 0 → slotBytes s.me a < (tiles fmt.toNat).1 → Raised s .ringFault (fault a 2) (exec mma s) ∧ Raised s .ringFault (fault a 2) (exec mmag s)) ∧
      (ringSlots s.me a = 1 → a = b → max (tiles fmt.toNat).1 (tiles fmt.toNat).2 ≤ slotBytes s.me a → Raised s .ringFault (fault a 5) (exec mma s)) ∧
      ((∀ r ∈ [a, b], ringSlots s.me r ≠ 0) → (a = b → 2 ≤ ringSlots s.me a) → (tiles fmt.toNat).1 ≤ slotBytes s.me a → (tiles fmt.toNat).2 ≤ slotBytes s.me b →
      (a = b → (tiles fmt.toNat).2 ≤ slotBytes s.me a) →
        (s.me.mq.length = 8 → exec mma s = .next s) ∧ (s.me.mq.length < 8 → Queued s (.mma d a b fmt.toNat zero keepa keepb) c (exec mma s)) ∧
        (kind = 1 → Raised s .segRights (s.me.getS x) (exec mmag s)) ∧
        (kind ≠ 1 → match segCheck s.me g true false (s.me.getS x) 40 8 with
          | .bad cause addr => Raised s cause addr (exec mmag s)
          | .ok addr => s.me.mq.length < 8 → ∃ t op k, exec mmag s = .next t ∧ t.me = { (movedOn s 8 c).me with
              mq := s.me.mq ++ [op], ops := s.me.ops ++ [{ fenceOp s .ringHold with kind := kind, stage := .away, trappable := true, accs := [desc addr] }] } ∧
              op.q = s.me.nextQ ∧ op.entered = none ∧ op.started = none ∧ op.ends = none ∧
              (∃ l, place s.me g addr = some l ∧ op.what = .mmag d a b fmt.toNat zero keepa l 0 [] false) ∧
              (s.cycle + 2, Instr.matrixQueueEntry s.me.sa s.me.nextQ) ∈ t.agenda ∧
              (s.cycle + k, Instr.loadDataReturn s.me.sa s.me.nextQ) ∈ t.agenda ∧ SameMemory s t))) ∧
    (s.me.kind = .heavy → s.me.mq.length < 8 → Queued s (.mzero d) c (exec (.mzero d c) s)) ∧
    (s.me.kind = .heavy → (stride % 64 ≠ 0 ∨ stride < row ∨ 256 < first + count) →
      Raised s .illegal (wordOf st) (exec st s) ∧ Raised s .illegal (wordOf ld) (exec ld s)) ∧
    (s.me.kind = .heavy → stride % 64 = 0 → row ≤ stride → first + count ≤ 256 →
      (match segCheck s.me g false true (s.me.getS x) ((count - 1) * stride + row) 64 with
       | .bad cause addr => Raised s cause addr (exec st s)
       | .ok _ => s.me.mq.length < 8 → Queued s (.maccst d g (s.me.getS x).toNat stride first count f.toNat tag) c (exec st s)) ∧
      (kind = 1 → Raised s .segRights (s.me.getS x) (exec ld s)) ∧
      (kind ≠ 1 → match segCheck s.me g true false (s.me.getS x) ((count - 1) * stride + row) 64 with
       | .bad cause addr => Raised s cause addr (exec ld s)
       | .ok _ => s.me.mq.length < 8 → Queued s (.maccld d g (s.me.getS x).toNat stride first count f.toNat) c (exec ld s))) ∧
    (s.me.kind = .heavy → (s.me.mq.length ≤ fmt.toNat → Passed s 8 c (exec (.mwait fmt c) s)) ∧
      (fmt.toNat < s.me.mq.length → exec (.mwait fmt c) s = .next s))

/-- R253, R255, R270, R271: the ring registers and MSTAT, which reads without what retires in its own cycle and clears none of that.
Where the spec leaves a point open or to inference, it states the model's reading: log entry 23. -/
def Sys2Proof.Says.RingsAndMstat : Prop :=
  ∀ (s : State) (a : RingIx) (d y : SReg) (c : Bool), s.me.kind = .heavy →
    let v := s.me.getS y
    let g := s.me.rings[a.toNat]
    let fault := fun (reason : Nat) => (BitVec.ofNat 64 (a.toNat + reason * 256) : Word)
    let slots := (v.extractLsb' 32 8).toNat
    let size := (v.extractLsb' 40 4).toNat
    let base := (v.extractLsb' 0 24).toNat
    let good := v.extractLsb' 44 20 = 0 ∧ v.extractLsb' 24 8 = 0 ∧ size ≤ 4 ∧ slots ≤ 64 ∧ base % 256 = 0 ∧ base + slots * (2 ^ (15 + size) + 256) ≤ 2 ^ 24
    let n := (v.extractLsb' 0 7).toNat
    let occupancy := (g.tail - g.head).toNat
    let only := fun (r : Ring) (t : State) => t.me = { (movedOn s 8 c).me with rings := t.me.rings } ∧
      (∀ i : Fin 16, t.me.rings[i] = if i.val = a.toNat then r else s.me.rings[i]) ∧ SameMemory s t ∧ t.others = s.others
    (s.me.mq = [] → g.reserved = g.tail → good → ∃ t, exec (.mringcfgSet a y c) s = .next t ∧
      only { cfg := v, head := 0, tail := 0, claim := 0, reserved := 0 } t) ∧
    (s.me.mq = [] → g.reserved = g.tail → ¬ good → Raised s .ringFault (fault 3) (exec (.mringcfgSet a y c) s)) ∧
    (s.me.mq ≠ [] → exec (.mringcfgSet a y c) s = .next s) ∧
    (ringSlots s.me a = 0 → Raised s .ringFault (fault 1) (exec (.mringcfgPub a y c) s)) ∧
    (ringSlots s.me a ≠ 0 → (n = 0 ∨ 64 < n ∨ ringSlots s.me a < occupancy + n) → Raised s .ringFault (fault 4) (exec (.mringcfgPub a y c) s)) ∧
    (ringSlots s.me a ≠ 0 → 0 < n → n ≤ 64 → occupancy + n ≤ ringSlots s.me a → ∃ t, exec (.mringcfgPub a y c) s = .next t ∧
      only { g with tail := g.tail + BitVec.ofNat 32 n, reserved := g.reserved + BitVec.ofNat 32 n } t) ∧
    WroteS s d (g.tail ++ g.head) 8 c (exec (.mringcfgGet d a c) s) ∧
    let now := s.me.mstatNew.1 < s.cycle
    let seen := if now then s.me.mstat ||| s.me.mstatNew.2 else s.me.mstat
    (∃ w : Word, WroteS { s with me := { s.me with mstat := seen &&& ~~~(v.truncate 7), mstatNew := (s.cycle, if now then 0 else s.me.mstatNew.2) } }
        d w 8 c (exec (.mstat d y c) s) ∧
      (s.me.mq.length < 16 → w.extractLsb' 0 7 = seen ∧ w.extractLsb' 16 12 = (s.cluster (saPkg s.me.sa)).sqentry ∧
        w.getLsbD 15 = (s.cluster (saPkg s.me.sa)).squall ∧ (w.extractLsb' 40 4).toNat = s.me.mq.length ∧
        w.getLsbD 35 = (blockRing s.me).isSome))

/-- The current strand is the only one listed, a heavy strand of cluster `cl`, and the array is free. -/
def Sys2Proof.OnArray (s : State) (cl : Nat) : Prop :=
  cl < 96 ∧ s.others = [] ∧ s.me.kind = .heavy ∧ s.me.run ≠ .vacant ∧ (∃ n < 4, s.me.sa = mkSa (pcDie cl) (pcIndex cl) 48 n) ∧ (s.cluster cl).arrayFree ≤ s.cycle

/-- A started multiply `o` of `s`: for each cell what it holds then and its conditions, the slots that each ring's claim count passes, the slots popped at
the end, whether CLIP and TBAD are raised, and the array time; the conditions that MSTAT will show are those of some cell (R257, R258, R264, R270). -/
def Sys2Proof.Multiplies (s : State) (cl : Nat) (o : MatOp) (d : AccIx) (wide : Bool) (time : Nat) (pops : List (RingIx × Nat))
    (cell : Nat → Nat → Option (Nat × BitVec 5)) (clip tbad : Bool) (out : Out) : Prop :=
  let cond := fun n : Nat => [some 0, some 1, some 2, none, some 4].getD n none
  ∃ t conds, out = .next t ∧
    (∀ i < 256, ∀ j < 256, t.me.cell wide d.toNat i j = match cell i j with
      | some x => x.1 % 2 ^ (if wide then 64 else 32)
      | none => s.me.cell wide d.toNat i j) ∧
    (∀ n < 7, conds.getLsbD n = if n = 5 then clip else if n = 6 then tbad else match cond n with
      | some b => (List.range 256).any (fun i => (List.range 256).any (fun j => match cell i j with | some x => x.2.getLsbD b | none => false))
      | none => false) ∧
    (∀ k, k < 65536 * d.toNat ∨ 65536 * d.toNat + (if wide then 131072 else 65536) ≤ k → Tab.get? t.me.accs k = Tab.get? s.me.accs k) ∧
    t.me = { s.me with accs := t.me.accs, rings := t.me.rings, mq := [{ o with started := some s.cycle, ends := some (s.cycle + time + 16), pops := pops, conds := conds }] } ∧
    (∀ i : Fin 16, t.me.rings[i] = { s.me.rings[i] with
      claim := s.me.rings[i].claim + BitVec.ofNat 32 ((pops.filter (fun p => p.1.toNat == i.val)).map (·.2)).sum }) ∧
    (t.cluster cl).arrayFree = s.cycle + time ∧ (t.cluster cl).squall = (s.cluster cl).alarm ∧
    (s.cycle + time + 16, Instr.matrixRetire cl) ∈ t.agenda ∧ SameMemory s t

/-- The new value and conditions of a cell from row `i` of the A slot of count `ca` and row `j` of the B slot of count `cb`. -/
def Sys2Proof.cellFrom (s : State) (fmt : Nat) (a b : RingIx) (ca cb : BitVec 32) (i j old : Nat) : Nat × BitVec 5 :=
  let ra := s.me.rings[a.toNat]
  let rb := s.me.rings[b.toNat]
  let la := slotLoc s.me ra ca
  let lb := slotLoc s.me rb cb
  newCell fmt (memRead s.mem (la + i * ((tiles fmt).1 / 256)) ((tiles fmt).1 / 256)) (memRead s.mem (lb + j * ((tiles fmt).2 / 256)) ((tiles fmt).2 / 256))
    (memRead s.mem (la + ra.size + i) 1) (memRead s.mem (lb + rb.size + j) 1) old
/-- A ternary byte of row `i` of the A slot of a count is invalid (R262). -/
def Sys2Proof.badTrit (s : State) (fmt : Nat) (a : RingIx) (ca : BitVec 32) (i : Nat) : Bool :=
  fmt == 8 && (List.range 52).any (fun k => decide (243 ≤ memRead s.mem (slotLoc s.me s.me.rings[a.toNat] ca + 64 * i + k) 1))

/-- R254, R256 to R267, R270, R273: an operation enters the queue; the free array starts it. An MMA replaces every cell of its
accumulator by the new value from its rows of A and B, B being the next slot where both are one ring, and claims the slots it does not keep; an MMAG does
so for the rows of its groups, group by group with the next B slot, clips them at row 255 and takes its groups' time; MZERO clears the
accumulator; other accumulators
stay; the array is busy for D cycles, twice in squall mode, and the operation retires 16 cycles later. The conditions are those of the cells, TBAD for an
invalid ternary byte of a row used, and CLIP.
Where the spec leaves a point open or to inference, it states the model's reading: log entries 15, 24. -/
def Sys2Proof.Says.MatrixStart : Prop :=
  ∀ (s : State) (cl : Nat) (o : MatOp), OnArray s cl → s.me.mq = [o] → o.started = none → o.ends = none →
    let slots := fun r : RingIx => (s.me.rings[r.toNat].tail - s.me.rings[r.toNat].claim).toNat
    let claim := fun r : RingIx => s.me.rings[r.toNat].claim
    let full := fun fmt : Nat => [256, 256, 128, 128, 128, 128, 64, 128, 128, 1024, 16384].getD fmt 0
    let squall := if (s.cluster cl).alarm then 2 else 1
    (∀ d, o.what = .mzero d → o.entered = none → ∃ t, exec (.matrixQueueEntry s.me.sa o.q) s = .next t ∧
      t.me = { s.me with mq := [{ o with entered := some s.cycle }] } ∧ SameMemory s t ∧ (s.cycle, Instr.sequencerStart (saPkg s.me.sa)) ∈ t.agenda) ∧
    (∀ d, o.what = .mzero d → o.entered.isSome → ∃ t, exec (.sequencerStart cl) s = .next t ∧
      (∀ k, Tab.get? t.me.accs k = if 65536 * d.toNat ≤ k ∧ k < 65536 * d.toNat + 65536 then none else Tab.get? s.me.accs k) ∧
      t.me.mq = [{ o with started := some s.cycle, ends := some (s.cycle + 24), pops := [], conds := 0 }] ∧ (t.cluster cl).arrayFree = s.cycle + 8 ∧
      (s.cycle + 24, Instr.matrixRetire cl) ∈ t.agenda ∧ t.me.rings = s.me.rings ∧ SameMemory s t) ∧
    (∀ d a b fmt zero ka kb, o.what = .mma d a b fmt zero ka kb → o.entered.isSome → fmt ≤ 10 → (fmt = 10 → d.toNat % 2 = 0) → (a = b → ka = kb) →
      0 < slots a → (if a = b then 1 else 0) < slots b →
      let cb := claim b + if a = b then 1 else 0
      let kept := fun k : Bool => if k then 0 else 1
      Multiplies s cl o d (fmt == 10) (full fmt * squall) (if a = b then [(a, 2 * kept ka)] else [(a, kept ka), (b, kept kb)])
        (fun i j => some (cellFrom s fmt a b (claim a) cb i j (if zero then 0 else s.me.cell (fmt == 10) d.toNat i j)))
        false ((List.range 256).any (badTrit s fmt a (claim a))) (exec (.sequencerStart cl) s)) ∧
    (∀ d a b fmt zero ka desc n rows clip, o.what = .mmag d a b fmt zero ka desc n rows clip → o.entered.isSome → fmt ≤ 10 → (fmt = 10 → d.toNat % 2 = 0) →
      s.me.ops = [] → n = rows.length →
      let used := fun k => ((rows.take k).filter (0 < ·)).length
      let start := fun k => (rows.take k).sum
      let group := fun i => (List.range n).find? (fun k => decide (start k ≤ i ∧ i < start (k + 1)))
      let below := fun k => min (start (k + 1)) 256 - min (start k) 256
      0 < slots a → used n + (if a = b then 1 else 0) ≤ slots b →
      let cb := claim b + if a = b then 1 else 0
      let kept := if ka then 0 else 1
      Multiplies s cl o d (fmt == 10) (if n = 0 then 8 else
          ((List.range n).map (fun k => if rows.getD k 0 = 0 then 0 else max 1 ((below k + 31) / 32))).sum * full fmt / 8 * squall)
        (if a = b then [(a, used n + kept)] else [(a, kept), (b, used n)])
        (fun i j => (group i).map (fun k => cellFrom s fmt a b (claim a) (cb + BitVec.ofNat 32 (used k)) i j (if zero then 0 else s.me.cell (fmt == 10) d.toNat i j)))
        (clip || (List.range n).any (fun k => decide (0 < rows.getD k 0 ∧ 256 < start (k + 1))))
        ((List.range 256).any (fun i => (group i).isSome && badTrit s fmt a (claim a) i)) (exec (.sequencerStart cl) s))

/-- A MACCST of the array goes on from its row: with every row left translated it will end with STATUS 0, at a page that fails with STATUS 1 and the rows
before it, and at a page that the port does not hold a walk is asked for; the time adds the bytes of its rows and the tier's write latency. -/
def Sys2Proof.StoreGoes (s : State) (cl : Nat) (o : MatOp) (g : Seg) (off stride count fmt : Nat) (began : Nat) (out : Out) : Prop :=
  let kind := (g.desc.extractLsb' 44 4).toNat
  let eb := [4, 2, 2, 1, 1].getD fmt 8
  let va := fun r => g.base.toNat + off + r * stride
  let look := fun v => s.xlate s.me.port (.matrix cl) s.me.asid v false true
  let cut := fun r => 65536 - va r % 65536
  let pages := fun r => if 256 * eb ≤ cut r then [(0, va r, 256 * eb)] else [(0, va r, cut r), (cut r, va r + cut r, 256 * eb - cut r)]
  let row := fun r => if kind = 1 then (pages r).filterMap (fun p => match look p.2.1 with
      | .hit l => some ({ row := r, off := p.1, loc := l.addr p.2.1, len := p.2.2, region := l.region } : RowPiece)
      | _ => none)
    else ((place s.me g (va r)).map (fun l => ({ row := r, off := 0, loc := l, len := 256 * eb } : RowPiece))).toList
  let there := fun r => kind ≠ 1 ∨ ∀ p ∈ pages r, ∃ l, look p.2.1 = .hit l
  let upTo := fun w => o.pieces ++ (List.range' o.row (w - o.row)).flatMap row
  let ends := fun (w status : Nat) => ∃ t k, out = .next t ∧ t.me = { s.me with mq := [{ o with row := w, pieces := upTo w, status := status, ends := some k }] } ∧
    (t.cluster cl).arrayFree = k ∧ (k, Instr.matrixRetire cl) ∈ t.agenda ∧ SameMemory s t ∧
    (w = 0 → k = s.cycle + if began = s.cycle then 1 else 0) ∧
    (0 < w → kind ≠ 1 → k = s.cycle + w * eb + localLatency s.me kind (va 0)) ∧
    (0 < w → kind = 1 → ∀ p rest, upTo w = p :: rest → ∃ rg ∈ [Region.priv, .readShared, .coherent, .remote], k = s.cycle + w * eb + tierLatency (saDie s.me.sa) p.loc rg s.freeCtr)
  ((∀ r < count, o.row ≤ r → there r) → ends count 0) ∧
  (∀ w < count, o.row ≤ w → (∀ r < w, o.row ≤ r → there r) → kind = 1 → ∀ n < (pages w).length, (∀ p ∈ (pages w).take n, ∃ l, look p.2.1 = .hit l) →
    let v := ((pages w).getD n (0, 0, 0)).2.1
    (∀ c, look v = .fail c → ends w 1) ∧
    (look v = .miss → ∃ t, out = .next t ∧ t.me = { s.me with mq := [{ o with row := w, pieces := upTo w }] } ∧ SameMemory s t ∧
      ∃ x ∈ (t.port s.me.port).walks, x.who = .matrix cl ∧ x.va = v ∧ x.asid = s.me.asid ∧ x.root = s.me.root ∧ x.acc = .write))

/-- R150, R257, R268: the free array starts a MACCST once older accesses are done, and the end of its walk takes it further: its rows are translated in
ascending order up to a miss, which walks, or a failure, which ends it; a walk's end that finds no MACCST under way changes nothing.
Where the spec leaves a point open or to inference, it states the model's reading: log entry 24. -/
def Sys2Proof.Says.StoreWalks : Prop :=
  ∀ (s : State) (cl : Nat),
    ((∀ m ∈ s.heavies cl, ∀ o ∈ m.mq, o.what.store = true → o.started.isSome = true → o.ends.isSome = true) → exec (.maccstWalkEnd cl) s = .next s) ∧
    (∀ (o : MatOp) d g off stride first count fmt tag, OnArray s cl → s.me.mq = [o] → o.what = .maccst d g off stride first count fmt tag →
      o.ends = none → 0 < count → count ≤ 256 → o.row ≤ count → fmt ≤ 5 → (g.desc.extractLsb' 44 4).toNat ∈ [1, 3, 4] →
      (∀ e, o.started = some e → e ≤ s.cycle → StoreGoes s cl o g off stride count fmt e (exec (.maccstWalkEnd cl) s)) ∧
      (o.started = none → o.entered.isSome → s.me.ops = [] → o.row = 0 → o.pieces = [] →
        StoreGoes s cl { o with started := some s.cycle } g off stride count fmt s.cycle (exec (.sequencerStart cl) s)))

/-- The value P of a k-group of factor pairs, and whether it raises NV (R260). -/
def Sys2Proof.GroupIs (l : List (FVal × FVal)) (P : FVal) (nv : Bool) : Prop :=
  let isInf := fun v : FVal => match v with | .inf _ => true | _ => false
  let isZero := fun v : FVal => match v with | .zero _ => true | _ => false
  let void := fun p : FVal × FVal => (isInf p.1 && isZero p.2) || (isZero p.1 && isInf p.2)
  let nan := fun p : FVal × FVal => p.1.isNan || p.2.isNan || void p
  let neg := fun p : FVal × FVal => p.1.neg != p.2.neg
  let inf := fun (n : Bool) (p : FVal × FVal) => !nan p && (isInf p.1 || isInf p.2) && neg p == n
  let sum := (l.map (fun p => scaled 1100 p.1 * scaled 1100 p.2)).sum
  (nv = true ↔ (∃ p ∈ l, p.1 = .nan true ∨ p.2 = .nan true ∨ void p = true) ∨ (l.any (inf false) = true ∧ l.any (inf true) = true)) ∧
  if l.any nan = true ∨ (l.any (inf false) = true ∧ l.any (inf true) = true) then P = .nan false
  else if l.any (inf false) = true then P = .inf false
  else if l.any (inf true) = true then P = .inf true
  else if sum = 0 then P = .zero (l.all neg)
  else scaled 2200 P = sum

/-- R95, R98, R260, R261, R263: a floating-point cell takes sixteen steps, each adding the exact sum of sixteen products with one rounding to nearest even,
and a 4-bit block cell one step with the sum of 256 code products under the two scales; nothing is flushed.
Where the spec leaves a point open or to inference, it states the model's reading: log entry 15. -/
def Sys2Proof.Says.FloatCells : Prop :=
  ∀ rowA rowB sa sb acc : Nat, sa < 256 → sb < 256 →
    let fmts := [(fp16, fp16), (bf16, bf16), (e4m3, e4m3), (e4m3, e5m2), (e5m2, e4m3), (e5m2, e5m2)]
    let elt := fun (f : Fmt) (row k : Nat) => f.value (row / 2 ^ ((1 + f.ebits + f.mbits) * k) % 2 ^ (1 + f.ebits + f.mbits))
    let code := fun (row k : Nat) => row / 16 ^ k % 16
    let steps := fun (F : Fmt) (P : Nat → FVal × Bool) => (List.range 16).foldl (fun (x : Nat × BitVec 5) g =>
      let r := fAdd .rne F false (F.value x.1) (P g).1
      (r.bits, x.2 ||| r.cond ||| if (P g).2 then 16 else 0)) (acc, 0)
    let sum := ((List.range 256).map (fun k => codeEighths (sa / 64) (code rowA k) * codeEighths (sb / 64) (code rowB k))).sum
    let allNeg := (List.range 256).all (fun k => codeEighths (sa / 64) (code rowA k) * codeEighths (sb / 64) (code rowB k) == 0 &&
      (decide (8 ≤ code rowA k) != decide (8 ≤ code rowB k)))
    (∀ p ∈ ([0, 1, 2, 3, 4, 5].zip (fmts.map (fun f => (f, fp32)))) ++ [(9, ((fp32, fp32), fp32)), (10, ((fp64, fp64), fp64))],
      ∃ P : Nat → FVal × Bool,
        (∀ g < 16, GroupIs ((List.range 16).map (fun k => (elt p.2.1.1 rowA (16 * g + k), elt p.2.1.2 rowB (16 * g + k)))) (P g).1 (P g).2) ∧
        newCell p.1 rowA rowB sa sb acc = steps p.2.2 P) ∧
    (let C : FVal :=
        if sa % 64 = 63 ∨ sb % 64 = 63 then (if sum = 0 then .nan false else .inf (decide (sum < 0)))
        else if sum = 0 then .zero allNeg else .fin (decide (sum < 0)) sum.natAbs ((sa % 64 + sb % 64 : Nat) - 70)
      let r := fAdd .rne fp32 false (fp32.value acc) C
      newCell 6 rowA rowB sa sb acc = (r.bits, if (fp32.value acc).isNan = true ∨ C.isNan = true then 0 else r.cond))

/-- R95, R261, R262: the integer and ternary cells: acc + Σ A·B modulo 2^32, over 256 bytes, or 256 base-3 weights and 256 bytes; they raise
nothing. -/
def Sys2Proof.Says.IntegerCells : Prop :=
  ∀ rowA rowB sa sb acc : Nat, acc < 2 ^ 32 →
    let byte := fun (row k : Nat) => (BitVec.ofNat 8 (row / 256 ^ k)).toInt
    newCell 7 rowA rowB sa sb acc = ((((acc : Int) + ((List.range 256).map (fun k => byte rowA k * byte rowB k)).sum) % 2 ^ 32).toNat, 0) ∧
    newCell 8 rowA rowB sa sb acc =
      ((((acc : Int) + ((List.range 256).map (fun k => weight (BitVec.ofNat 8 (rowA / 256 ^ (k / 5))) (k % 5) * byte rowB k)).sum) % 2 ^ 32).toNat, 0)

/-- R95, R257, R264, R265, R268, R269: an operation whose end has come pops its slots, ORs its conditions into MSTAT, which shows them from the next
cycle, sets VSTAT.TBAD with MSTAT's, and leaves the queue; a MACCST's row
is then in memory, as stored bits for FMT 0, or in the private lines of the die's L2, and its message posted, or the array is held while the message has no room; a MACCLD's row is in its accumulator; a walk that failed ends a MACCST with
STATUS 1.
Where the spec leaves a point open or to inference, it states the model's reading: log entries 11, 24. -/
def Sys2Proof.Says.MatrixRetires : Prop :=
  ∀ (s : State) (cl : Nat) (o : MatOp), OnArray s cl → s.me.mq = [o] →
    let now := s.me.mstatNew.1 < s.cycle
    let seen := if now then s.me.mstat ||| s.me.mstatNew.2 else s.me.mstat
    let held := if now then 0 else s.me.mstatNew.2
    (∀ e a b (x y : Nat), o.ends = some e → e ≤ s.cycle → o.what.store = false → a ≠ b → o.pops = [(a, x), (b, y)] → ∃ t, exec (.matrixRetire cl) s = .next t ∧
      t.me.mq = [] ∧ t.me.mstat = seen ∧ t.me.mstatNew = (s.cycle, held ||| o.conds) ∧ SameMemory s t ∧ t.me.accs = s.me.accs ∧ t.me.regs = s.me.regs ∧
      t.me.flags = { s.me.flags with vstat := s.me.flags.vstat ||| if o.conds.getLsbD 6 then 1 else 0 } ∧
      (∀ i : Fin 16, let g := s.me.rings[i]
        let popped := fun n : Nat => ({ g with head := g.head + BitVec.ofNat 32 n, popAt := s.cycle, popped := (if g.popAt = s.cycle then g.popped else 0) + n } : Ring)
        t.me.rings[i] = if i.val = a.toNat then popped x else if i.val = b.toNat then popped y else g)) ∧
    (∀ d g off stride first (tag : BitVec 16) l region e, o.what = .maccst d g off stride first 1 0 tag → o.ends = some e → e ≤ s.cycle → o.conds = 0 → o.pops = [] →
      o.status = 0 → s.mailFull s.me.troupe s.me.vcid = false → o.pieces = [{ row := 0, off := 0, loc := l, len := 1024, region := region }] → (l + 1024 ≤ 2 ^ 49) → Memory.wf s.mem = true →
      (∀ d ∈ s.dies, d.2.watches = []) → l % 4 = 0 →
      let own := (g.desc.extractLsb' 44 4).toNat = 1 ∧ region = .priv
      ∃ t, exec (.matrixRetire cl) s = .next t ∧
        (∀ j < 256, t.view s.me.sa (decide own) (l + 4 * j) 4 = s.me.cell32 d.toNat first j) ∧
        (∀ x, own ∨ x < l ∨ l + 1024 ≤ x → memGet t.mem x = memGet s.mem x) ∧ (¬ own → t.l1d = s.l1d ∧ t.l2 = s.l2) ∧
        (s.cycle, Instr.inboxMessageArrival s.me.troupe ⟨s.me.vcid, s.routeTo s.me.troupe s.me.vcid⟩ (BitVec.ofNat 64 (2 * 2 ^ 16 + tag.toNat))) ∈ t.agenda ∧
        t.me.mq = [] ∧ t.me.mstat = seen ∧ t.me.mstatNew = (s.cycle, held)) ∧
    (∀ d g off stride first count fmt tag e, o.what = .maccst d g off stride first count fmt tag → o.ends = some e → e ≤ s.cycle →
      s.mailFull s.me.troupe s.me.vcid = true → ∃ t, exec (.matrixRetire cl) s = .next t ∧ t.me = { s.me with mq := [{ o with ends := some (s.cycle + 1) }] } ∧
        (t.cluster cl).arrayFree = s.cycle + 1 ∧ (s.cycle + 1, Instr.matrixRetire cl) ∈ t.agenda ∧ SameMemory s t) ∧
    (∀ d g off stride first, o.what = .maccld d g off stride first 1 0 → o.entered.isSome → o.started = none → s.me.ops = [] → first < 256 →
      g.desc.extractLsb' 44 4 = 3 → ∃ t, exec (.sequencerStart cl) s = .next t ∧
        (∀ j < 256, t.me.cell32 d.toNat first j = memRead s.mem (clusterLoc (saPkg s.me.sa) (g.base.toNat + off) + 4 * j) 4) ∧
        (∀ k, k < 65536 * d.toNat + 256 * first ∨ 65536 * d.toNat + 256 * first + 256 ≤ k → Tab.get? t.me.accs k = Tab.get? s.me.accs k) ∧ SameMemory s t) ∧
    (∀ d g off stride first count fmt tag e, o.what = .maccst d g off stride first count fmt tag → o.started = some e → o.ends = none → o.row < count →
      g.desc.extractLsb' 44 4 = 1 → let va := g.base.toNat + off + o.row * stride
      (s.port s.me.port).find s.me.asid va = none → (s.port s.me.port).failedFor (.matrix cl) s.me.asid va = true →
      ∃ t k, exec (.maccstWalkEnd cl) s = .next t ∧ t.me.mq = [{ o with status := 1, ends := some k }] ∧ (k, Instr.matrixRetire cl) ∈ t.agenda ∧
        t.me.accs = s.me.accs ∧ SameMemory s t)


/-! ### Copy engines (chapter 12) -/

/-- A copy instruction: the first of its ranges that fails the segment check traps; a destination or length that breaks the element size raises
MISALIGNED; a full engine queue waits; else the command, with its captured registers, is the last of the engine named, or of the one with the fewest
commands, and an idle engine starts it (R276 to R279). -/
def Sys2Proof.Pushes (s : State) (form : CpyForm) (ranges : List (Seg × Word × Nat × Nat × Bool × Bool)) (grain opt : Nat) (d a b : SReg) (pair : Bool)
    (sseg dseg : SegIx) (tag : BitVec 16) (expl : Bool) (eng : BitVec 5) (c : Bool) (o : Out) : Prop :=
  let die := saDie s.me.sa
  match rangeFault s.me ranges with
  | some t => Raised s t.1 t.2 o
  | none =>
    ((s.me.getS d).toNat % grain ≠ 0 → Raised s .misaligned (s.me.getS d) o) ∧
    ((s.me.getS d).toNat % grain = 0 → grain ≠ 1 → (s.me.getS b).toNat % grain ≠ 0 → Raised s .misaligned (s.me.getS b) o) ∧
    ((s.me.getS d).toNat % grain = 0 → (s.me.getS b).toNat % grain = 0 ∨ grain = 1 → ∃ e < 32,
      (expl = true → e = eng.toNat) ∧
      (expl = false → ∀ x < 32, (s.engine die e).load ≤ (s.engine die x).load ∧ ((s.engine die e).load = (s.engine die x).load → e ≤ x)) ∧
      (64 ≤ (s.engine die e).queue.length → o = .next s) ∧
      ((s.engine die e).queue.length < 64 → ∃ t k, o = .next t ∧ SameMemory s t ∧ t.others = s.others ∧
        t.me = { (movedOn s 8 c).me with packet := t.me.packet, copies := t.me.copies } ∧ (s.me.packet = none → t.me = (movedOn s 8 c).me) ∧
        (∀ p, s.me.packet = some p → p.kind = 2 → k.packet = some p ∧ t.me.packet = none ∧ t.me.copies = s.me.copies ++ [(e, tag.toNat, p)]) ∧
        (t.engine die e).queue = (s.engine die e).queue ++ [k] ∧ (t.engine die e).running = (s.engine die e).running ∧
        k.form = form ∧ k.sa = s.me.sa ∧ k.dst = s.me.getS d ∧ k.src = s.me.getS a ∧ k.b = s.me.getS b ∧ (pair = true → k.b1 = s.me.getS (b + 1)) ∧
        k.opt = opt ∧ k.sseg = s.me.segs[sseg.toNat] ∧ k.dseg = s.me.segs[dseg.toNat] ∧ k.tag = tag ∧ k.asid = s.me.asid ∧ k.root = s.me.root ∧
        ((s.engine die e).load = 0 → (s.cycle, Instr.commandStart die e) ∈ t.agenda)))

/-- R276 to R282, R284: the eight copy instructions and the ranges they check.
Where the spec leaves a point open or to inference, it states the model's reading: log entries 25, 26, 43. -/
def Sys2Proof.Says.CopyIssue : Prop :=
  ∀ (s : State) (d a b : SReg) (tag : BitVec 16) (expl : Bool) (eng : BitVec 5) (e : BitVec 4) (ty : BitVec 2) (get : Bool) (sg dg : SegIx) (c : Bool),
    let src := s.me.segs[sg.toNat]
    let dst := s.me.segs[dg.toNat]
    let x := s.me.getS a
    let y := s.me.getS b
    let w := s.me.getS d
    let n := y.toNat
    let z := s.me.getS (b + 1)
    let span := fun (stride : Nat) => if n / 2 ^ 32 = 0 ∨ n % 2 ^ 32 = 0 then 0 else (n / 2 ^ 32 - 1) * stride + n % 2 ^ 32
    let index := [(src, y, 4 * (z.toNat % 2 ^ 32), 4, true, false)]
    let plain := fun (both : Bool) => [(src, x, n, 1, true, false), (dst, w, n, 1, both, true)]
    Pushes s .cpy (plain false) 1 0 d a b false sg dg tag expl eng c (exec (.cpy d a b tag expl eng sg dg c) s) ∧
    Pushes s .cpy2d [(src, x, span (z.toNat % 2 ^ 32), 1, true, false), (dst, w, span (z.toNat / 2 ^ 32), 1, false, true)] 1 0 d a b true sg dg tag expl eng c
      (exec (.cpy2d d a b tag expl eng sg dg c) s) ∧
    Pushes s .cpyg index 1 e.toNat d a b true sg dg tag expl eng c (exec (.cpyg d a b tag expl eng e sg dg c) s) ∧
    Pushes s .cpys index 1 e.toNat d a b true sg dg tag expl eng c (exec (.cpys d a b tag expl eng e sg dg c) s) ∧
    Pushes s .cpyred (plain true) (if ty = 1 then 2 else 4) ty.toNat d a b false sg dg tag expl eng c (exec (.cpyred d a b tag expl eng ty sg dg c) s) ∧
    (s.me.kind ≠ .sm → Pushes s .cpyring [(src, x, w.toNat / 256 % 512 * (64 * 2 ^ (w.toNat / 2 ^ 17 % 8)), 1, true, false), (dst, y, 256, 1, true, false)] 1 0
      d a b false sg dg tag expl eng c (exec (.cpyring d a b tag expl eng sg dg c) s)) ∧
    (s.me.kind = .sm → Raised s .illegal (wordOf (.cpyring d a b tag expl eng sg dg c)) (exec (.cpyring d a b tag expl eng sg dg c) s)) ∧
    Pushes s .cpyfill [(dst, w, n, 1, false, true)] (2 ^ ty.toNat) ty.toNat d a b false 0 dg tag expl eng c (exec (.cpyfill d a b tag expl eng ty dg c) s) ∧
    Pushes s .cpyrem (plain false) 1 get.toNat d a b false sg dg tag expl eng c (exec (.cpyrem d a b tag expl eng get sg dg c) s)

/-- The completion message of a command (R191, R283). -/
def Sys2Proof.copyMail (eng status : Nat) (tag : BitVec 16) : Word :=
  BitVec.ofNat 64 (eng % 32 * 2 ^ 24 + status % 16 * 2 ^ 20 + 2 ^ 16 + tag.toNat)
/-- No word is poisoned, no watch is armed, and the command's message has room. -/
def Sys2Proof.CopyCalm (s : State) (k : CpyCmd) : Prop :=
  s.poison = [] ∧ (∀ d ∈ s.dies, d.2.watches = []) ∧ s.mailFull k.troupe k.vcid = false ∧ Memory.wf s.mem = true
/-- `n` bytes at `d` lie clear of the head and tail of the spill ring that the command's message may go to. -/
def Sys2Proof.ClearOfMail (s : State) (k : CpyCmd) (d n : Nat) : Prop :=
  ∀ t, s.troupe? k.troupe = some t → d + n ≤ t.spill k.vcid ∨ t.spill k.vcid + 16 ≤ d
/-- The command is over: its engine is free for the next one, and its message is posted 12 cycles later (R279, R283, R285). -/
def Sys2Proof.CopyEnds (s t : State) (die eng : Nat) (k : CpyCmd) (status : Nat) : Prop :=
  (t.engine die eng).running = none ∧ (t.engine die eng).queue = (s.engine die eng).queue ∧ (s.cycle, Instr.commandStart die eng) ∈ t.agenda ∧
  (s.cycle + 12, Instr.inboxMessageArrival k.troupe ⟨k.vcid, s.routeTo k.troupe k.vcid⟩ (copyMail eng status k.tag)) ∈ t.agenda

/-- R279 to R283, R285: COMMAND_START takes the next command and, where nothing needs a walk, fixes its places and its end 12 + Tsrc + X + Tdst
cycles on; COPY_WALK_END goes on with the page that came, or ends with STATUS 1; at COPY_COMPLETION a copy's destination has its source's bytes, a
fill its pattern, a reduction its sum, and no other byte changes. Private lines are read and written in the issuing die's L2, with what the issuing core's
L1D has not written back, and no other core's L1D changes.
Where the spec leaves a point open or to inference, it states the model's reading: log entries 11, 25. -/
def Sys2Proof.Says.CopyRuns : Prop :=
  (∀ (s : State) (die eng : Nat) (k : CpyCmd) (rest : List CpyCmd), (s.engine die eng).running = none → (s.engine die eng).queue = k :: rest →
    k.form = .cpy ∨ k.form = .cpyfill → k.sseg.desc.extractLsb' 44 4 = 4 → k.dseg.desc.extractLsb' 44 4 = 4 → k.b ≠ 0 →
    let at_ := fun (g : Seg) (off : Word) => 2 ^ 50 + saDie k.sa * 2 ^ 25 + (g.base.toNat + off.toNat) % 2 ^ 64
    ∃ t r, exec (.commandStart die eng) s = .next t ∧ (t.engine die eng).queue = rest ∧ (t.engine die eng).running = some r ∧ r.cmd = k ∧ r.status = 0 ∧
      r.pieces = [{ src := if k.form = .cpy then some (at_ k.sseg k.src) else none, dst := some (at_ k.dseg k.dst), len := k.b.toNat,
                     sreg := .coherent, dreg := .coherent }] ∧
      (s.cycle + 12 + (if k.form = .cpy then 36 else 0) + (k.b.toNat + 255) / 256 + 36, Instr.copyCompletion die eng) ∈ t.agenda ∧ t.me = s.me ∧ SameMemory s t) ∧
  (∀ (s : State) (die eng : Nat) (r : CpyRun), (s.engine die eng).running = some r → r.cmd.form = .cpyfill → r.pos = 0 → r.pieces = [] → r.cmd.b ≠ 0 →
    r.cmd.dseg.desc.extractLsb' 44 4 = 1 → r.tsrc = 0 → r.tdst = 0 → r.status = 0 →
    let va := (r.cmd.dseg.base.toNat + r.cmd.dst.toNat) % 2 ^ 64
    let p := r.cmd.strand.port
    va % 65536 + r.cmd.b.toNat ≤ 65536 →
    (∀ l, (s.port p).find r.cmd.asid va = some l → l.check (portDie p) (portCluster p) false true = none → ∃ t r' n, exec (.copyWalkEnd die eng) s = .next t ∧
      (t.engine die eng).running = some r' ∧ r'.pieces = [{ src := none, dst := some (l.pa + va % (if l.large then 2 ^ 29 else 2 ^ 16)), len := r.cmd.b.toNat, dreg := l.region }] ∧
      r'.status = 0 ∧ 12 + (r.cmd.b.toNat + 255) / 256 ≤ n ∧ (s.cycle + n, Instr.copyCompletion die eng) ∈ t.agenda ∧ t.me = s.me ∧ SameMemory s t) ∧
    ((s.port p).find r.cmd.asid va = none → (s.port p).failedFor (.engine die eng) r.cmd.asid va = true → ∃ t r', exec (.copyWalkEnd die eng) s = .next t ∧
      (t.engine die eng).running = some r' ∧ r'.pieces = [] ∧ r'.status = 1 ∧
      (s.cycle + 12 + (r.cmd.b.toNat + 255) / 256, Instr.copyCompletion die eng) ∈ t.agenda ∧ t.me = s.me ∧ SameMemory s t)) ∧
  (∀ (s : State) (die eng : Nat) (r : CpyRun) (src : Option Nat) (d n : Nat) (g1 g2 : Region), (s.engine die eng).running = some r → CopyCalm s r.cmd →
    r.written = false → r.bad = [] → r.status = 0 → r.pieces = [{ src := src, dst := some d, len := n, sreg := g1, dreg := g2 }] → ClearOfMail s r.cmd d n → (∀ a, src = some a → d + n ≤ a ∨ a + n ≤ d) →
    let out := exec (.copyCompletion die eng) s
    let byte := fun (t : State) (g : Region) (x : Nat) => t.engineByte r.cmd.sa (g == .priv) x
    let ends := fun (t : State) => out = .next t ∧ CopyEnds s t die eng r.cmd 0 ∧ t.me = s.me ∧
      (∀ x, g2 = .priv ∨ x < d ∨ d + n ≤ x → memGet t.mem x = memGet s.mem x) ∧
      (∀ sb k, g2 ≠ .priv ∨ coreOf sb ≠ coreOf r.cmd.sa → t.inL1 sb k = s.inL1 sb k)
    (r.cmd.form = .cpy → ∀ a, src = some a → ∃ t, ends t ∧ ∀ i < n, byte t g2 (d + i) = byte s g1 (a + i)) ∧
    (r.cmd.form = .cpyfill → src = none → ∃ t, ends t ∧ ∀ i < n, byte t g2 (d + i) = BitVec.ofNat 8 (r.cmd.src.toNat / 2 ^ (8 * (i % 2 ^ r.cmd.opt)))) ∧
    (r.cmd.form = .cpyred → ∀ a, src = some a → n = (if r.cmd.opt = 1 then 2 else 4) → ∃ t, ends t ∧
      let value := fun (t : State) (g : Region) (x : Nat) => bytesNat ((List.range n).map (fun i => byte t g (x + i))) 0 n
      let old := value s g2 d
      let v := value s g1 a
      value t g2 d = (if r.cmd.opt = 0 then (fAdd .rne fp32 false (fp32.value old) (fp32.value v)).bits
        else if r.cmd.opt = 1 then (fAdd .rne bf16 false (bf16.value old) (bf16.value v)).bits else (old + v) % 2 ^ 32) % 2 ^ (8 * n)))

/-- Where a byte of one side of a command lies, with its region; else the VA whose page is to be walked for, or the STATUS that ends the command: 1 where the
page is unmapped, masked or without the right, 2 where its region does not suit (R280, R283, R284). -/
def Sys2Proof.sideAt (s : State) (k : CpyCmd) (die eng : Nat) (g : Seg) (off : Nat) (rd wr far : Bool) : (Nat × Region) ⊕ (Nat ⊕ Nat) :=
  let m := k.strand
  let va := (g.base.toNat + off) % 2 ^ 64
  if (g.desc.extractLsb' 44 4).toNat ≠ 1 then (match far, place m g va with | false, some l => .inl (l, .coherent) | _, _ => .inr (.inr 2))
  else match (s.port m.port).find m.asid va with
    | none => .inr (if (s.port m.port).failedFor (.engine die eng) m.asid va then .inr 1 else .inl va)
    | some l =>
      if (l.dmask.getLsbD (portDie m.port) && (match portCluster m.port with | some c => l.cmask.getLsbD c | none => true) && (l.w || !wr) && (l.rd || !rd)) = false then
        .inr (.inr 1)
      else if far ≠ decide (l.region = .remote) ∨ (wr = true ∧ l.region = .readShared) then .inr (.inr 2)
      else .inl (l.pa + va % (if l.large then 2 ^ 29 else 2 ^ 16), l.region)

/-- One byte of a command: its offset in the source and in the destination segment, and whether its element passes R143. -/
structure Sys2Proof.CopyByte where
  src : Option (Seg × Nat)
  dst : Option (Seg × Nat)
  ok : Bool

/-- The bytes of a command in command order, with the index values of CPYG and CPYS (R277, R280, R282). -/
def Sys2Proof.copyBytes (k : CpyCmd) (idx : Nat → Nat) : List Sys2Proof.CopyByte :=
  let n := k.b.toNat
  let x := k.src.toNat
  let d := k.dst.toNat
  let lo := k.b1.toNat % 2 ^ 32
  let e := 2 ^ k.opt
  let moved := fun (x d n : Nat) => (List.range n).map (fun i => ({ src := some (k.sseg, x + i), dst := some (k.dseg, d + i), ok := true } : Sys2Proof.CopyByte))
  let read := fun (g : Seg) (x n : Nat) => (List.range n).map (fun i => ({ src := some (g, x + i), dst := none, ok := true } : Sys2Proof.CopyByte))
  let m := { k.strand with h := false, codeSeg := { k.strand.codeSeg with desc := if k.sys then 2 ^ 48 else 0 } }
  let inside := fun (g : Seg) (o : Nat) (wr : Bool) => match segCheck m g (!wr) wr (BitVec.ofNat 64 o) e e with | .ok _ => true | .bad _ _ => false
  let elems := fun (at_ : Nat → Nat × Nat) => (List.range lo).flatMap (fun i =>
    let o := at_ i
    (moved (o.1 % 2 ^ 64) (o.2 % 2 ^ 64) e).map (fun b => { b with ok := inside k.sseg (o.1 % 2 ^ 64) false && inside k.dseg (o.2 % 2 ^ 64) true }))
  match k.form with
  | .cpy2d => (List.range (n / 2 ^ 32)).flatMap (fun r => moved (x + r * lo) (d + r * (k.b1.toNat / 2 ^ 32)) (n % 2 ^ 32))
  | .cpyg => read k.sseg n (4 * lo) ++ elems (fun i => (x + idx i * e, d + i * e))
  | .cpys => read k.sseg n (4 * lo) ++ elems (fun i => (x + i * e, d + idx i * e))
  | .cpyring => read k.sseg x (d / 256 % 512 * (64 * 2 ^ (d / 2 ^ 17 % 8))) ++ read k.dseg n 256
  | .cpyfill => (List.range n).map (fun i => { src := none, dst := some (k.dseg, d + i), ok := true })
  | _ => moved x d n

/-- The engine cycles of a command (R285). -/
def Sys2Proof.copyCycles (k : CpyCmd) : Nat :=
  let up := fun (n d : Nat) => (n + d - 1) / d
  let lo := k.b1.toNat % 2 ^ 32
  match k.form with
  | .cpy2d => k.b.toNat / 2 ^ 32 * up (k.b.toNat % 2 ^ 32) 256
  | .cpyg | .cpys => lo * up (2 ^ k.opt) 256 + up (4 * lo) 256
  | .cpyred => up k.b.toNat 128
  | .cpyring => 64 * 2 ^ (k.dst.toNat / 2 ^ 17 % 8) + 1
  | _ => up k.b.toNat 256

/-- R277, R280, R282 to R285, R384: the places of a command. At COMMAND_START an engine takes the command's bytes in command order up to the first whose
element lies outside its segment (STATUS 4), whose page fails (STATUS 1, 2), or whose page the port does not hold, for which it walks; the parts it will read
and write are those bytes, and its end comes 12 + X cycles or more later, or a CPYRING, whose target is good, reserves its slot. A CPYREM of one page also
ends with STATUS 5 where its window entry, direction, LIMIT or links refuse it.
Where the spec leaves a point open or to inference, it states the model's reading: log entries 25, 26. -/
def Sys2Proof.Says.CopyPlaces : Prop :=
  ∀ (s : State) (die eng : Nat) (k : CpyCmd) (rest : List CpyCmd), (s.engine die eng).running = none → (s.engine die eng).queue = k :: rest → s.poison = [] →
    let out := exec (.commandStart die eng) s
    let side := fun (o : Option (Seg × Nat)) (rd wr far : Bool) => o.map (fun x => sideAt s k die eng x.1 x.2 rd wr far)
    let takes := fun (t : State) (r : CpyRun) => (t.engine die eng).queue = rest ∧ (t.engine die eng).running = some r ∧ r.cmd = k ∧ t.me = s.me ∧
      SameMemory s t
    let bytes := fun (r : CpyRun) => r.pieces.flatMap (fun p => (List.range p.len).map (fun i => (p.src.map (· + i), p.sreg, p.dst.map (· + i), p.dreg)))
    let place_ := fun (x : Option ((Nat × Region) ⊕ (Nat ⊕ Nat))) => match x with | some (.inl l) => (some l.1, l.2) | _ => (none, Region.coherent)
    let good := fun (x : Option ((Nat × Region) ⊕ (Nat ⊕ Nat))) => match x with | some (.inr _) => false | _ => true
    let target := s.strand? (mkSa (saDie k.sa) (saCluster k.sa) 48 (k.dst.extractLsb' 4 2).toNat)
    (target = none → badTarget s k = true) ∧
    (∀ m, target = some m → (badTarget s k = true ↔
        let rows := (k.dst.extractLsb' 8 9).toNat
        let pitch := (k.dst.extractLsb' 17 3).toNat
        m.run = .vacant ∨ m.troupe ≠ k.troupe ∨ ringSlots m (k.dst.extractLsb' 0 4) = 0 ∨ rows = 0 ∨ 256 < rows ∨ 5 < pitch ∨ k.dst.extractLsb' 20 44 ≠ 0 ∨
          k.dst.extractLsb' 6 2 ≠ 0 ∨ slotBytes m (k.dst.extractLsb' 0 4) < 256 * (64 * 2 ^ pitch))) ∧
    (k.form = .cpyring → badTarget s k = true → ∃ t r, out = .next t ∧ takes t r ∧ r.status = 3 ∧ r.pieces = [] ∧ (s.cycle + 12, Instr.copyCompletion die eng) ∈ t.agenda) ∧
    (k.form ≠ .cpyrem → (k.form = .cpyring → badTarget s k = false) →
      let first := (copyBytes k (fun _ => 0)).take (4 * (k.b1.toNat % 2 ^ 32))
      let word := fun i => bytesNat ((List.range 4).map (fun j => match place_ (side ((first[4 * i + j]?).bind (·.src)) true false false) with
        | (some l, g) => s.engineByte k.sa (g == .priv) l
        | _ => 0)) 0 4
      let all := copyBytes k word
      let src := fun (b : CopyByte) => side b.src true false false
      let dst := fun (b : CopyByte) => side b.dst (k.form == .cpyred) true false
      let there := all.takeWhile (fun b => b.ok && good (src b) && good (dst b))
      let parts := fun (r : CpyRun) => bytes r = there.map (fun b => ((place_ (src b)).1, (place_ (src b)).2, (place_ (dst b)).1, (place_ (dst b)).2))
      let ends := fun (status : Nat) => ∃ t r n, out = .next t ∧ takes t r ∧ parts r ∧ r.status = status ∧
        if k.form = .cpyring ∧ status = 0 then (s.cycle, Instr.ringReservation die eng) ∈ t.agenda
        else 12 + copyCycles k ≤ n ∧ (s.cycle + n, Instr.copyCompletion die eng) ∈ t.agenda
      let walks := fun (va : Nat) => ∃ t r, out = .next t ∧ takes t r ∧ parts r ∧ r.status = 0 ∧
        ∃ w ∈ (t.port k.strand.port).walks, w.who = .engine die eng ∧ w.va = va ∧ w.asid = k.asid ∧ w.root = k.root
      (there.length = all.length → ends 0) ∧
      (∀ b, all[there.length]? = some b → (b.ok = false → ends 4) ∧
        (b.ok = true → (∀ st, src b = some (.inr (.inr st)) → ends st) ∧ (∀ va, src b = some (.inr (.inl va)) → walks va) ∧
          (good (src b) = true → (∀ st, dst b = some (.inr (.inr st)) → ends st) ∧ (∀ va, dst b = some (.inr (.inl va)) → walks va))))) ∧
    (k.form = .cpyrem → k.b ≠ 0 → k.opt ≤ 1 → let n := k.b.toNat
      (∀ p ∈ [(k.sseg, k.src), (k.dseg, k.dst)], (p.1.desc.extractLsb' 44 4).toNat = 1 → (p.1.base.toNat + p.2.toNat) % 65536 + n ≤ 65536) →
      let get := k.opt = 1
      let x := sideAt s k die eng k.sseg k.src.toNat true false (decide get)
      let y := sideAt s k die eng k.dseg k.dst.toNat false true (decide (¬ get))
      let ends := fun (status : Nat) (ps : List Piece) => ∃ t r n, out = .next t ∧ takes t r ∧ r.pieces = ps ∧ r.status = status ∧ r.win = s.mgmt.win ∧ 12 + copyCycles k ≤ n ∧
        (s.cycle + n, Instr.copyCompletion die eng) ∈ t.agenda
      (∀ st, x = .inr (.inr st) → ends st []) ∧
      (∀ a st, x = .inl a → y = .inr (.inr st) → ends st []) ∧
      (∀ a d, x = .inl a → y = .inl d →
        let o := (if get then a.1 else d.1) - 0xC000000000
        let w := Tab.getD s.mgmt.win (o / 2 ^ 38) []
        let flags : BitVec 8 := BitVec.ofNat 8 (bytesNat w 6 1)
        let served := o < 2 ^ 44 ∧ flags.getLsbD 0 = true ∧ flags.getLsbD (if get then 2 else 1) = true ∧ o % 2 ^ 38 + n ≤ min (bytesNat w 8 8) (2 ^ 38) ∧
          ∃ l < 32, (BitVec.ofNat 32 (bytesNat w 0 4)).getLsbD l = true ∧ s.mgmt.link.getLsbD l = true
        if served then ends 0 [{ src := some a.1, dst := some d.1, len := n, sreg := a.2, dreg := d.2 }] else ends 5 []))

/-- R277, R280, R282 to R284, R384, R385: at its completion CPY, CPY2D, CPYG and CPYS have put each source byte, as it was before, at its place, the later of two bytes
for one place remaining, and no other byte changes; a CPYREM's flits leave round-robin over the up links of its window, covering its range, a put's with
its bytes, or it ends with STATUS 5 without a link; a CPYRING has its rows, zero rows up to row 255, and the scale vector in its slot.
Where the spec leaves a point open or to inference, it states the model's reading: log entries 11, 25, 26. -/
def Sys2Proof.Says.CopyMoves : Prop :=
  (∀ (s : State) (die eng : Nat) (r : CpyRun) (g1 g2 : Region), (s.engine die eng).running = some r → CopyCalm s r.cmd →
    r.cmd.form ∈ [CpyForm.cpy, .cpy2d, .cpyg, .cpys] → r.written = false → r.bad = [] → (r.status = 0 ∨ r.cmd.packet = none) →
    (∀ p ∈ r.pieces, p.src.isSome ∧ p.sreg = g1 ∧ (p.dst.isSome → p.dreg = g2)) →
    let moves := r.pieces.flatMap (fun p => match p.src, p.dst with
      | some a, some d => (List.range p.len).map (fun i => (a + i, d + i))
      | _, _ => [])
    (∀ p ∈ moves, moves.all (fun q => q.1 != p.2) = true) → (∀ p ∈ r.pieces, ∀ d, p.dst = some d → ClearOfMail s r.cmd d p.len) →
    ∃ t, exec (.copyCompletion die eng) s = .next t ∧ CopyEnds s t die eng r.cmd r.status ∧ t.me = s.me ∧
      (∀ p ∈ moves, ∀ q, moves.reverse.find? (fun x => x.2 == p.2) = some q → t.engineByte r.cmd.sa (g2 == .priv) p.2 = s.engineByte r.cmd.sa (g1 == .priv) q.1) ∧
      (∀ x, g2 = .priv ∨ moves.all (fun p => p.2 != x) = true → memGet t.mem x = memGet s.mem x) ∧
      (∀ sb k, g2 ≠ .priv ∨ coreOf sb ≠ coreOf r.cmd.sa → t.inL1 sb k = s.inL1 sb k)) ∧
  (∀ (s : State) (die eng : Nat) (r : CpyRun) (p : Piece) (a d : Nat), (s.engine die eng).running = some r → CopyCalm s r.cmd → r.cmd.form = .cpyrem →
    r.cmd.opt ≤ 1 → r.written = false → r.bad = [] → r.status = 0 → r.pieces = [p] → p.src = some a → p.dst = some d → 0 < p.len → r.cmd.packet = none →
    let get : Bool := r.cmd.opt = 1
    let far := if get then a else d
    let home := if get then d else a
    let o := far - 0xC000000000
    let w := Tab.getD r.win (o / 2 ^ 38) []
    let ups := (List.range 32).filter (fun l => (BitVec.ofNat 32 (bytesNat w 0 4)).getLsbD l && s.mgmt.link.getLsbD l)
    o < 2 ^ 44 → p.len ≤ 65536 →
    (ups = [] → ∃ t, exec (.copyCompletion die eng) s = .next t ∧ CopyEnds s t die eng r.cmd 5 ∧ t.me = s.me ∧ SameMemory s t ∧ t.remoteOut = s.remoteOut) ∧
    (ups ≠ [] → ∃ t r' fs, exec (.copyCompletion die eng) s = .next t ∧ t.remoteOut = s.remoteOut ++ fs ∧ (t.engine die eng).running = some r' ∧
      r'.cmd = r.cmd ∧ r'.status = 0 ∧ t.me = s.me ∧ t.mem = s.mem ∧ t.l1d = s.l1d ∧
      fs.flatMap (fun f => (List.range f.len).map (f.off + ·)) = (List.range p.len).map (o % 2 ^ 38 + ·) ∧
      (∀ x ∈ fs.zipIdx, let f := x.1
        0 < f.len ∧ f.off % 64 + f.len ≤ 64 ∧ f.module = bytesNat w 4 2 ∧ f.put = !get ∧ f.answer = false ∧ ups[x.2 % ups.length]? = some f.link ∧
        (get = false → ∀ i < f.len, f.data.extractLsb' (8 * i) 8 = s.engineByte r.cmd.sa (p.sreg == .priv) (home + (f.off - o % 2 ^ 38) + i)) ∧
        r'.unacked[x.2]? = some { num := x.2, loc := home + (f.off - o % 2 ^ 38), len := f.len, links := bytesNat w 0 4, flit := f }) ∧
      r'.unacked.length = fs.length)) ∧
  (∀ (s : State) (die eng : Nat) (r : CpyRun) (n : BitVec 32), (s.engine die eng).running = some r → CopyCalm s r.cmd → r.cmd.form = .cpyring → r.written = false →
    r.bad = [] → r.status = 0 → r.slot = some n → s.me.run ≠ .vacant → s.me.sa = mkSa (saDie r.cmd.sa) (saCluster r.cmd.sa) 48 (r.cmd.dst.extractLsb' 4 2).toNat →
    let ix : RingIx := r.cmd.dst.extractLsb' 0 4
    let g := s.me.rings[ix.toNat]
    let pitch := 64 * 2 ^ (r.cmd.dst.extractLsb' 17 3).toNat
    let rows := (r.cmd.dst.extractLsb' 8 9).toNat * pitch
    let slot := slotLoc s.me g n
    let sources := r.pieces.flatMap (fun p => match p.src with | some a => (List.range p.len).map (fun i => (a + i, p.sreg)) | none => [])
    let byte := fun (x : Nat × Region) => s.engineByte r.cmd.sa (x.2 == .priv) x.1
    (r.cmd.dst.extractLsb' 8 9).toNat ≤ 256 → 256 * pitch ≤ slotBytes s.me ix → sources.length = rows + 256 →
    s.ringHeld (saPkg s.me.sa) (g.slotAt n) (256 * pitch) = false → s.ringHeld (saPkg s.me.sa) (g.slotAt n + slotBytes s.me ix) 256 = false →
    ∃ t, exec (.copyCompletion die eng) s = .next t ∧ t.me = s.me ∧ (s.cycle, Instr.cpyringTailAdvance die eng) ∈ t.agenda ∧
      (∀ x ∈ (sources.take rows).zipIdx, memGet t.mem (slot + x.2) = byte x.1) ∧ (∀ i < 256 * pitch, rows ≤ i → memGet t.mem (slot + i) = 0) ∧
      (∀ x ∈ (sources.drop rows).zipIdx, memGet t.mem (slot + slotBytes s.me ix + x.2) = byte x.1) ∧
      (∀ x, (x < slot ∨ slot + 256 * pitch ≤ x) → (x < slot + slotBytes s.me ix ∨ slot + slotBytes s.me ix + 256 ≤ x) → memGet t.mem x = memGet s.mem x))

/-- R275, R282: CPYRING to a strand that is no heavy one ends with STATUS 3, and so does one whose target is bad when it is to reserve; else it takes
the next unreserved count and waits until that slot is free, and TAIL advances in the order of the reservations.
Where the spec leaves a point open or to inference, it states the model's reading: log entry 25. -/
def Sys2Proof.Says.CopyToRing : Prop :=
  (∀ (s : State) (die eng : Nat) (k : CpyCmd) (rest : List CpyCmd), (s.engine die eng).running = none → (s.engine die eng).queue = k :: rest →
    k.form = .cpyring → s.strand? (mkSa (saDie k.sa) (saCluster k.sa) 48 (k.dst.extractLsb' 4 2).toNat) = none → ∃ t r, exec (.commandStart die eng) s = .next t ∧
      (t.engine die eng).running = some r ∧ r.cmd = k ∧ r.status = 3 ∧ (s.cycle + 12, Instr.copyCompletion die eng) ∈ t.agenda ∧ t.me = s.me ∧ SameMemory s t) ∧
  (∀ (s : State) (die eng : Nat) (r : CpyRun), (s.engine die eng).running = some r → s.me.run ≠ .vacant →
    s.me.sa = mkSa (saDie r.cmd.sa) (saCluster r.cmd.sa) 48 (r.cmd.dst.extractLsb' 4 2).toNat →
    let ix : RingIx := r.cmd.dst.extractLsb' 0 4
    let g := s.me.rings[ix.toNat]
    let slots := (g.cfg.extractLsb' 32 8).toNat
    let only := fun (t : State) (x : Ring) => t.me = { s.me with rings := t.me.rings } ∧ (∀ i : Fin 16, t.me.rings[i] = if i.val = ix.toNat then x else s.me.rings[i]) ∧
      SameMemory s t
    let waits := fun (n : BitVec 32) => slots ≤ (n - g.head).toNat + (if g.popAt = s.cycle then g.popped else 0)
    let next := fun (t : State) (n : BitVec 32) =>
      (waits n → (s.cycle + 1, Instr.ringReservation die eng) ∈ t.agenda) ∧
      (¬ waits n → (s.cycle + (12 + r.tsrc + r.cmd.cycles + (if r.cmd.kind = .heavy then 14 else 22)), Instr.copyCompletion die eng) ∈ t.agenda)
    (r.slot = none → badTarget s r.cmd = true → ∃ t r', exec (.ringReservation die eng) s = .next t ∧ (t.engine die eng).running = some r' ∧ r'.cmd = r.cmd ∧
      r'.status = 3 ∧ r'.slot = none ∧ (s.cycle, Instr.copyCompletion die eng) ∈ t.agenda ∧ t.me = s.me ∧ SameMemory s t) ∧
    (r.slot = none → badTarget s r.cmd = false → ∃ t r', exec (.ringReservation die eng) s = .next t ∧ only t { g with reserved := g.reserved + 1 } ∧
      (t.engine die eng).running = some r' ∧ r'.slot = some g.reserved ∧ r'.cmd = r.cmd ∧ next t g.reserved) ∧
    (∀ n, r.slot = some n → ∃ t, exec (.ringReservation die eng) s = .next t ∧ t.me = s.me ∧ (t.engine die eng).running = some r ∧ next t n ∧ SameMemory s t) ∧
    (∀ n, r.slot = some n → s.earlierSlot die r.cmd n = true → ∃ t, exec (.cpyringTailAdvance die eng) s = .next t ∧ t.me = s.me ∧
      (s.cycle + 1, Instr.cpyringTailAdvance die eng) ∈ t.agenda ∧ SameMemory s t) ∧
    (∀ n, r.slot = some n → s.earlierSlot die r.cmd n = false → s.mailFull r.cmd.troupe r.cmd.vcid = false → r.status = 0 →
      ∃ t, exec (.cpyringTailAdvance die eng) s = .next t ∧ only t { g with tail := g.tail + 1 } ∧ CopyEnds s t die eng r.cmd 0))

/-- R283, R284, R384, R385: a flit that a window entry admits is performed and answered over its link, another is refused; an acknowledged get writes
its bytes, private ones in the issuing die's L2; the last acknowledgement ends the command, a refusal with STATUS 5; links train and go down, and a flit that went over a lost link and is not
acknowledged is sent again over another of its window.
Where the spec leaves a point open or to inference, it states the model's reading: log entries 11, 26. -/
def Sys2Proof.Says.RemoteFlits : Prop :=
  (∀ (s : State) (src : FlitSource) (off pa : Nat) (data : BitVec 512), s.exported src.module off = some pa → (∀ d ∈ s.dies, d.2.watches = []) → Memory.wf s.mem = true →
    let answer := fun (put : Bool) (n : Nat) (v : BitVec 512) =>
      ({ link := src.link, module := src.module, off := off, put := put, answer := true, len := n, data := v } : Flit)
    let n := min src.len 64
    (∃ t, exec (.remoteFlitArrival src off true data) s = .next t ∧ Stored s t pa n data.toNat ∧ t.me = s.me ∧ t.remoteOut = s.remoteOut ++ [answer true n 0]) ∧
    (∃ t, exec (.remoteFlitArrival src off false data) s = .next t ∧ SameMemory s t ∧ t.me = s.me ∧
      t.remoteOut = s.remoteOut ++ [answer false n (BitVec.ofNat 512 (memRead s.mem pa n))])) ∧
  (∀ (s : State) (src : FlitSource) (off : Nat) (put : Bool) (data : BitVec 512), s.exported src.module off = none →
    exec (.remoteFlitArrival src off put data) s = .next { s with remoteOut := s.remoteOut ++
      [{ link := src.link, module := src.module, off := off, put := put, answer := true, len := 0, data := 0 }] }) ∧
  (∀ (s : State) (die eng : Nat) (u : Unacked) (r : CpyRun) (ok : Bool) (data : BitVec 512), (s.engine die eng).running = some r → CopyCalm s r.cmd →
    r.unacked = [u] → ClearOfMail s r.cmd u.loc u.len → r.status = 0 → ∃ t, exec (.remoteFlitAck die eng u.num ok data) s = .next t ∧
      CopyEnds s t die eng r.cmd (if ok then 0 else 5) ∧ t.me = s.me ∧
      (ok = true ∨ r.cmd.packet = none →
        if ok = true ∧ r.cmd.opt = 1 then
          ((∀ p ∈ r.pieces, p.dreg ≠ .priv) → Stored s t u.loc u.len (data.toNat % 2 ^ (8 * u.len))) ∧
          (∀ p d, r.pieces = [p] → p.dreg = .priv → p.dst = some d → d ≤ u.loc → u.loc < d + p.len → u.loc % 128 + u.len ≤ 128 → 0 < u.len →
            WrittenBelow s t r.cmd.sa u.loc u.len (data.toNat % 2 ^ (8 * u.len)))
        else SameMemory s t)) ∧
  (∀ (s : State) (link : Nat) (up : BitVec 32), exec (.linkTrain up) s = .next { s with mgmt := { s.mgmt with link := up } } ∧
    ∃ t, exec (.linkDown link) s = .next t ∧ t.mgmt.link.getLsbD (link % 32) = false ∧
      (∀ i < 32, i ≠ link % 32 → t.mgmt.link.getLsbD i = s.mgmt.link.getLsbD i) ∧ t.me = s.me ∧
      ((∀ d ∈ s.dies, ∀ e ∈ d.2.engines, ∀ r, e.2.running = some r → r.cmd.packet = none) → SameMemory s t) ∧
      (∀ die d eng e r u x, s.dies = [(die, d)] → d.engines = [(eng, e)] → e.running = some r → r.unacked = [u] → u.flit.link = link % 32 →
        (List.range 32).filter (fun l => u.links.testBit l && s.mgmt.link.getLsbD l && l != link % 32) = [x] →
        t.remoteOut = s.remoteOut ++ [{ u.flit with link := x }]))


/-! ### Ordered tasks (chapter 13) -/

/-- R286 to R290, R295, R296, R310 to R313: the task instructions, inside and outside an ordered-task troupe and a task.
Where the spec leaves a point open or to inference, it states the model's reading: log entry 57. -/
def Sys2Proof.Says.TaskInstructions : Prop :=
  ∀ (s : State) (d a b : SReg) (n sel : BitVec 3) (entry : BitVec 32) (c : Bool),
    let spawn := Instr.tspawn d a b n entry c
    let ts := s.me.getS a
    (s.me.kind = .sm → ∀ i ∈ [spawn, .tdone c, .ttsPoll d a c, .ttsWait a c, .tkey d sel c, .tirrev c], Raised s .illegal (wordOf i) (exec i s)) ∧
    (s.me.kind ≠ .sm → (∀ t, s.troupe? s.me.troupe = some t → t.ordered = false) →
      (∀ i ∈ [spawn, .tdone c, .tkey d sel c, .tirrev c], Raised s .taskState 1 (exec i s)) ∧
      WroteS s d 1 8 c (exec (.ttsPoll d a c) s) ∧ (s.me.task = none → Passed s 8 c (exec (.ttsWait a c) s))) ∧
    (∀ t, s.me.kind ≠ .sm → s.troupe? s.me.troupe = some t → t.ordered = true →
      let passed := (ts.toNat < t.front.1.toNat ∨ t.front = (BitVec.allOnes 64, BitVec.allOnes 32)) ∧ t.pass = false ∧ ∀ x, t.requeued = some x → ts.toNat < x.toNat
      (passed → WroteS s d 1 8 c (exec (.ttsPoll d a c) s)) ∧ (¬ passed → WroteS s d 0 8 c (exec (.ttsPoll d a c) s)) ∧
      (s.me.h = true → Raised s .taskState 5 (exec (.tdone c) s)) ∧
      (s.me.task = none →
        Raised s .taskState 2 (exec spawn s) ∧ WroteS s d (BitVec.allOnes 64) 8 c (exec (.tkey d sel c) s) ∧ Passed s 8 c (exec (.tirrev c) s) ∧
        (passed → Passed s 8 c (exec (.ttsWait a c) s)) ∧ (¬ passed → exec (.ttsWait a c) s = .next s) ∧
        (s.me.h = false → ∃ u t', exec (.tdone c) s = .next u ∧ u.me = { (movedOn s 8 false).me with
            run := .idle, task := none, h := false, block := none, readyAt := s.cycle + 1 } ∧ u.troupe? s.me.troupe = some t' ∧ SameMemory s u ∧
          Tab.get? t'.frames s.me.vcid = some { s29 := s.me.getS 29, s30 := s.me.getS 30, s31 := s.me.getS 31, fctl := s.me.fctl, wpc := s.me.pc + 8 })) ∧
      (∀ id k, s.taskOf s.me = some (id, k) →
        (ts.toNat < k.t.toNat → Raised s .taskTimestamp ts (exec spawn s)) ∧
        (k.t.toNat ≤ ts.toNat →
          Raised s .taskState 4 (exec (.ttsWait a c) s) ∧
          let lo := if saPkg s.me.sa = t.origin then 16 else routeLatency (saPkg s.me.sa) t.origin
          ∃ u t' p, exec spawn s = .next u ∧ u.me = { (movedOn s 8 c).me with ops := s.me.ops ++ [{ fenceOp s (.tspawn d none) with
              dsts := [.s d], stage := .away, trappable := true }] } ∧
            u.troupe? s.me.troupe = some t' ∧ t'.spawns = t.spawns ++ [p] ∧ p.t = ts ∧ p.parent = BitVec.ofNat 32 id ∧ p.entry = entry ∧ p.id = none ∧
            p.args = (List.range n.toNat).map (fun i => s.me.getS (b + BitVec.ofNat 5 i)) ∧ p.arrives = s.cycle + lo ∧
            (s.cycle + lo, Instr.spawnAtOrigin s.me.troupe) ∈ u.agenda ∧ (s.cycle + 2 * lo, Instr.tspawnIdReturn s.me.sa s.me.nextQ) ∈ u.agenda ∧ SameMemory s u) ∧
        (ts.toNat < k.t.toNat → passed → Passed s 8 c (exec (.ttsWait a c) s)) ∧
        (∀ v, sel.toNat < 7 → v = [k.t, BitVec.ofNat 64 id, k.args.getD 0 0, k.args.getD 1 0, k.args.getD 2 0, k.parent.zeroExtend 64, BitVec.ofNat 64 k.retries].getD sel.toNat 0 →
          WroteS s d v 8 c (exec (.tkey d sel c) s)) ∧
        (k.state = .irrev → Passed s 8 c (exec (.tirrev c) s)) ∧ (k.state = .running → exec (.tirrev c) s = .next s) ∧
        (k.state = .nonspec → k.committing = false → ∃ u t' k', exec (.tirrev c) s = .next u ∧ u.troupe? s.me.troupe = some t' ∧ Tab.get? t'.tasks id = some k' ∧
          k' = { k with committing := true } ∧ u.me.pc = s.me.pc + 8 ∧ u.me.readyAt = s.cycle + t.span + k.buffer.length ∧
          (s.cycle + (t.span + k.buffer.length), Instr.irrevocableCommit s.me.troupe id) ∈ u.agenda ∧ SameMemory s u) ∧
        (s.me.h = false → s.me.ops = [] → s.me.held = [] → (∀ f ∈ s.me.fixed, f.due ≤ s.cycle) →
          (∀ p ∈ t.spawns, p.parent.toNat = id → p.dead = true) → ∃ u t', exec (.tdone c) s = .next u ∧
          u.me.run = .idle ∧ u.me.task = none ∧ u.me.readyAt = s.cycle + 1 ∧ u.me.regs = s.me.regs ∧ u.troupe? s.me.troupe = some t' ∧
          Tab.get? t'.tasks id = (if k.state = .irrev then none else some { k with state := .finished, worker := none }) ∧ SameMemory s u)))

/-- R287, R291, R292, R310: a spawn takes the next spawn id at the origin and goes to its unit, where it is queued; the id reaches the spawner's
destination; a spilled task comes back into the queue; the lowest key goes to an idle worker, which starts it with the registers of R291; when no
task is left, idle workers go on behind their TDONE.
Where the spec leaves a point open or to inference, it states the model's reading: log entry 58. -/
def Sys2Proof.Says.TaskArrival : Prop :=
  (∀ (s : State) (tr : Nat) (t : Troupe) (p : Spawn) (o : Op) (d : SReg), s.troupe? tr = some t → t.spawns = [p] → p.id = none → p.arrives ≤ s.cycle →
    t.spawnCtr < 0xFFFFFFFF → p.sa = s.me.sa → s.me.ops = [o] → o.q = p.q → o.what = .tspawn d none →
    ∃ u t', exec (.spawnAtOrigin tr) s = .next u ∧ u.troupe? tr = some t' ∧ t' = { t with spawns := [{ p with id := some t.spawnCtr }], spawnCtr := t.spawnCtr + 1 } ∧
      u.me = { s.me with ops := [{ o with what := .tspawn d (some t.spawnCtr) }] } ∧ SameMemory s u ∧
      (s.cycle + t.toUnit (t.spawnCtr % t.clusters), Instr.taskAccept tr t.spawnCtr) ∈ u.agenda) ∧
  (∀ (s : State) (o : Op) (d : SReg) (id : Nat), s.me.ops = [o] → s.me.held = [] → s.me.undo = [] → (∀ e ∈ s.me.inbox, e.taken = none) →
    (∀ i : Fin 8, ∀ e ∈ s.me.inPorts[i], e.taken = none) → o.what = .tspawn d (some id) → ∃ u, exec (.tspawnIdReturn s.me.sa o.q) s = .next u ∧
      u.me.ops = [] ∧ u.me.pc = s.me.pc ∧ (∀ r, u.me.getS r = if r = d ∧ d ≠ 0 then BitVec.ofNat 64 id else s.me.getS r) ∧ SameMemory s u) ∧
  (∀ (s : State) (tr id : Nat) (t : Troupe) (p : Spawn), s.troupe? tr = some t → t.tasks = [] → t.spawns = [p] → p.id = some id → p.dead = false →
    ∃ u t' k, exec (.taskAccept tr id) s = .next u ∧ u.troupe? tr = some t' ∧ t'.spawns = [] ∧ t'.tasks = [(id, k)] ∧ k.t = p.t ∧ k.parent = p.parent ∧
      k.entry = p.entry ∧ k.args = p.args ∧ k.state = .queued ∧ k.retries = 0 ∧ k.unit = id % t.clusters ∧ k.worker = none ∧ k.buffer = [] ∧ u.me = s.me ∧
      (s.cycle, Instr.taskDispatch tr (id % t.clusters)) ∈ u.agenda ∧ SameMemory s u) ∧
  (∀ (s : State) (tr id : Nat) (t : Troupe) (k : Task), s.troupe? tr = some t → t.tasks = [(id, k)] → k.state = .spilled → ∃ u t', exec (.taskRefill tr k.unit) s = .next u ∧
    u.troupe? tr = some t' ∧ t'.tasks = [(id, { k with state := .queued, slot := none })] ∧ (s.cycle, Instr.taskDispatch tr k.unit) ∈ u.agenda ∧ u.me = s.me ∧ SameMemory s u) ∧
  (∀ (s : State) (tr id : Nat) (t : Troupe) (k : Task) (f : Frame), s.others = [] → s.troupe? tr = some t → t.tasks = [(id, k)] → k.state = .queued → k.retries = 0 →
    s.me.troupe = tr → s.me.kind ≠ .sm → saPkg s.me.sa = t.clusterAt k.unit → s.me.run = .idle → s.me.readyAt ≤ s.cycle → s.me.swap = none → s.me.dbg.stopReq = none →
    s.me.dbg.stopped = false → Tab.get? t.frames s.me.vcid = some f →
    let front := t.front == (k.t, BitVec.ofNat 32 id) && (k.front || !t.pass)
    ∃ u t', exec (.taskDispatch tr k.unit) s = .next u ∧ u.troupe? tr = some t' ∧ SameMemory s u ∧
      t'.tasks = [(id, { k with state := if front then .nonspec else .running, worker := some s.me.vcid, sig := 0, front := front, usedCores := s.me.sa / 32 :: k.usedCores })] ∧
      u.me.run = .active ∧ u.me.pc = k.entry.zeroExtend 64 ∧ u.me.task = some id ∧ u.me.readyAt = s.cycle + 24 ∧ u.me.fctl = f.fctl ∧ u.me.flags.fflags = 0 ∧
      u.me.h = false ∧ u.me.vregs = Vector.replicate 16 0 ∧
      (∀ r, u.me.getS r = if r = 1 then k.args.getD 0 0 else if r = 2 then k.args.getD 1 0 else if r = 3 then k.args.getD 2 0 else if r = 4 then k.t
        else if r = 5 then BitVec.ofNat 64 id else if r = 29 then f.s29 else if r = 30 then f.s30 else if r = 31 then f.s31 else 0)) ∧
  (∀ (s : State) (tr : Nat) (t : Troupe) (f : Frame), s.others = [] → s.troupe? tr = some t → t.tasks = [] → t.spawns = [] → t.pass = false → s.me.troupe = tr →
    s.me.kind ≠ .sm → s.me.run = .idle → Tab.get? t.frames s.me.vcid = some f → ∃ u, exec (.workersResume tr) s = .next u ∧ u.me.run = .active ∧ u.me.pc = f.wpc ∧
      u.me.task = none ∧ u.me.fctl = f.fctl ∧ SameMemory s u ∧
      ∀ r, u.me.getS r = if r = 29 then f.s29 else if r = 30 then f.s30 else if r = 31 then f.s31 else 0)

/-- The masked bytes of a granule are written back, to memory or, of a private page, to the L1D of the core that wrote them, and no other byte. -/
def Sys2Proof.Committed (s u : State) (g : Granule) : Prop :=
  let masked := fun (x : Nat) => g.loc ≤ x ∧ x < g.loc + 64 ∧ g.mask.getLsbD (x - g.loc) = true
  let byte := fun (x : Nat) => g.data.extractLsb' (8 * (x - g.loc)) 8
  (g.owner = none → (∀ x, (masked x → memGet u.mem x = byte x) ∧ (¬ masked x → memGet u.mem x = memGet s.mem x)) ∧ u.l1d = s.l1d ∧ u.l2 = s.l2) ∧
  (∀ sa, g.owner = some sa → g.loc % 64 = 0 → OnLine s u sa (g.loc / 128) ∧ ∀ x, masked x → u.seen sa true x = byte x)

/-- R286, R294, R296 to R303: the sample is the least key of the unfinished tasks and is published 32 + 8·h cycles later; a commit writes the masked
bytes of a task's buffer and no others; after the pass the frontier task becomes non-speculative; an abort notice requeues a task that has stopped
and empties a running one; a signature hits every granule ever added to it; an irrevocable store aborts the later tasks it hits, which are queued
at once, or stop by a notice where a strand runs them.
Where the spec leaves a point open or to inference, it states the model's reading: log entries 11, 58. -/
def Sys2Proof.Says.TaskCommits : Prop :=
  ∀ (s : State) (tr : Nat) (t : Troupe), s.troupe? tr = some t → Memory.wf s.mem = true → (∀ d ∈ s.dies, d.2.watches = []) →
    (∃ u t' key, exec (.frontierSample tr) s = .next u ∧ u.troupe? tr = some t' ∧ t' = { t with sampled := some key } ∧ u.me = s.me ∧ SameMemory s u ∧
      (∀ p ∈ t.tasks, p.2.unfinished = true → keyLess (taskKey p.1 p.2) key = false) ∧
      (key = (BitVec.allOnes 64, BitVec.allOnes 32) ∨ ∃ p ∈ t.tasks, p.2.unfinished = true ∧ key = taskKey p.1 p.2) ∧
      (s.cycle + (32 + 8 * t.reach), Instr.frontierPublish tr) ∈ u.agenda) ∧
    (∀ key, t.sampled = some key →
      (t.pass = true → ∃ u, exec (.frontierPublish tr) s = .next u ∧ u.troupe? tr = some { t with publishDue := true } ∧ u.me = s.me ∧ SameMemory s u) ∧
      (t.pass = false → ∃ u t', exec (.frontierPublish tr) s = .next u ∧ u.troupe? tr = some t' ∧ t'.front = key ∧ t'.pass = true ∧ t'.requeued = none ∧
        t'.sampled = none ∧ t'.tasks = t.tasks ∧ u.me = s.me ∧ SameMemory s u)) ∧
    (∀ id k, t.tasks = [(id, k)] →
      (∀ g, t.committing = some id → k.state = .finished → k.doomed = false → k.ending = none → k.buffer = [g] → ∃ u t', exec (.taskCommit tr) s = .next u ∧
        u.troupe? tr = some t' ∧ t'.tasks = [] ∧ Committed s u g ∧ u.me = s.me ∧ (s.cycle, Instr.commitPassEnd tr) ∈ u.agenda) ∧
      (∀ g, k.state = .nonspec → k.committing = true → k.buffer = [g] → ∃ u t', exec (.irrevocableCommit tr id) s = .next u ∧ u.troupe? tr = some t' ∧
        t'.tasks = [(id, { k with state := .irrev, buffer := [], sig := 0, committing := false })] ∧ Committed s u g ∧ u.me = s.me) ∧
      (t.pass = true → t.committing = none → t.publishDue = false → t.front = (k.t, BitVec.ofNat 32 id) → id < 2 ^ 32 → k.state = .running → k.doomed = false → k.ending = none →
        ∃ u, exec (.commitPassEnd tr) s = .next u ∧ u.troupe? tr = some { t with pass := false, tasks := [(id, { k with front := true })] } ∧
          (s.cycle + 16, Instr.nonspecNotice tr id) ∈ u.agenda ∧ u.me = s.me ∧ SameMemory s u) ∧
      (k.state = .running → k.doomed = false → k.ending = none → ∃ u, exec (.nonspecNotice tr id) s = .next u ∧
        u.troupe? tr = some { t with tasks := [(id, { k with state := .nonspec })] } ∧ u.me = s.me ∧ SameMemory s u) ∧
      (k.state = .irrev → ∀ r, exec (.abortNotice tr id r) s = .next s) ∧
      (k.state = .finished → k.ending = none → k.worker = none → ∃ u t', exec (.abortNotice tr id false) s = .next u ∧ u.troupe? tr = some t' ∧ u.me = s.me ∧
        t'.tasks = [(id, { k with state := .queued, worker := none, buffer := [], sig := 0, doomed := false, ending := none, committing := false, slot := none })] ∧
        (∃ x, t'.requeued = some x ∧ x.toNat ≤ k.t.toNat) ∧ (s.cycle, Instr.taskDispatch tr k.unit) ∈ u.agenda ∧ SameMemory s u) ∧
      (∀ m v, k.state = .running → k.ending = none → k.worker = some v → s.residentOf tr v = some m → ∃ u t', exec (.abortNotice tr id false) s = .next u ∧
        u.troupe? tr = some t' ∧ t'.tasks = [(id, { k with buffer := [], sig := 0, ending := some false })] ∧ u.me = s.me ∧ SameMemory s u) ∧
      (∀ (id0 unit g : Nat) (t0 : Word), k.state = .running ∨ k.state = .finished → k.doomed = false → keyLess (t0, BitVec.ofNat 32 id0) (taskKey id k) = true →
        let onStrand := k.state = .running ∧ ∃ v m, k.worker = some v ∧ s.residentOf tr v = some m
        let cl := t.clusterAt unit
        let home := t.clusterAt k.unit
        ∃ u t', exec (.irrevocableStoreCheck tr id0 t0 unit g) s = .next u ∧ u.troupe? tr = some t' ∧ u.me = s.me ∧ SameMemory s u ∧
          (sigHit k.sig g = false → u = s) ∧
          (sigHit k.sig g = true → (∃ x, t'.requeued = some x ∧ x.toNat ≤ k.t.toNat) ∧
            (onStrand → t'.tasks = [(id, { k with doomed := true, buffer := [], sig := 0 })] ∧
              (s.cycle + (if cl = home then 16 else routeLatency cl home), Instr.abortNotice tr id false) ∈ u.agenda) ∧
            (¬ onStrand → t'.tasks = [(id, { k with state := .queued, worker := none, buffer := [], sig := 0, doomed := false, ending := none, committing := false, slot := none })] ∧ (s.cycle, Instr.taskDispatch tr k.unit) ∈ u.agenda)))) ∧
    (∀ (sig : BitVec 2048) (g h : Nat), sigHit (sigAdd sig g) g = true ∧ (sigHit sig h = true → sigHit (sigAdd sig g) h = true))

/-- R301 to R303: a commit checks each of its granules against the signature of every running, stopped or finished task of a higher key, and aborts those it
hits, which are queued anew at once, or stop by a notice where a strand runs them; every other task stays as it is.
Where the spec leaves a point open or to inference, it states the model's reading: log entries 11, 58. -/
def Sys2Proof.Says.CommitAborts : Prop :=
  ∀ (s : State) (tr : Nat) (t : Troupe) (id id2 : Nat) (k x : Task), s.troupe? tr = some t → Memory.wf s.mem = true → (∀ d ∈ s.dies, d.2.watches = []) →
    (id < id2 ∧ t.tasks = [(id, k), (id2, x)]) ∨ (id2 < id ∧ t.tasks = [(id2, x), (id, k)]) → t.committing = some id →
    k.state = .finished → k.doomed = false → k.ending = none →
    let hit := (x.state = .running ∨ x.state = .stopped ∨ x.state = .finished) ∧ x.doomed = false ∧ keyLess (k.t, BitVec.ofNat 32 id) (x.t, BitVec.ofNat 32 id2) = true ∧
      ∃ g ∈ k.buffer, sigHit x.sig g.loc = true
    let onStrand := x.state = .running ∧ (match x.worker with | some v => (s.residentOf tr v).isSome | none => false) = true
    let cl := t.clusterAt k.unit
    let home := t.clusterAt x.unit
    ∃ u t', exec (.taskCommit tr) s = .next u ∧ u.troupe? tr = some t' ∧ u.me = s.me ∧ (∀ g, k.buffer = [g] → Committed s u g) ∧
      (¬ hit → t'.tasks = [(id2, x)] ∧ t'.requeued = t.requeued) ∧
      (hit → (∃ y, t'.requeued = some y ∧ y.toNat ≤ x.t.toNat) ∧
        (onStrand → t'.tasks = [(id2, { x with doomed := true, buffer := [], sig := 0, committing := false })] ∧
          (s.cycle + (if cl = home then 16 else routeLatency cl home), Instr.abortNotice tr id2 false) ∈ u.agenda) ∧
        (¬ onStrand → t'.tasks = [(id2, { x with state := .queued, worker := none, buffer := [], sig := 0, doomed := false, ending := none, committing := false, slot := none })] ∧
          (s.cycle, Instr.taskDispatch tr x.unit) ∈ u.agenda))

/-- R292: a task that arrives at a unit with 1,024 queued tasks makes the unit spill the highest key of them and of itself into a free record of its share,
byte for byte as the table of the record says; with no free record the troupe takes a fatal fault of REASON 6 that names the arriving task's TSPAWN.
Where the spec leaves a point open or to inference, it states the model's reading: log entry 58. -/
def Sys2Proof.Says.TaskSpills : Prop :=
  ∀ (s : State) (tr id : Nat) (t : Troupe) (p : Spawn), s.troupe? tr = some t → t.spawns = [p] → p.id = some id → p.dead = false → Memory.wf s.mem = true →
    let unit := id % t.clusters
    let queued := fun (q : Nat × Task) => q.2.unit == unit && q.2.state == .queued
    (t.tasks.filter queued).length = 1024 → t.tasks.all (fun q => q.1 < id) = true → t.tasks.Pairwise (fun a b => a.1 < b.1) →
    let share := t.field 0x128 8 / t.clusters / 64 * 64
    let base := t.field 0x120 8 + unit * share
    let busy := fun (i : Nat) => t.tasks.any (fun q => q.2.unit == unit && q.2.slot == some i)
    let mine : Task := { t := p.t, parent := p.parent, entry := p.entry, args := p.args, retries := 0, rerun := false, state := .queued, unit := unit, worker := none,
                         buffer := [], sig := 0, front := false, doomed := false, ending := none, slot := none, usedCores := [], committing := false
                         spawner := some (p.vcid, p.sa, p.pc) }
    let all := t.tasks.filter queued ++ [(id, mine)]
    let high := fun (v : Nat × Task) => all.all (fun q => !keyLess (v.2.t, BitVec.ofNat 32 v.1) (q.2.t, BitVec.ofNat 32 q.1))
    ((List.range (share / 64)).all busy = false → ∃ u t' i, exec (.taskAccept tr id) s = .next u ∧ u.troupe? tr = some t' ∧ u.me = s.me ∧ i < share / 64 ∧ busy i = false ∧
      t'.reports = t.reports ∧
      ∃ v ∈ all, high v = true ∧ Tab.get? t'.tasks v.1 = some { v.2 with state := .spilled, slot := some i } ∧
        (t.tasks ++ [(id, mine)]).all (fun q => q.1 == v.1 || Tab.get? t'.tasks q.1 == some q.2) = true ∧
        let at_ := base + 64 * i
        let word := fun (o n : Nat) => memRead u.mem (at_ + o) n
        word 0 8 = v.2.t.toNat ∧ word 8 4 = v.1 % 2 ^ 32 ∧ word 12 4 = v.2.parent.toNat ∧ word 16 4 = v.2.entry.toNat ∧
        word 20 4 = (v.2.args.length + 4 * v.2.retries + (if v.2.rerun then 16 else 0)) % 2 ^ 32 ∧ (∀ j < 3, word (24 + 8 * j) 8 = (v.2.args.getD j 0).toNat) ∧
        (∀ x, x < at_ ∨ at_ + 64 ≤ x → memGet u.mem x = memGet s.mem x)) ∧
    ((List.range (share / 64)).all busy = true → ∃ u t', exec (.taskAccept tr id) s = .next u ∧ u.troupe? tr = some t' ∧
      t'.reports = t.reports ++ [{ cycle := s.cycle, pc := p.pc, addr := p.t, vcid := p.vcid, sa := p.sa, info := 0, cause := BitVec.ofNat 8 (causeNumber .taskState), reason := 6 }] ∧
      (s.cycle + diePath (pcDie (t.clusterAt unit)) (saDie t.launcher), Instr.fatalReport tr) ∈ u.agenda ∧ u.me = s.me ∧ SameMemory s u)

/-! ### Code and translation (chapter 14) -/

/-- R327 to R329: CODESYNC checks its range, then its pages are translated; XLATINV completes at its fixed time; XLATPRE changes nothing but
the die's translations and its port: a block that no place of the prompter is free for waits; the next instruction after CODESYNC and XLATINV is fetched afresh.
Where the spec leaves a point open or to inference, it states the model's reading: log entries 38, 40, 67. -/
def Sys2Proof.Says.CodeInstructions : Prop :=
  ∀ (s : State) (a b : SReg) (n : SegIx) (c : Bool), InOrder s →
    let g := s.me.segs[n.toNat]
    let off := s.me.getS a
    let len := (s.me.getS b).toNat
    let fresh := fun (ops : List Op) (t : State) => t.me = { (movedOn s 4 c).me with ops := s.me.ops ++ ops, block := none } ∧ SameMemory s t ∧ t.others = s.others
    let inv := fun (all : Bool) (base n time : Nat) o => ∃ t, o = Host.Outcome.next t ∧
      fresh [{ fenceOp s (.xlatinv all base n) with stage := .away }] t ∧ (s.cycle + time, Instr.xlatinvCompletion s.me.sa s.me.nextQ) ∈ t.agenda
    (s.me.system = true →
      (match segCheck s.me g false true off len 4 with
       | .bad cause addr => Raised s cause addr (exec (.codesync a b n c) s)
       | .ok va =>
         ((g.desc.extractLsb' 44 4).toNat ≠ 1 → Raised s .segRights off (exec (.codesync a b n c) s)) ∧
         ((g.desc.extractLsb' 44 4).toNat = 1 → len % 4 ≠ 0 → Raised s .misaligned (s.me.getS b) (exec (.codesync a b n c) s)) ∧
         ((g.desc.extractLsb' 44 4).toNat = 1 → len = 0 → ∃ t, exec (.codesync a b n c) s = .next t ∧ fresh [] t) ∧
         ((g.desc.extractLsb' 44 4).toNat = 1 → len % 4 = 0 → len ≠ 0 → ∃ t op, exec (.codesync a b n c) s = .next t ∧ fresh [op] t ∧
           op.q = s.me.nextQ ∧ op.what = .codesync va len ∧ op.trappable = true ∧ (s.cycle + 10, Instr.translationConfirm s.me.sa s.me.nextQ) ∈ t.agenda ∧
           (∀ x ∈ op.accs, va ≤ x.va ∧ x.va + x.size ≤ va + len ∧ x.va / 65536 = (x.va + x.size - 1) / 65536) ∧
           ∀ p, va ≤ p → p < va + len → ∃ x ∈ op.accs, x.va ≤ p ∧ p < x.va + x.size)) ∧
      inv false (off.toNat % 2 ^ 48) len (96 + (len + 4095) / 4096) (exec (.xlatinvRange a b c) s) ∧
      inv true 0 0 640 (exec (.xlatinvAll c) s)) ∧
    (∃ t, exec (.xlatpre a c) s = .next t ∧ t.me = (movedOn s 4 c).me ∧ SameMemory s t ∧ t.others = s.others ∧
      let die := saDie s.me.sa
      ∀ pa region, off.toNat % 4 = 0 → s.fetchCheck s.me (BitVec.ofNat 64 (off.toNat % 2 ^ 32)) = .ok pa region →
        let key := xkey pa s.me.kind s.me.system
        let busy := (s.die die).reloading = true ∨ 8 ≤ (s.die die).translating
        (∀ e, Tab.get? (s.die die).xcache key = some e → Tab.get? (t.die die).xcache key = some { e with used := s.cycle }) ∧
        (Tab.get? (s.die die).xcache key = none → ¬ busy →
          ∃ e, Tab.get? (t.die die).xcache key = some e ∧ e.state = .pending ∧ s.cycle + 40 ≤ e.ends ∧ (e.ends, Instr.translationEnd die key) ∈ t.agenda) ∧
        (Tab.get? (s.die die).xcache key = none → busy → (∃ x ∈ (t.die die).xqueue, x.1 = key) ∧ (t.die die).xcache = (s.die die).xcache))

/-- The translations of every die that hold a word of `hit` are gone, or doomed while they are under way; every other stays. -/
def Sys2Proof.Invalidated (s t : State) (hit : Nat → Prop) : Prop :=
  ∀ d k e, (k, e) ∈ (s.die d).xcache →
    ((∃ p ∈ e.pas, hit p) → e.state = .valid → (k, e) ∉ (t.die d).xcache) ∧
    ((∃ p ∈ e.pas, hit p) → e.state = .pending → (k, { e with state := .doomed }) ∈ (t.die d).xcache) ∧
    ((∀ p ∈ e.pas, ¬ hit p) → (k, e) ∈ (t.die d).xcache)

/-- R320, R327, R328, R330, R331, R347: a completion of CODESYNC or XLATINV invalidates the translations that hold a word of its range, and CODESYNC writes
back its private lines; a
translation that ends reaches the strand that waits for it, a doomed one is made again; a reload of the template table ends by restarting every
translation under way; a refetched line is struck no more and lets its stage-manager strand go on.
Where the spec leaves a point open or to inference, it states the model's reading: log entries 11, 40. -/
def Sys2Proof.Says.CodeEvents : Prop :=
  (∀ (s : State) (o : Op), Calm s → s.me.ops = [o] →
    let ends := fun (t : State) => t.me = { s.me with ops := [] }
    (∀ va len, o.what = .codesync va len → ∃ t, exec (.codesyncCompletion s.me.sa o.q) s = .next t ∧ ends t ∧
      ((∀ a ∈ o.accs, a.region ≠ .priv) → SameMemory s t) ∧
      (Memory.wf s.mem = true → ∀ a ∈ o.accs, a.region = .priv → ∀ l, a.loc = some l → ∀ x, l ≤ x → x < l + a.size →
        memGet t.mem x = (unwrittenAt s s.me.sa x).getD (memGet s.mem x)) ∧
      Invalidated s t (fun p => ∃ x ∈ o.accs, ∃ l, x.loc = some l ∧ p < l + x.size ∧ l < p + 4)) ∧
    (∀ all base len, o.what = .xlatinv all base len → ∃ t, exec (.xlatinvCompletion s.me.sa o.q) s = .next t ∧ ends t ∧ SameMemory s t ∧
      Invalidated s t (fun p => all = true ∨ (p < base + len ∧ base < p + 4)))) ∧
  (∀ (s : State) (die key : Nat) (e : XEntry), Tab.get? (s.die die).xcache key = some e → (s.die die).xqueue = [] → (s.die die).reloading = false →
    e.ends ≤ s.cycle → s.poison = [] →
    (e.state = .pending → ∃ t n, exec (.translationEnd die key) s = .next t ∧ n ≤ 2 ^ 23 ∧
      Tab.get? (t.die die).xcache key = some { e with state := .valid, size := n, used := s.cycle } ∧
      SameMemory s t ∧
      (∀ b, s.me.block = some b → b.key = key → b.words = [] → saDie s.me.sa = die → t.me = { s.me with block := some { b with words := e.words, tail := e.tailPa } }) ∧
      (s.me.block = none → t.me = s.me)) ∧
    (e.state = .doomed → ∃ t x, exec (.translationEnd die key) s = .next t ∧ Tab.get? (t.die die).xcache key = some x ∧ x.state = .pending ∧
      s.cycle + 40 ≤ x.ends ∧ (x.ends, Instr.translationEnd die key) ∈ t.agenda ∧ t.me = s.me ∧ SameMemory s t)) ∧
  (∀ (s : State) (die : Nat), (s.die die).xqueue = [] → ∃ t, exec (.templateReload die) s = .next t ∧ (t.die die).reloading = false ∧ t.me = s.me ∧
    SameMemory s t ∧ ∀ key e, (key, e) ∈ (s.die die).xcache → e.state ≠ .valid → ∃ x, Tab.get? (t.die die).xcache key = some x ∧ x.state = .pending ∧
      s.cycle + 40 ≤ x.ends ∧ (x.ends, Instr.translationEnd die key) ∈ t.agenda) ∧
  (∀ s : State, (s.me.xwait = none → exec (.instructionMemoryRefetch s.me.sa) s = .next s) ∧
    ∀ a line, s.me.xwait = some (a, 2 ^ 64 + line) → ∃ t, exec (.instructionMemoryRefetch s.me.sa) s = .next t ∧
      t.me = { s.me with xwait := none } ∧ t.others = s.others ∧ SameMemory s t ∧
      ∀ l, l ∈ (t.die (saDie s.me.sa)).smLost ↔ l ∈ (s.die (saDie s.me.sa)).smLost ∧ l ≠ line)

/-! ### Work queues (chapter 15) -/

/-- A packed result (R339). -/
def Sys2Proof.packedWord (kind status value : Nat) : Word := BitVec.ofNat 64 (kind % 256 * 2 ^ 40 + status % 256 * 2 ^ 32 + value % 2 ^ 32)

/-- A QUEUE form has answered `v` in s[d] and its strand goes on, its packet under way being `pk`; of the strand nothing else differs but its
mapped queue, its poll and the cycle in which s[d] is ready. -/
def Sys2Proof.Answered (s : State) (d : SReg) (v : Word) (c : Bool) (t : State) (pk : Option Packet := s.me.packet) : Prop :=
  (∀ r, t.me.getS r = if r = d ∧ d ≠ 0 then v else s.me.getS r) ∧ t.others = s.others ∧
  t.me = { (movedOn s 4 c).me with regs := t.me.regs, undo := t.me.undo, mapped := t.me.mapped, poll := t.me.poll, packet := pk, fixed := t.me.fixed }

/-- The 64 bytes at `a` are the descriptor of a queue, field by field (R332). -/
def Sys2Proof.DescriptorAt (m : List Host.Cell) (a : Nat) (x : Queue) : Prop :=
  memRead m a 8 = x.ring.toNat ∧ memRead m (a + 0x08) 1 = x.logn.toNat ∧ memRead m (a + 0x09) 1 = x.prio.toNat ∧
  memRead m (a + 0x0A) 1 = (match x.state with | .disabled => 0 | .idle => 1 | .ready => 2 | .mapped => 3 | .faulted => 4) ∧
  memRead m (a + 0x0B) 1 = x.freason.toNat ∧ memRead m (a + 0x0C) 4 = x.asid.toNat ∧ memRead m (a + 0x10) 8 = x.root.toNat ∧
  memRead m (a + 0x18) 8 = x.rdidx.toNat ∧ memRead m (a + 0x20) 8 = x.wridx.toNat ∧ memRead m (a + 0x28) 8 = x.acycle.toNat ∧
  memRead m (a + 0x30) 8 = x.fdetail.toNat ∧ memRead m (a + 0x38) 8 = 0

/-- Only queue `q` has changed, to `x`; of memory, only its descriptor in the queue table, which Stage B has placed, or nothing before that. -/
def Sys2Proof.QueueIs (s t : State) (q : Nat) (x : Queue) : Prop :=
  t.queue q = x ∧ (∀ j, j ≠ q → t.queue j = s.queue j) ∧
  match (s.die (q / 16384)).qtab with
  | none => ∀ y, memGet t.mem y = memGet s.mem y
  | some base =>
    let a := base + 64 * (q % 16384)
    DescriptorAt t.mem a x ∧ ∀ y, y < a ∨ a + 64 ≤ y → memGet t.mem y = memGet s.mem y

/-- The host is told that a packet of a queue has finished, where its NOTIFY asks for it (R334, R381). -/
def Sys2Proof.notified (s : State) (notify : Bool) (q : Nat) : State := if notify then s.interrupt 1 (q / 16384 % 8) q else s

/-- A stage manager's strand in system code. -/
def Sys2Proof.Manager (s : State) : Prop := s.me.system = true ∧ s.me.kind = .sm

/-- R335, R340: WQMAP and WQMAP.q map a queue and say why not; WQUNMAP gives it back, IDLE where nothing is left and else READY and ranked
again; QPOP consumes a packet; QPUSH ranks a READY queue that is not on the board; RANKSET replaces the rank program by 16 words that satisfy R336, or
names the first that does not; QPOP of a NOP, SIGNAL or TIMESTAMP packet ends it, and the host is told where it asks for it. What QPOP answers
without a mapped queue and WQUNMAP for one that is no longer MAPPED is the model's (log entry 43). A poisoned word is no word of a program: RANKSET's strand
takes MACHINE_CHECK (R391). -/
def Sys2Proof.Says.QueueForms : Prop :=
  ∀ (s : State) (d a : SReg) (c : Bool), Manager s → Memory.wf s.mem = true →
    let die := saDie s.me.sa
    let q := (s.me.getS a).toNat
    let brd := (s.die die).board
    let ok := q < 131072 ∧ q / 16384 = die
    let map := exec (.wqmap d c) s
    let mapq := exec (.wqmapQ d a c) s
    let push := exec (.qpush d a c) s
    let on_ := (s.queue q).state = .mapped ∨ (∃ e ∈ brd, e.2 = q) ∨ q ∈ (s.die die).outside ∨ s.inserting q = true
    (∀ m, s.me.mapped = some m → WroteS s d (packedWord 0 1 0) 4 c map ∧ WroteS s d (packedWord 0 1 0) 4 c mapq) ∧
    (s.me.mapped = none →
      (brd = [] → map = .next s) ∧
      (∀ e rest, brd = e :: rest → e.2 / 16384 = die → ∃ t, map = .next t ∧ Answered s d (packedWord 0 0 e.2) c t ∧ t.me.mapped = some e.2 ∧
        QueueIs s t e.2 { s.queue e.2 with state := .mapped } ∧ (∀ x ∈ (t.die die).board, x.2 ≠ e.2)) ∧
      (¬ ok → WroteS s d (packedWord 0 3 0) 4 c mapq) ∧
      (ok → (s.queue q).state ≠ .idle → (s.queue q).state ≠ .ready → WroteS s d (packedWord 0 2 0) 4 c mapq) ∧
      (ok → (s.queue q).state = .idle ∨ (s.queue q).state = .ready → ∃ t, mapq = .next t ∧ Answered s d (packedWord 0 0 q) c t ∧ t.me.mapped = some q ∧
        QueueIs s t q { s.queue q with state := .mapped } ∧ (∀ x ∈ (t.die die).board, x.2 ≠ q)) ∧
      WroteS s d (BitVec.allOnes 64) 4 c (exec (.wqunmap d c) s) ∧ WroteS s d (BitVec.allOnes 64) 4 c (exec (.qpop d c) s)) ∧
    (∀ m, s.me.mapped = some m →
      let x := s.queue m
      let left := x.wridx.toNat - x.rdidx.toNat
      let struck := x.state = .faulted ∧ x.freason = 4
      (x.state ≠ .mapped → ∃ t, exec (.wqunmap d c) s = .next t ∧ Answered s d (Config.freeWord s.freeCtr) c t none ∧ t.me.mapped = none ∧ SameMemory s t ∧
        t.queues = s.queues) ∧
      (x.state = .mapped → left = 0 → ∃ t, exec (.wqunmap d c) s = .next t ∧ Answered s d 0 c t none ∧ t.me.mapped = none ∧
        QueueIs s t m { x with state := .idle }) ∧
      (x.state = .mapped → left ≠ 0 → ∃ t, exec (.wqunmap d c) s = .next t ∧ Answered s d 1 c t none ∧ t.me.mapped = none ∧
        QueueIs s t m { x with state := .ready } ∧ (s.cycle + 16, Instr.boardInsertion m) ∈ t.agenda) ∧
      (struck → ∃ t, exec (.qpop d c) s = .next t ∧ Answered s d (packedWord 0 0xFE 0) c t ∧ t.me.mapped = none ∧ t.queues = s.queues ∧ SameMemory s t) ∧
      (¬ struck → left = 0 → WroteS s d (BitVec.allOnes 64) 4 c (exec (.qpop d c) s)) ∧
      (¬ struck → left ≠ 0 → ∃ t, exec (.qpop d c) s = .next t ∧ Answered s d (BitVec.ofNat 64 (left - 1)) c t t.me.packet ∧ t.me.mapped = some m ∧
        QueueIs s t m { x with rdidx := x.rdidx + 1, acycle := if left = 1 then x.acycle else BitVec.ofNat 64 s.cycle } ∧
        (∀ p, s.me.packet = some p → p.queue = m → p.kind ∈ [0, 4, 5] → t.me.packet = none ∧ t.mgmt = (notified s p.notify m).mgmt) ∧
        ((∀ p, s.me.packet = some p → p.queue = m → p.kind ∉ [0, 4, 5]) → t.me.packet = s.me.packet ∧ t.mgmt = s.mgmt))) ∧
    (¬ ok → WroteS s d 4 4 c push) ∧
    (ok → on_ → WroteS s d 1 4 c push) ∧
    (ok → ¬ on_ → ((s.queue q).state ≠ .ready ∨ (s.queue q).wridx.toNat ≤ (s.queue q).rdidx.toNat) → WroteS s d 2 4 c push) ∧
    (ok → ¬ on_ → (s.queue q).state = .ready → (s.queue q).rdidx.toNat < (s.queue q).wridx.toNat →
      (4096 ≤ brd.length → WroteS s d 3 4 c push) ∧
      (brd.length < 4096 → ∃ t, push = .next t ∧ Answered s d 0 c t ∧ (s.cycle + 16, Instr.boardInsertion q) ∈ t.agenda ∧
        (q, s.rankQueue q, s.cycle + 16) ∈ (t.die die).inserts ∧ t.queues = s.queues ∧ SameMemory s t)) ∧
    (let off := s.me.getS a
     let ws := (List.range 16).map (fun i => memRead s.mem (dieLoc die (off.toNat + 4 * i)) 4)
     (off.toNat % 64 ≠ 0 → Raised s .misaligned off (exec (.rankset d a c) s)) ∧
     (off.toNat % 64 = 0 → off.toNat + 64 ≤ 0x2000000 → ∀ p, s.sick (dieLoc die off.toNat) 64 = some p →
       exec (.rankset d a c) s = .next (s.machineCheck s.me.sa (poisonAddr p))) ∧
     (off.toNat % 64 = 0 → off.toNat + 64 ≤ 0x2000000 → s.sick (dieLoc die off.toNat) 64 = none →
       (∀ i, rankBad ws = some i → WroteS s d (BitVec.ofNat 64 (1 + 256 * i)) 4 c (exec (.rankset d a c) s)) ∧
       (rankBad ws = none → ∃ t, exec (.rankset d a c) s = .next t ∧ Answered s d 0 c t ∧ (t.die die).rankProg = ws ∧ SameMemory s t)))

/-- The queue is FAULTED with a reason and its RDIDX as the detail, and a KIND 3 notice is on its way to the strand that maps it (R348). -/
def Sys2Proof.FaultedIs (s t : State) (q reason : Nat) : Prop :=
  QueueIs s t q { s.queue q with state := .faulted, freason := BitVec.ofNat 8 reason, fdetail := (s.queue q).rdidx } ∧
  (s.cycle + 6, Instr.inboxMessageArrival 0 ⟨s.me.sa, s.routeTo 0 s.me.sa⟩ (BitVec.ofNat 64 (q % 2 ^ 32 * 2 ^ 32 + 3 * 2 ^ 16 + 3))) ∈ t.agenda

/-- R334, R341, R342, R347: QWAIT waits for a packet and delivers it in its packet slot, a WAIT packet being polled instead; QSIGNAL stores or adds
one word of the mapped queue's space. A page that is not known parks the strand for its walk; a failed one faults the queue with reason 3, a packet that
is not well formed with reason 1 (its status is free, log entry 43). A WAIT packet with FENCE does not start while a packet before it is unfinished. A
strand that reads a poisoned packet or word takes MACHINE_CHECK (R391).
Where the spec leaves a point open or to inference, it states the model's reading: log entries 11, 42, 43. -/
def Obligations.QueueWaitAndSignal : Prop :=
  ∀ (s : State) (d a b : SReg) (notify c : Bool), Manager s → Memory.wf s.mem = true →
    let wait := exec (.qwait d c) s
    let va := (s.me.getS a).toNat
    let v := (s.me.getS b).toNat
    let parks := fun (x : Queue) (va : Nat) (t : State) => t.me = { s.me with xwait := some (x.asid.toNat, va / 65536) } ∧ SameMemory s t ∧ t.others = s.others
    (s.me.mapped = none → WroteS s d (packedWord 0 0xFF 0) 4 c wait ∧ WroteS s d 0xFF 4 c (exec (.qsignal d a b notify c) s) ∧
      WroteS s d 0xFF 4 c (exec (.qsignalAdd d a b notify c) s)) ∧
    (∀ m, s.me.mapped = some m →
      let x := s.queue m
      let struck := x.state = .faulted ∧ x.freason = 4
      let head := x.ring.toNat + 64 * (x.rdidx.toNat % 2 ^ x.logn.toNat)
      let look := fun (va : Nat) (rd wr : Bool) => s.xlate s.me.port (.strand s.me.sa) x.asid.toNat va rd wr
      (struck → ∃ t, wait = .next t ∧ Answered s d (packedWord 0 0xFE 0) c t ∧ t.me.mapped = none ∧ SameMemory s t) ∧
      (¬ struck → ∀ p, s.me.poll = some p →
        (p.result = none → wait = .next s) ∧
        (∀ w, p.result = some w → ∃ t, wait = .next t ∧ Answered s d w c t ∧ t.me.poll = none ∧ t.queues = s.queues ∧ SameMemory s t)) ∧
      (¬ struck → s.me.poll = none →
        (x.wridx.toNat ≤ x.rdidx.toNat → wait = .next s) ∧
        (x.rdidx.toNat < x.wridx.toNat →
          (look head true false = .miss → ∃ t, wait = .next t ∧ parks x head t) ∧
          (∀ cause, look head true false = .fail cause → ∃ t, wait = .next t ∧ Answered s d (packedWord 0 3 0) c t ∧ FaultedIs s t m 3) ∧
          (∀ l, look head true false = .hit l →
            let bs := memBytes s.mem (l.addr head) 64
            let kind := memRead s.mem (l.addr head) 1
            let slot := dieLoc (saDie s.me.sa) (0x1FF2000 + 64 * (s.me.sa % 32))
            let sick := s.sick (l.addr head) 64
            let held := memRead s.mem (l.addr head + 1) 1 % 2 = 1 ∧ s.unfinished m = true
            (∀ p, sick = some p → wait = .next (s.machineCheck s.me.sa (poisonAddr p))) ∧
            (sick = none → packetOk bs = false → ∃ t w, wait = .next t ∧ Answered s d w c t ∧ FaultedIs s t m 1) ∧
            (sick = none → packetOk bs = true → kind ≠ 3 → ∃ t, wait = .next t ∧
              Answered s d (packedWord kind 0 x.rdidx.toNat) c t
                (some { queue := m, rdidx := x.rdidx, kind := kind, notify := memRead s.mem (l.addr head + 1) 1 / 2 % 2 == 1 }) ∧ t.queues = s.queues ∧
              memBytes t.mem slot 64 = bs ∧ ∀ y, y < slot ∨ slot + 64 ≤ y → memGet t.mem y = memGet s.mem y) ∧
            (sick = none → packetOk bs = true → kind = 3 → held → wait = .next s) ∧
            (sick = none → packetOk bs = true → kind = 3 → ¬ held → ∃ t p, wait = .next t ∧ t.me = { s.me with poll := some p } ∧ p.result = none ∧
              (p.next, Instr.waitPacketPoll s.me.sa) ∈ t.agenda ∧ SameMemory s t)))) ∧
      ∀ add : Bool,
        let out := if add then exec (.qsignalAdd d a b notify c) s else exec (.qsignal d a b notify c) s
        (va % 8 ≠ 0 → WroteS s d 4 4 c out) ∧
        (va % 8 = 0 →
          (look va add true = .miss → ∃ t, out = .next t ∧ parks x va t) ∧
          (∀ cause, look va add true = .fail cause → ∃ t, out = .next t ∧ Answered s d 3 c t ∧ FaultedIs s t m 3) ∧
          (∀ l, look va add true = .hit l → add = true → ∀ p, s.sick (l.addr va) 8 = some p → out = .next (s.machineCheck s.me.sa (poisonAddr p))) ∧
          (∀ l, look va add true = .hit l → (add = true → s.sick (l.addr va) 8 = none) → (l.region = .priv → l.addr va % 8 = 0) → ∃ t, out = .next t ∧ Answered s d 0 c t ∧ t.queues = s.queues ∧
            (l.region ≠ .priv → Stored s t (l.addr va) 8 (if add then memRead s.mem (l.addr va) 8 + v else v)) ∧
            (l.region = .priv → add = false → PrivateStored s t s.me.sa (l.addr va) 8 v) ∧
            (l.region = .priv → add = true → WrittenBelow s t s.me.sa (l.addr va) 8
              ((s.recall s.me.sa true (l.addr va) 8).view s.me.sa true (l.addr va) 8 + v)))))

/-- R333, R335, R341, R380, R382: an announcement of more packets makes an IDLE queue READY and has it ranked, adds to one that is READY or MAPPED,
and faults the queue with reason 2 where the count goes back or beyond the ring; it is counted as an error and dropped while the windows are closed. A
ranked READY queue goes on the board behind every entry of lower or equal rank, unless its insertion was given up. MQCTL and MQDATA act on a queue in the states they name and are
refused in any other. A WAIT packet whose word satisfies its condition is consumed; one that has timed out faults the queue with reason 5; else the
word is read again 64 cycles later; a poisoned one is a MACHINE_CHECK of the strand (R391).
Where the spec leaves a point open or to inference, it states the model's reading: log entries 11, 43. -/
def Sys2Proof.Says.QueueEvents : Prop :=
  (∀ (s : State) (q : Nat) (w : Word), Memory.wf s.mem = true →
    let x := s.queue q
    let out := exec (.arrivalWrite q w) s
    let bad := w.toNat < x.wridx.toNat ∨ 2 ^ x.logn.toNat < w.toNat - x.rdidx.toNat
    ((s.arrivalsOpen = false ∨ 131072 ≤ q) → out = .next { s with mgmt := { s.mgmt with portErr := s.mgmt.portErr + 1 } }) ∧
    (s.arrivalsOpen = true → q < 131072 →
      (x.state = .disabled ∨ x.state = .faulted → out = .next s) ∧
      (x.state = .idle ∨ x.state = .ready ∨ x.state = .mapped →
        (bad → ∃ t, out = .next t ∧ QueueIs s t q { x with state := .faulted, freason := 2, fdetail := x.rdidx } ∧ t.me = s.me) ∧
        (¬ bad → x.state = .idle → w = x.wridx → out = .next s) ∧
        (¬ bad → x.state = .idle → w ≠ x.wridx → ∃ t, out = .next t ∧
          QueueIs s t q { x with wridx := w, acycle := BitVec.ofNat 64 s.cycle, state := .ready } ∧ (s.cycle + 16, Instr.boardInsertion q) ∈ t.agenda ∧
          t.me = s.me) ∧
        (¬ bad → x.state ≠ .idle → ∃ t, out = .next t ∧ QueueIs s t q { x with
          wridx := w, acycle := if x.wridx.toNat ≤ x.rdidx.toNat then BitVec.ofNat 64 s.cycle else x.acycle } ∧ t.me = s.me)))) ∧
  (∀ (s : State) (q : Nat), (∀ e ∈ (s.die (q / 16384)).inserts, e.1 = q → e.2.2 ≠ s.cycle) → exec (.boardInsertion q) s = .next s) ∧
  (∀ (s : State) (q r : Nat), (s.die (q / 16384)).inserts = [(q, r, s.cycle)] → (s.queue q).state = .ready → (∀ e ∈ (s.die (q / 16384)).board, e.2 ≠ q) → q ∉ (s.die (q / 16384)).outside →
    (4096 ≤ (s.die (q / 16384)).board.length → ∃ t, exec (.boardInsertion q) s = .next t ∧ q ∈ (t.die (q / 16384)).outside ∧
      (t.die (q / 16384)).board = (s.die (q / 16384)).board ∧ t.me = s.me ∧ SameMemory s t) ∧
    ((s.die (q / 16384)).board.length < 4096 → ∃ t l1 l2, exec (.boardInsertion q) s = .next t ∧ (s.die (q / 16384)).board = l1 ++ l2 ∧
      (t.die (q / 16384)).board = l1 ++ (r, q) :: l2 ∧ (∀ e ∈ l1, e.1 ≤ r) ∧ (∀ e, l2.head? = some e → r < e.1) ∧ t.me = s.me ∧ SameMemory s t)) ∧
  (∀ (s : State) (data : BitVec 512), Memory.wf s.mem = true →
    let q := s.mgmt.qsel.toNat
    let x := s.queue q
    let refused := Host.Outcome.next { s with mgmt := { s.mgmt with qstat := true } }
    let done := fun (o : Out) (y : Queue) (m : Strand) => ∃ t, o = .next t ∧ QueueIs s t q y ∧ t.mgmt = { s.mgmt with qstat := false } ∧ t.me = m
    let freed := if s.me.mapped = some q then { s.me with mapped := none, poll := none, packet := none } else s.me
    (x.state = .disabled → done (exec .queueEnable s) { x with state := .idle, rdidx := 0, wridx := 0, acycle := 0, freason := 0, fdetail := 0 } s.me) ∧
    (x.state ≠ .disabled → exec .queueEnable s = refused ∧ exec (.mqdataWrite data) s = refused) ∧
    (x.state = .idle ∨ x.state = .faulted → done (exec .queueDisable s) { x with state := .disabled } freed) ∧
    (x.state ≠ .idle → x.state ≠ .faulted → exec .queueDisable s = refused) ∧
    (x.state = .disabled → done (exec (.mqdataWrite data) s) { x with
      ring := data.extractLsb' 0 64, logn := data.extractLsb' 64 8, prio := data.extractLsb' 72 8, asid := data.extractLsb' 96 32
      root := data.extractLsb' 128 64 } s.me)) ∧
  (∀ (s : State) (p : QPoll) (m : Nat) (pl l : Leaf), Memory.wf s.mem = true → s.me.poll = some p → s.me.mapped = some m → p.next = s.cycle → p.result = none →
    let x := s.queue m
    let head := x.ring.toNat + 64 * (x.rdidx.toNat % 2 ^ x.logn.toNat)
    let at_ := pl.addr head
    let va := memRead s.mem (at_ + 8) 8
    (s.port s.me.port).find x.asid.toNat head = some pl → s.xlate s.me.port (.strand s.me.sa) x.asid.toNat va true false = .hit l → va % 8 = 0 →
    let mask := memRead s.mem (at_ + 0x18) 8
    let word := s.view s.me.sa (l.region == .priv) (l.addr va) 8 &&& mask
    let value := memRead s.mem (at_ + 0x10) 8 &&& mask
    let holds : Prop := match memRead s.mem (at_ + 0x20) 1 with | 0 => word = value | 1 => word ≠ value | 2 => value ≤ word | _ => word < value
    let limit := memRead s.mem (at_ + 0x24) 4
    let out := exec (.waitPacketPoll s.me.sa) s
    (∀ b, s.sick (l.addr va) 8 = some b → ∃ t, out = .next t ∧
      t.me = { s.me with poll := none, async := s.me.async ++ [(.machineCheck, poisonAddr b)] } ∧ t.queues = s.queues ∧ SameMemory s t) ∧
    (s.sick (l.addr va) 8 = none → (holds → ∃ t, out = .next t ∧ t.me = { s.me with poll := none } ∧ t.mgmt = (notified s (memRead s.mem (at_ + 1) 1 / 2 % 2 == 1) m).mgmt ∧
      QueueIs s t m { x with rdidx := x.rdidx + 1, acycle := if 1 < x.wridx.toNat - x.rdidx.toNat then BitVec.ofNat 64 s.cycle else x.acycle }) ∧
    (¬ holds → limit ≠ 0 → p.started + 1024 * limit ≤ s.cycle → ∃ t, out = .next t ∧ FaultedIs s t m 5 ∧
      t.me = { s.me with poll := some { p with result := some (packedWord 0 2 0) } }) ∧
    (¬ holds → (limit = 0 ∨ s.cycle < p.started + 1024 * limit) → ∃ t, out = .next t ∧ t.me = { s.me with poll := some { p with next := s.cycle + 64 } } ∧
      (s.cycle + 64, Instr.waitPacketPoll s.me.sa) ∈ t.agenda ∧ t.queues = s.queues ∧ SameMemory s t)))

/-! ### Launch (chapter 15) -/

/-- R343, R345: LAUNCH and LAUNCH.try answer 0xFF without a mapped queue and 4 while their die admits nothing; a descriptor that cannot be read or is
not valid faults the queue with reason 6 and answers 3 or 2; a valid one joins the placement unit's requests. A poisoned descriptor is a MACHINE_CHECK
of the strand (R391).
Where the spec leaves a point open or to inference, it states the model's reading: log entries 43, 44, 68. -/
def Sys2Proof.Says.LaunchForms : Prop :=
  ∀ (s : State) (d a : SReg) (c once : Bool), Manager s → Memory.wf s.mem = true →
    let out := if once then exec (.launchTry d a c) s else exec (.launch d a c) s
    let va := (s.me.getS a).toNat
    let die := saDie s.me.sa
    let admits := s.mgmt.admits.getLsbD die = true ∧ (s.die die).hold = false
    (s.me.mapped = none → WroteS s d (packedWord 0 0xFF 0) 4 c out) ∧
    (∀ m, s.me.mapped = some m →
      let x := s.queue m
      let look := fun (va : Nat) => s.xlate s.me.port (.strand s.me.sa) x.asid.toNat va true false
      let parks := fun (va : Nat) (t : State) => t.me = { s.me with xwait := some (x.asid.toNat, va / 65536) } ∧ SameMemory s t ∧ t.others = s.others
      let refuses := fun (status : Nat) => ∃ t, out = .next t ∧ Answered s d (packedWord 0 status 0) c t ∧ FaultedIs s t m 6
      (¬ admits → WroteS s d (packedWord 0 4 0) 4 c out) ∧
      (admits →
        (look va = .miss → ∃ t, out = .next t ∧ parks va t) ∧
        (∀ cause, look va = .fail cause → refuses 3) ∧
        (∀ l, look va = .hit l → look (va + 511) = .miss → ∃ t, out = .next t ∧ parks (va + 511) t) ∧
        (∀ l cause, look va = .hit l → look (va + 511) = .fail cause → refuses 3) ∧
        (∀ l h, look va = .hit l → look (va + 511) = .hit h →
          let bs := (List.range 512).map (fun i => memGet s.mem ((if (va + i) / 65536 = va / 65536 then l else h).addr (va + i)))
          let sick := s.poison.find? (fun p => ((List.range 512).map (fun i => (if (va + i) / 65536 = va / 65536 then l else h).addr (va + i))).contains p)
          (∀ p, sick = some p → out = .next (s.machineCheck s.me.sa (poisonAddr p))) ∧
          (sick = none → va % 64 ≠ 0 ∨ s.descOk bs = false → refuses 2) ∧
          (sick = none → va % 64 = 0 → s.descOk bs = true → ∃ t r, out = .next t ∧ Joined s (.launch d none) [.s d] .away c t ∧ t.placeQ = s.placeQ ++ [r] ∧
            r.sa = s.me.sa ∧ r.q = s.me.nextQ ∧ r.desc = bs ∧ r.queue = m ∧ r.once = once ∧
            (r.notify = true ↔ ∃ k, s.me.packet = some k ∧ k.kind = 1 ∧ k.queue = m ∧ k.notify = true) ∧
            (r.carried = true ↔ ∃ k, s.me.packet = some k ∧ k.kind = 1 ∧ k.queue = m) ∧ r.due = none ∧ s.cycle + 420 ≤ r.arrives ∧
            r.arrives ≤ s.cycle + 480 ∧ (r.arrives, Instr.placementRetry) ∈ t.agenda))))

/-- R345: a search that ends after its die has been closed answers 4; one that ends without a place answers LAUNCH.try with 1 and lets LAUNCH
wait for a slot; one that finds a place takes its slots in
vcid order and the next troupe number, and the troupe is released 180 + 2·clusters cycles later, and later for large tables.
Where the spec leaves a point open or to inference, it states the model's reading: log entries 38, 43, 44. -/
def Sys2Proof.Says.Placement : Prop :=
  ∀ (s : State) (r : PlaceReq) (o : Op) (d : SReg) (n : Nat), Calm s → Listed s → s.placeQ = [r] → r.due = some n → n ≤ s.cycle →
    r.sa = s.me.sa → s.me.ops = [o] → o.q = r.q → o.what = .launch d none →
    let out := exec .placementRetry s
    let number := s.nextTroupe % 2 ^ 32
    let admits := s.mgmt.admits.getLsbD (saDie s.me.sa) = true ∧ (s.die (saDie s.me.sa)).hold = false
    let answers := fun (status : Nat) => ∃ t, out = .next t ∧ t.placeQ = [] ∧ t.me.ops = [] ∧ t.me.pc = s.me.pc ∧
      (∀ x, t.me.getS x = if x = d ∧ d ≠ 0 then packedWord 0 status 0 else s.me.getS x) ∧ SameMemory s t
    (¬ admits → answers 4) ∧
    (admits → s.findPlace r.desc = none → r.once = true → answers 1) ∧
    (admits → s.findPlace r.desc = none → r.once = false → ∃ t, out = .next t ∧ t.placeQ = [{ r with due := none, waiting := true }] ∧ t.me = s.me ∧ SameMemory s t) ∧
    (∀ p, admits → s.findPlace r.desc = some p → p.2.2.Nodup → s.me.sa ∉ p.2.2 → (∀ sa ∈ p.2.2, (s.slotAt sa).isSome = true) → number ≠ 0 → s.troupe? number = none → ∃ t tr,
      out = .next t ∧ t.placeQ = [] ∧ t.me.ops = [{ o with what := .launch d (some number) }] ∧ SameMemory s t ∧ t.nextTroupe = number + 1 ∧
      t.troupe? number = some tr ∧ tr.desc = r.desc ∧ tr.row0 = p.1 ∧ tr.col0 = p.2.1 ∧ tr.launcher = r.sa ∧ tr.queue = r.queue ∧ tr.notify = r.notify ∧ tr.carried = r.carried ∧ tr.tasks = [] ∧
      s.cycle + 180 + 2 * (bytesNat r.desc 0x00A 1 * bytesNat r.desc 0x00B 1) ≤ tr.released ∧ (tr.released, Instr.troupeRelease number) ∈ t.agenda ∧
      ∀ v sa, p.2.2[v]? = some sa → Tab.get? tr.place v = some sa ∧ ∃ m, t.strand? sa = some m ∧ m.run = .active ∧ m.vcid = v ∧ m.troupe = number ∧
        m.asid = bytesNat r.desc 0x014 4 ∧ m.root = bytesNat r.desc 0x018 8 ∧ m.readyAt = tr.released ∧ m.regs = Vector.replicate 32 0 ∧
        m.vregs = Vector.replicate 16 0 ∧ m.h = false ∧ m.tvec = BitVec.ofNat 64 (bytesNat r.desc 0x050 8) &&& ~~~3 ∧ m.codeSeg = segOf r.desc 0x020 ∧ m.trapSeg = segOf r.desc 0x030 ∧
        (∀ i : Fin 8, m.segs[i] = segOf r.desc (0x060 + 16 * i.val)) ∧
        m.pc = BitVec.ofNat 64 (bytesNat r.desc (if m.kind = .heavy then 0x048 else 0x040) 8) ∧
        m.flags.srseed = BitVec.ofNat 32 (if bytesNat r.desc 0x058 4 = 0 then v + 1 else bytesNat r.desc 0x058 4))

/-- R195, R343, R345: at its release a troupe's spill areas are empty and LAUNCH answers its number; initial tasks are queued at their units, and the
frontier is first sampled at the next multiple of 128 cycles.
Where the spec leaves a point open or to inference, it states the model's reading: log entry 44. -/
def Sys2Proof.Says.Release : Prop :=
  ∀ (s : State) (tr : Nat) (t : Troupe) (o : Op) (d : SReg), Calm s → Listed s → s.troupe? tr = some t → t.launcher = s.me.sa → s.me.kind = .sm →
    s.me.ops = [o] → o.what = .launch d (some tr) →
    let n := bytesNat t.desc 0x114 4
    (n = 0 → Memory.wf s.mem = true → ∃ u, exec (.troupeRelease tr) s = .next u ∧ u.me.ops = [] ∧ u.me.pc = s.me.pc ∧
      (∀ x, u.me.getS x = if x = d ∧ d ≠ 0 then packedWord 0 0 tr else s.me.getS x) ∧
      (∀ p ∈ t.place, ∀ x, t.spill p.1 ≤ x → x < t.spill p.1 + 32 → memGet u.mem x = 0) ∧
      ∀ x, (∀ p ∈ t.place, x < t.spill p.1 ∨ t.spill p.1 + 32 ≤ x) → memGet u.mem x = memGet s.mem x) ∧
    (n ≠ 0 → ∃ u, exec (.troupeRelease tr) s = .next u ∧ u.me.pc = s.me.pc ∧ ((s.cycle / 128 + 1) * 128, Instr.frontierSample tr) ∈ u.agenda ∧
      ∀ i < n, (s.cycle, Instr.taskDispatch tr (i % (bytesNat t.desc 0x00A 1 * bytesNat t.desc 0x00B 1))) ∈ u.agenda)

/-! ### Debug (chapter 21) -/

/-- Only the strand at an SADDR has changed, to `m`. -/
def Sys2Proof.StrandIs (s t : State) (sa : Nat) (m : Strand) : Prop :=
  t.strand? sa = some m ∧ (∀ x, x ≠ sa → t.strand? x = s.strand? x) ∧ SameMemory s t

/-- The SADDR of a slot of a package cluster (R10, R211). -/
def Sys2Proof.slotOf (cl core slot : Nat) : Nat :=
  (4 * (cl / 16 / 3) + cl % 16 / 4) * 32768 + (4 * (cl / 16 % 3) + cl % 16 % 4) * 2048 + core * 32 + slot

/-- R72, R370 to R374, R394: STOP asks for a stop of a strand that runs, and a claimed BRK that is stopping stays one; a completed stop puts its oldest
record in the next of 64 places of its cluster's debug page; STEP and STEPTRAP let a stopped strand execute one instruction, STEPTRAP outside a handler with
SINGLE_STEP at its end; RESUME lets a strand go on whose stop is complete or asked for, a frozen one only with FREEZE, and ends a blackout of the cluster;
CLAIM and UNCLAIM set the slot's claim; CLRHIST restarts a core's histogram; BLACKOUT asks every strand of the cluster that runs and was not asked
before, and a second one changes nothing. Nothing resumes or steps on a die that was too hot.
Where the spec leaves a point open or to inference, it states the model's reading: log entries 22, 59. -/
def Sys2Proof.Says.DebugCommands : Prop :=
  ∀ (s : State) (cl core slot : Nat) (m : Strand), Listed s → s.strand? (slotOf cl core slot) = some m →
    let sa := slotOf cl core slot
    let sets := fun (o : Out) (x : Strand) => ∃ t, o = Host.Outcome.next t ∧ StrandIs s t sa x
    let cool := (s.die (4 * (cl / 16 / 3) + cl % 16 / 4)).tripped = false
    let steps := fun (trap : Bool) => if m.dbg.stopped = true then { m with dbg := { m.dbg with stopped := false, stepping := some (trap, m.nextQ) } } else m
    sets (exec (.stop cl core slot) s) (if m.run = .vacant ∨ m.dbg.stopped = true then m else { m with dbg := { m.dbg with stopReq := some (if m.dbg.stopReq = some 4 then 4 else 1) } }) ∧
    (∀ bs rest, m.dbg.pending = bs :: rest → ∃ t, exec (.stopComplete sa) s = .next t ∧
      StrandIs s t sa { m with dbg := { m.dbg with pending := rest } } ∧
      (m.kind ≠ .sm → let k := s.cluster (saPkg sa)
        Tab.get? (t.cluster (saPkg sa)).drec (k.drecTail.toNat % 64) = some bs ∧ (t.cluster (saPkg sa)).drecTail = k.drecTail + 1)) ∧
    (cool → (∃ t, exec (.resume cl core slot false) s = .next t ∧ (t.cluster cl).blackout = none ∧ StrandIs s t sa (if (m.dbg.stopped = true ∨ m.dbg.stopReq ≠ none) ∧ m.dbg.frozen = false then
      { m with dbg := { m.dbg with stopReq := none, stopped := false, stepping := none, frozen := false } } else m))) ∧
    (saPkg sa = cl → cool → sets (exec (.step cl core slot false) s) (steps false) ∧ sets (exec (.steptrap cl core ⟨slot, false⟩) s) (steps (!m.h))) ∧
    (¬ cool → exec (.resume cl core slot false) s = .next s ∧
      (saPkg sa = cl → exec (.step cl core slot false) s = .next s ∧ exec (.steptrap cl core ⟨slot, false⟩) s = .next s)) ∧
    sets (exec (.claim cl core slot) s) { m with dbg := { m.dbg with claimed := true } } ∧
    sets (exec (.unclaim cl core slot) s) { m with dbg := { m.dbg with claimed := false } } ∧
    (∃ t, exec (.clrhist cl core) s = .next t ∧ t.me = s.me ∧ t.others = s.others ∧ SameMemory s t ∧
      ∀ k, Tab.get? (t.cluster cl).hist k = if k = 17 * core then some s.cycle else if k / 17 = core then none else Tab.get? (s.cluster cl).hist k) ∧
    (∃ t, exec (.blackout cl) s = .next t ∧ (t.cluster cl).blackout = some ((s.cluster cl).blackout.getD s.cycle) ∧ SameMemory s t ∧ ∀ x y, s.strand? x = some y →
      t.strand? x = some (if y.kind ≠ .sm ∧ saPkg y.sa = cl ∧ y.run ≠ .vacant ∧ y.dbg.stopped = false then
        { y with dbg := { y.dbg with stopReq := some (y.dbg.stopReq.getD 3) } } else y)) ∧
    (∀ tr, s.troupe? m.troupe = some tr →
      (∀ e ∈ [(Instr.step cl core slot true, Instr.step cl core slot false), (.steptrap cl core ⟨slot, true⟩, .steptrap cl core ⟨slot, false⟩)],
        ∃ t n, exec e.1 s = .next t ∧ 64 ≤ n ∧ (s.cycle + n, e.2) ∈ t.agenda ∧ SameMemory s t ∧
        ∀ v ∈ tr.partners m.vcid, ∀ p, s.residentOf m.troupe v = some p →
          (s.cycle + n, Instr.stop (saPkg p.sa) (saCore p.sa) (saSlot p.sa)) ∈ t.agenda ∧
          (p.dbg.stopped = false → t.strand? p.sa = some { p with dbg := { p.dbg with frozen := true } })) ∧
      (cool → ∃ t, exec (.resume cl core slot true) s = .next t ∧ SameMemory s t ∧ (m.dbg.stopped = true ∨ m.dbg.stopReq ≠ none →
        t.strand? sa = some { m with dbg := { m.dbg with stopReq := none, stopped := false, stepping := none, frozen := false } }) ∧ ∀ v ∈ tr.partners m.vcid, ∀ p, s.residentOf m.troupe v = some p →
        p.sa ≠ sa → p.dbg.frozen = true →
        t.strand? p.sa = some { p with dbg := { p.dbg with stopReq := none, stopped := false, stepping := none, frozen := false } }))

/-- No exception is held, no value saved, no task current and no dequeue unconfirmed. -/
def Sys2Proof.Still (s : State) : Prop :=
  s.me.held = [] ∧ s.me.undo = [] ∧ s.me.task = none ∧ (∀ e ∈ s.me.inbox, e.taken = none) ∧ ∀ i : Fin 8, ∀ e ∈ s.me.inPorts[i], e.taken = none

/-- R375 to R379: WPSET checks its specification and its bytes and is issued; WPSET.phys needs system code and no translation; WPCLR is issued; the
result is a handle of the die's first free entry, which then is armed, or 0 where no comparator or entry is free, and 0 or 1 for a WPCLR; a report
that is due goes to the die's log and to its owner; TRACEMARK passes, and writes its record where the die's ring is enabled (the places of the record's fields
are the model's, log entry 45).
Where the spec leaves a point open or to inference, it states the model's reading: log entry 21. -/
def Sys2Proof.Says.Watchpoints : Prop :=
  (∀ (s : State) (d a b : SReg) (n : SegIx) (c : Bool), InOrder s →
    let v := s.me.getS b
    let k := v.toNat % 8
    let g := s.me.segs[n.toNat]
    let off := s.me.getS a
    let pa := off.toNat % 2 ^ 48
    let good := k ≤ 4 ∧ (v.getLsbD 3 = true ∨ v.getLsbD 4 = true)
    let what := OpWhat.wpset d k (v.getLsbD 3) (v.getLsbD 4)
    let phys := exec (.wpsetPhys d a b c) s
    (¬ good → Raised s .illegal (wordOf (.wpset d a b n c)) (exec (.wpset d a b n c) s)) ∧
    (good → match segCheck s.me g true false off (8 * 2 ^ k) (8 * 2 ^ k) with
      | .bad cause addr => Raised s cause addr (exec (.wpset d a b n c) s)
      | .ok va =>
        ((g.desc.extractLsb' 44 4).toNat ≠ 1 → Raised s .segRights off (exec (.wpset d a b n c) s)) ∧
        ((g.desc.extractLsb' 44 4).toNat = 1 → Issued s what [.s d] [{ lane := 0, va := va, size := 8 * 2 ^ k, loc := none, region := .priv, data := 0 }] 0 1 c false
          (exec (.wpset d a b n c) s))) ∧
    (s.me.system = true →
      (¬ good → Raised s .illegal (wordOf (.wpsetPhys d a b c)) phys) ∧
      (good → pa % (8 * 2 ^ k) ≠ 0 → Raised s .misaligned (BitVec.ofNat 64 pa) phys) ∧
      (good → pa % (8 * 2 ^ k) = 0 → ∃ t op, phys = .next t ∧ t.me = { (movedOn s 4 c).me with ops := s.me.ops ++ [op] } ∧ op.q = s.me.nextQ ∧ op.what = what ∧
        op.dsts = [.s d] ∧ op.accs.map (fun x => (x.loc, x.size)) = [(some pa, 8 * 2 ^ k)] ∧ SameMemory s t ∧
        (s.cycle + 96, Instr.watchArmResult s.me.sa s.me.nextQ) ∈ t.agenda)) ∧
    (∃ t, exec (.wpclr d a c) s = .next t ∧ Joined s (.result d (s.me.getS a)) [.s d] .away c t ∧
      (s.cycle + 96, Instr.watchArmResult s.me.sa s.me.nextQ) ∈ t.agenda)) ∧
  (∀ (s : State) (o : Op) (d : SReg), Still s → s.me.ops = [o] →
    let die := saDie s.me.sa
    let out := exec (.watchArmResult s.me.sa o.q) s
    let gives := fun (v : Nat) (t : State) => (∀ r, t.me.getS r = if r = d ∧ d ≠ 0 then BitVec.ofNat 64 v else s.me.getS r) ∧ t.me.ops = [] ∧ SameMemory s t
    (∀ k rd wr x loc, o.what = .wpset d k rd wr → o.accs = [x] → x.loc = some loc →
      let w := watchFor s.me x rd wr
      let room := s.watchLoad (fun y => y.l2 == w.l2) < 16 ∧ s.watchLoad (fun y => y.llc == w.llc) < 16 ∧ loc + x.size ≤ 0xC000000000
      (∀ e, room → (s.die die).freeWatch = some e → ∃ t, out = .next t ∧ gives (2 ^ 63 + die * 256 + e) t ∧ Tab.get? (t.die die).watches e = some w ∧
        w.pa = loc ∧ w.va = x.va ∧ w.size = x.size ∧ w.rd = rd ∧ w.wr = wr ∧ w.owner = s.me.cid) ∧
      (¬ room ∨ (s.die die).freeWatch = none → ∃ t, out = .next t ∧ gives 0 t ∧ t.dies = s.dies)) ∧
    (∀ v, o.what = .result d v →
      let e := v.toNat % 256
      let die := v.toNat / 256 % 8
      let mine := v.toNat = 2 ^ 63 + die * 256 + e ∧ ∃ w, Tab.get? (s.die die).watches e = some w ∧ w.owner = s.me.cid
      (mine → ∃ t, out = .next t ∧ gives 0 t ∧ Tab.get? (t.die die).watches e = none) ∧
      (¬ mine → ∃ t, out = .next t ∧ gives 1 t ∧ t.dies = s.dies))) ∧
  (∀ (s : State) (die : Nat) (h : WatchHit), (s.die die).hits = [h] → h.at_ ≤ s.cycle → s.me.cid = h.owner → s.me.run ≠ .vacant →
    ∃ t, exec (.watchpointReport die) s = .next t ∧ (t.die die).hits = [] ∧ (t.die die).watchCount = (s.die die).watchCount + 1 ∧
      Tab.get? (t.die die).watchLog ((s.die die).watchCount % 256) = some h.record ∧ SameMemory s t ∧ t.others = s.others ∧
      t.me = { s.me with async := s.me.async ++ (if s.me.dbg.stopped = true ∨ (∃ x ∈ s.me.async, x.1 = .watchpoint) then [] else [(.watchpoint, h.addr)]) }) ∧
  (∀ (s : State) (a t : SReg) (c : Bool),
    let die := saDie s.me.sa
    let g := Tab.getD s.mgmt.trace die (0, 0)
    let at_ := g.1.toNat % 2 ^ 48 / 64 * 64 + 32 * ((s.die die).traceCount % g.2.toNat)
    ((g.1.getLsbD 63 = false ∨ g.2 = 0) → Passed s 4 c (exec (.tracemark a t c) s)) ∧
    (g.1.getLsbD 63 = true → g.2 ≠ 0 → Memory.wf s.mem = true → ∃ u, exec (.tracemark a t c) s = .next u ∧ u.me = (movedOn s 4 c).me ∧ u.others = s.others ∧
      (u.die die).traceCount = (s.die die).traceCount + 1 ∧ memRead u.mem at_ 8 = s.cycle % 2 ^ 64 ∧ memRead u.mem (at_ + 8) 8 = s.me.pc.toNat ∧
      memRead u.mem (at_ + 24) 8 = (s.me.getS a).toNat ∧ ∀ x, x < at_ ∨ at_ + 32 ≤ x → memGet u.mem x = memGet s.mem x))

/-! ### The host and the device (chapter 22) -/

/-- R380, R382: a write or read outside every region, or before the stage that makes its region available, is counted and has no other effect; an
access to HBM reads or writes one aligned word; a write to a register of the management window sets it as the map says, and what a command register
or an arrival window brings about comes about with the write; DCMD gives a debug command 4 cycles later, BLACKOUT whatever core it names.
Where the spec leaves a point open or to inference, it states the model's reading: log entry 49. -/
def Sys2Proof.Says.HostPort : Prop :=
  ∀ (s : State) (off : Nat) (d : Word),
    let o := off / 8 * 8
    let out := exec (.hostPortAccess true off d) s
    let stage := s.mgmt.stage.toNat
    let up := stage = 3 ∨ stage = 4
    let ignored := fun x => x = Host.Outcome.next { s with mgmt := { s.mgmt with portErr := s.mgmt.portErr + 1 } }
    let closed := (o < 0x100000 ∧ (stage = 0 ∨ (stage = 0xFF ∧ recoveryOffset o = false))) ∨ (0x100000 ≤ o ∧ o < 0x4100000 ∧ stage ≠ 0xFF) ∨
      (0x4100000 ≤ o ∧ o < 0x10000000) ∨ (0x10000000 ≤ o ∧ o < 0x10100000 ∧ s.arrivalsOpen = false) ∨ (0x10100000 ≤ o ∧ o < 0x20000000) ∨
      (0x20000000 ≤ o ∧ o < 0x20600000 ∧ ¬ up) ∨ (0x20600000 ≤ o ∧ o < 0x1000000000) ∨
      (0x1000000000 ≤ o ∧ o < 0xD000000000 ∧ stage ≠ 2 ∧ ¬ up) ∨ 0xD000000000 ≤ o
    let sets := fun (g : Mgmt) => out = .next { s with mgmt := g }
    let g := s.mgmt
    exec (.registerWrite off d) s = out ∧
    (closed → ignored out ∧ ignored (exec (.hostPortAccess false off d) s)) ∧
    (0x1000000000 ≤ o → o < 0xD000000000 → stage = 2 ∨ up → Memory.wf s.mem = true →
      (∃ t, out = .next t ∧ Stored s t (o - 0x1000000000) 8 d.toNat ∧ t.me = s.me) ∧
      ∃ t, exec (.hostPortAccess false off d) s = .next t ∧ t.me = s.me ∧ SameMemory s t) ∧
    (o < 0x100000 → stage ≠ 0 → stage ≠ 0xFF →
      exec (.hostPortAccess false off d) s = .next s ∧
      (o = 0x10 → sets { g with admits := d.setWidth 8 }) ∧ (o = 0x20 → sets { g with intrBase := d.setWidth 48 &&& ~~~63 }) ∧
      (o = 0x28 → sets { g with intrLen := d.setWidth 16 }) ∧ (o = 0x38 → sets { g with portErr := d }) ∧
      (o = 0x30 → sets { g with intrPtr := (g.intrPtr &&& 0xFFFFFFFF00000000) ||| (d &&& 0xFFFFFFFF) }) ∧
      (o = 0x60 → sets { g with updImg := d.setWidth 48 }) ∧ (o = 0x68 → sets { g with updLen := d.setWidth 32 }) ∧
      (o = 0x80 → sets { g with qsel := d.setWidth 17 }) ∧ (o = 0xA0 → sets { g with intrLost := d }) ∧
      (o = 0xA8 → sets { g with sysObj := d.setWidth 48 }) ∧ (o = 0xB0 → sets { g with sysLen := d.setWidth 32 }) ∧
      (o = 0 ∨ o = 8 ∨ (0x40 ≤ o ∧ o < 0x60) ∨ o = 0x70 ∨ o = 0x78 ∨ o = 0x90 ∨ o = 0x98 → out = .next s) ∧
      (o = 0x18 → out = (match d.toNat % 256 with | 1 => exec .coldReset s | 2 => exec .firmwareUpdate s | 3 => exec .installUpload s | _ => .next s)) ∧
      (o = 0x88 → out = (match d.toNat % 4 with | 1 => exec .queueEnable s | 2 => exec .queueDisable s | _ => .next s)) ∧
      (o = 0xB8 → out = if d.toNat % 4 = 1 ∧ g.sysCtl.toNat % 4 ≠ 1 then exec .systemObjectPlace s else .next s)) ∧
    (0x10000000 ≤ o → o < 0x10100000 → s.arrivalsOpen = true → out = exec (.arrivalWrite ((o - 0x10000000) / 8) d) s) ∧
    (0x20000000 ≤ o → o < 0x20600000 → up → o % 65536 = 0 → d.toNat % 16 = 5 → ∃ t, out = .next t ∧ t.me = s.me ∧ SameMemory s t ∧
      (s.cycle + 4, Instr.blackout ((o - 0x20000000) / 65536)) ∈ t.agenda) ∧
    (0x20000000 ≤ o → o < 0x20600000 → up → o % 65536 = 0 → d.toNat / 16 % 64 ≤ 48 → ∃ t, out = .next t ∧ t.me = s.me ∧ SameMemory s t ∧
      let cl := (o - 0x20000000) / 65536
      let core := d.toNat / 16 % 64
      let slot := d.toNat / 1024 % 32
      (d.toNat % 16 = 1 → (s.cycle + 4, Instr.stop cl core slot) ∈ t.agenda) ∧ (d.toNat % 16 = 2 → (s.cycle + 4, Instr.resume cl core slot (d.getLsbD 15)) ∈ t.agenda) ∧
      (d.toNat % 16 = 3 → (s.cycle + 4, Instr.step cl core slot (d.getLsbD 15)) ∈ t.agenda) ∧ 
      (d.toNat % 16 = 4 → (s.cycle + 4, Instr.steptrap cl core ⟨slot, d.getLsbD 15⟩) ∈ t.agenda) ∧ (d.toNat % 16 = 6 → (s.cycle + 4, Instr.claim cl core slot) ∈ t.agenda) ∧
      (d.toNat % 16 = 7 → (s.cycle + 4, Instr.unclaim cl core slot) ∈ t.agenda) ∧ (d.toNat % 16 = 8 → (s.cycle + 4, Instr.clrhist cl core) ∈ t.agenda))

/-- R380, R382 to R384, R388: the tables of the management window, word by word: the error counters, the trace rings, the window table, the descriptor of a
DISABLED queue, the attestation page, whose request is a 1 at 0x20, and in recovery the upload window, the error counters and MRESET; offsets beyond the map
and read-only tables ignore writes.
Where the spec leaves a point open or to inference, it states the model's reading: log entries 5, 43, 49. -/
def Sys2Proof.Says.HostTables : Prop :=
  ∀ (s : State) (off : Nat) (d : Word),
    let o := off / 8 * 8
    let out := exec (.hostPortAccess true off d) s
    let stage := s.mgmt.stage.toNat
    let g := s.mgmt
    let byte := fun (j : Nat) => d.extractLsb' (8 * j) 8
    let opened := stage ≠ 0 ∧ stage ≠ 0xFF
    (0x100 ≤ o → o < 0x180 → stage ≠ 0 → ∃ t, out = .next t ∧ t = { s with mgmt := { g with merr := t.mgmt.merr } } ∧
      ∀ i, Tab.getD t.mgmt.merr i 0 = if i = (o - 0x100) / 8 then d else Tab.getD g.merr i 0) ∧
    (0x200 ≤ o → o < 0x280 → opened → ∃ t, out = .next t ∧ t = { s with mgmt := { g with trace := t.mgmt.trace } } ∧
      ∀ i, Tab.getD t.mgmt.trace i (0, 0) = if i ≠ (o - 0x200) / 16 then Tab.getD g.trace i (0, 0)
        else if o % 16 = 0 then (d &&& 0x8000FFFFFFFFFFC0, (Tab.getD g.trace i (0, 0)).2) else ((Tab.getD g.trace i (0, 0)).1, d)) ∧
    (0x400 ≤ o → o < 0xC00 → opened → ∃ t, out = .next t ∧ t = { s with mgmt := { g with win := t.mgmt.win } } ∧
      ∀ i, ∀ j < 32, (Tab.getD t.mgmt.win i []).getD j 0 =
        if i = (o - 0x400) / 32 ∧ j / 8 = o % 32 / 8 then byte (j % 8) else (Tab.getD g.win i []).getD j 0) ∧
    (0xC0 ≤ o → o < 0x100 → opened → Memory.wf s.mem = true →
      let q := g.qsel.toNat
      let x := s.queue q
      (x.state ≠ .disabled → out = .next { s with mgmt := { g with qstat := true } }) ∧
      (x.state = .disabled → ∃ t, out = .next t ∧ t.me = s.me ∧ t.mgmt = { g with qstat := false } ∧
        QueueIs s t q (if o = 0xC0 then { x with ring := d } else if o = 0xC8 then { x with logn := d.extractLsb' 0 8, prio := d.extractLsb' 8 8, asid := d.extractLsb' 32 32 }
          else if o = 0xD0 then { x with root := d } else x))) ∧
    (0x30000 ≤ o → o < 0x31000 → opened →
      let put := fun (a : Tab Byte) => ∀ i, Tab.getD a i 0 = if o - 0x30000 ≤ i ∧ i < o - 0x30000 + 8 then byte (i - (o - 0x30000)) else Tab.getD g.attest i 0
      (o ≠ 0x30020 ∨ d ≠ 1 → ∃ t, out = .next t ∧ t = { s with mgmt := { g with attest := t.mgmt.attest } } ∧ put t.mgmt.attest) ∧
      (o = 0x30020 → d = 1 → ∃ a, put a ∧ out = exec .attestationRequest { s with mgmt := { g with attest := a } })) ∧
    ((0x180 ≤ o ∧ o < 0x200) ∨ (0x280 ≤ o ∧ o < 0x400) ∨ (0xC00 ≤ o ∧ o < 0x30000) ∨ (0x31000 ≤ o ∧ o < 0x100000) → opened → out = .next s) ∧
    (stage = 0xFF → 0x100000 ≤ o → o < 0x4100000 → ∃ t, out = .next t ∧ t = { s with mgmt := { g with upload := t.mgmt.upload } } ∧
      ∀ i, Tab.getD t.mgmt.upload i 0 = if o - 0x100000 ≤ i ∧ i < o - 0x100000 + 8 then byte (i - (o - 0x100000)) else Tab.getD g.upload i 0) ∧
    (stage = 0xFF → (o = 0x18 → out = (match d.toNat % 256 with | 1 => exec .coldReset s | 2 => exec .firmwareUpdate s | 3 => exec .installUpload s | _ => .next s)) ∧
      (o < 0x10 ∨ (0x40 ≤ o ∧ o < 0x60) ∨ (0x1000 ≤ o ∧ o < 0x3000) → out = .next s))

/-- An image verifies: its signature and its security version (R387). -/
def Sys2Proof.imageOk (i : Image) : Bool := Config.imageSigned i && decide (Config.minVersion ≤ Config.imageVersion i)

/-- The image that the host has uploaded in recovery, with its length in the last word of the buffer (R382, R387). -/
def Sys2Proof.uploaded (s : State) : Image :=
  let byte := fun i => Tab.getD s.mgmt.upload i 0
  .written ((List.range (bytesNat ((List.range 8).map (fun i => byte (0x3FFFFF8 + i))) 0 8)).map byte)

/-- A host write or a restart may change the queue tables alone: every other byte of memory reads as before. -/
def Sys2Proof.OnlyTables (s t : State) : Prop :=
  ∀ y, (∀ d base, (t.die d).qtab = some base → y < base ∨ base + 0x100000 ≤ y) → memGet t.mem y = memGet s.mem y

/-- R230, R347, R386 to R390, R392: at power-good a slot that verifies starts Stage A, the newly written one first, with its stage-manager code in every
die's instruction memory, and none leads to recovery; Stage B places the queue tables, applies the repair map, has the lean cores of a failed heavy core served by
another and starts every stage-manager strand in system code; Stage C admits launches and, without an update, finds every queue DISABLED; a cold reset is module reset with flash kept, and power-good follows; an update is refused, or
accepted and ends UTIME later, from when the record is written once everything has ended; an upload is installed only in recovery. What verifies,
and the times, are free (log entry 48).
Where the spec leaves a point open or to inference, it states the model's reading: log entries 48, 50, 51. -/
def Sys2Proof.Says.StartAndUpdate : Prop :=
  ∀ s : State,
    let bad := s.mgmt.flashBad
    let idle := fun (t : State) => t.me = s.me ∧ SameMemory s t ∧ t.others = s.others
    let okA := !bad.1 && imageOk s.mgmt.flashA
    let okB := !bad.2 && imageOk s.mgmt.flashB
    (∃ t, exec .powerGood s = .next t ∧ idle t ∧ ((okA || okB) = false → t.mgmt.stage = 0xFF ∧ t.mgmt.slot = 0) ∧
      ((okA || okB) = true → t.mgmt.stage = 1 ∧ t.mgmt.slot = (if (okB && (s.mgmt.bFirst || !okA)) = true then 2 else 1) ∧
        (∀ d < 8, (t.die d).smImage = some t.image ∧ (t.die d).smLost = []) ∧ ∃ k, 1 ≤ k ∧ k ≤ 2100000 ∧ (s.cycle + k, Instr.stageB) ∈ t.agenda)) ∧
    (s.mgmt.stage ≠ 1 → exec .stageB s = .next s) ∧
    (s.mgmt.stage = 1 → Listed s → Memory.wf s.mem = true → ∃ t, exec .stageB s = .next t ∧ t.mgmt.stage = 2 ∧ (∃ o, t.sysObjs = s.sysObjs ++ [o]) ∧
      OnlyTables s t ∧ (Config.mapSigned s.repair = true → t.applied = s.repair) ∧
      (let failed := fun p : Nat => WearUnit.core (slotOf p 48 0) ∈ t.applied
       ∀ p < 96, (¬ failed p → t.shipTarget p = some p) ∧ (failed p → (∀ h, t.shipTarget p = some h → h < 96 ∧ ¬ failed h) ∧
         ((∃ h < 96, ¬ failed h) → t.shipTarget p ≠ none))) ∧
      (∀ d < 8, (t.die d).xcache = [] ∧ (∃ base, (t.die d).qtab = some base ∧ base % 64 = 0) ∧ (t.die d).smImage = (s.die d).smImage) ∧
      (∃ k, 1 ≤ k ∧ (s.cycle + k, Instr.stageC) ∈ t.agenda) ∧
      ∀ d < 8, ∀ i < 32, ∃ m, t.strand? (d * 32768 + 15 * 2048 + 63 * 32 + i) = some m ∧ m.run = .active ∧ m.h = false ∧ m.system = true ∧ m.ops = []) ∧
    (s.mgmt.stage ≠ 2 → exec .stageC s = .next s) ∧
    (s.mgmt.stage = 2 → ∃ t, exec .stageC s = .next t ∧ t.mgmt.stage = 3 ∧ t.mgmt.admits = 0xFF ∧ t.updating = none ∧
      (s.updating = none → t.me = s.me ∧ t.others = s.others ∧ OnlyTables s t ∧ ∀ q, (t.queue q).state = .disabled)) ∧
    (∃ t, exec .coldReset s = .next t ∧ t.cycle = 0 ∧ t.mem = [] ∧ t.me = State.reset.me ∧ t.others = [] ∧ t.troupes = [] ∧ t.queues = [] ∧
      t.mgmt.stage = 0 ∧ t.mgmt.flashBad = bad ∧ t.mgmt.flashA = s.mgmt.flashA ∧ t.mgmt.flashB = s.mgmt.flashB ∧ t.mgmt.bFirst = s.mgmt.bFirst ∧
      t.repair = s.repair ∧ t.repairOld = s.repairOld ∧ (0, Instr.powerGood) ∈ t.agenda) ∧
    (s.mgmt.stage ≠ 3 → exec .firmwareUpdate s = .next s) ∧
    (s.mgmt.stage = 3 → let img := Image.written (memBytes s.mem s.mgmt.updImg.toNat s.mgmt.updLen.toNat)
      (imageOk img = false → exec .firmwareUpdate s = .next { s with mgmt := { s.mgmt with update := 2 } }) ∧
      (imageOk img = true → ∃ t, exec .firmwareUpdate s = .next t ∧ idle t ∧ t.mgmt.update = 1 ∧ t.mgmt.stage = 4 ∧ t.mgmt.admits = 0 ∧
        t.updating = some (s.cycle + Config.utime) ∧ (s.cycle + Config.utime, Instr.updateUtimeExpiry) ∈ t.agenda ∧
        (s.mgmt.slot = 1 → t.mgmt.flashA = s.mgmt.flashA ∧ t.mgmt.flashB = img ∧ t.mgmt.bFirst = true) ∧
        (s.mgmt.slot ≠ 1 → t.mgmt.flashA = img ∧ t.mgmt.flashB = s.mgmt.flashB ∧ t.mgmt.bFirst = false))) ∧
    (s.mgmt.stage ≠ 0xFF → exec .installUpload s = .next s) ∧
    (s.mgmt.stage = 0xFF →
      (imageOk (uploaded s) = true → exec .installUpload s = exec .coldReset
        { s with mgmt := { s.mgmt with flashA := uploaded s, bFirst := false, flashBad := (false, bad.2) } }) ∧
      (imageOk (uploaded s) = false → ∃ r, r ≠ .good ∧ exec .installUpload s = .next { s with mgmt := { s.mgmt with slotA := r } })) ∧
    (∀ u, s.updating = some u → s.mgmt.stage = 4 → s.cycle = u → ∃ t, exec .updateUtimeExpiry s = .next t ∧ idle t ∧
      (s.cycle + 32, Instr.updateUtimeExpiry) ∈ t.agenda ∧
      (∀ tr x, (tr, x) ∈ s.troupes → x.ordered = true → x.ending = false → (s.cycle, Instr.fatalReport tr) ∈ t.agenda) ∧
      t.toRestore = s.residents.map (fun m => (m.troupe, m.vcid, m.sa))) ∧
    (∀ u, s.updating = some u → s.mgmt.stage = 4 → u < s.cycle → s.quiesced = true → s.residents = [] → Memory.wf s.mem = true → ∃ t,
      exec .updateUtimeExpiry s = .next t ∧ t.cycle = 0 ∧ t.updating = some u ∧ (t.mgmt.stage = 1 ∨ t.mgmt.stage = 0xFF) ∧
      memRead t.mem t.mgmt.updRec.toNat 4 = 0x44505550 ∧ memRead t.mem (t.mgmt.updRec.toNat + 0x10) 8 = u % 2 ^ 64 ∧
      ∀ q x, Tab.get? s.queues q = some x → t.queue q = { x with state := if x.state = .mapped then .ready else x.state })

/-- R307, R331, R344, R347, R382, R391 to R394: placement of a system object ends placed, with its code where the system space is mapped, or refused;
attestation answers; an error is counted, wears its unit and has its effect at its
place: poisoned words, MACHINE_CHECK, a lost saved context, translation, block or line of instruction memory, a template table to reload, a task that runs
again, a struck copy source, a faulted queue, a bad flash slot; samples of temperature and power raise and clear alarms,
disable a hot core's highest slot and enable a cool one's lowest; a die that trips stops every strand and holds.
Where the spec leaves a point open or to inference, it states the model's reading: log entries 17, 18, 22, 46, 51, 52, 53, 69. -/
def Sys2Proof.Says.DeviceEvents : Prop :=
  ∀ s : State,
    let g := s.mgmt
    let idle := fun (t : State) => t.me = s.me ∧ SameMemory s t ∧ t.others = s.others
    let counts := fun (k : Nat) (t : State) => Tab.getD t.mgmt.merr k 0 = Tab.getD g.merr k 0 + 1 ∧ ∀ j, j ≠ k → Tab.getD t.mgmt.merr j 0 = Tab.getD g.merr j 0
    let wears := fun (part : Option WearUnit) (t : State) => match part with
      | none => t.repair = s.repair ∧ t.wear = s.wear
      | some u => if Config.wearLimit < (s.wear.filter (fun e => decide (s.cycle < e.2 + 2 ^ 40) && e.1 == u)).length + 1 then u ∈ t.repair else t.repair = s.repair
    let strikes := fun (part : Option WearUnit) (t : State) => ∀ u, part = some u → if u ∈ s.struck then u ∈ t.repair else u ∈ t.struck ∧ t.repair = s.repair
    (∃ t, exec .systemObjectPlace s = .next t ∧ t.me = s.me ∧ t.others = s.others ∧
      (g.sysCtl.toNat % 4 ≠ 1 → SameMemory s t ∧ t.mgmt.sysCtl = 1 ∧ ∃ k, 1 ≤ k ∧ (s.cycle + k, Instr.systemObjectPlace) ∈ t.agenda) ∧
      (g.sysCtl.toNat % 4 = 1 → (SameMemory s t ∧ t.mgmt.sysCtl = 3 ∧ t.sysObjs = s.sysObjs) ∨ (∃ base, base % 65536 = 0 ∧ base < 2 ^ 41 ∧
        let bs := memBytes s.mem g.sysObj.toNat g.sysLen.toNat
        bytesNat bs 0 4 = 0x414F434B ∧ bytesNat bs 8 4 = 1 ∧ Config.objectSigned s.image bs = true ∧
        t.sysObjs = s.sysObjs ++ [(base, codeSize bs)] ∧ t.mgmt.sysCtl.toNat = 2 + base * 65536 ∧
        (Memory.wf s.mem = true → 0 < (objectCode bs).length → (objectCode bs).length ≤ 65536 → match s.tableLeaf 0 base 3 s.sysRoot with
          | none => SameMemory s t
          | some l => memBytes t.mem (l.addr base) (objectCode bs).length = objectCode bs ∧
            ∀ x, x < l.addr base ∨ l.addr base + (objectCode bs).length ≤ x → memGet t.mem x = memGet s.mem x)))) ∧
    (∃ t, exec .attestationRequest s = .next t ∧ idle t ∧ Tab.getD t.mgmt.attest 0x20 0 = 2 ∧ (∀ i < 7, Tab.getD t.mgmt.attest (0x21 + i) 0 = 0) ∧
      ∀ i < 32, Tab.getD t.mgmt.attest (0x40 + i) 0 = Config.imageDigest s.image i ∧ Tab.getD t.mgmt.attest (0x60 + i) 0 = Config.recordDigest i) ∧
    exec .patrolScrub s = .next s ∧
    (∀ k part, ∃ t, exec (.correctedError ⟨k, part⟩) s = .next t ∧ idle t ∧ counts k t ∧ wears part t) ∧
    (∀ k part, ∃ t, exec (.uncorrectableError ⟨k, part⟩ .cleanLine) s = .next t ∧ idle t ∧ counts k t ∧ wears part t) ∧
    (∀ k part loc o, ∃ t, exec (.uncorrectableError ⟨k, part⟩ (.data loc o)) s = .next t ∧ idle t ∧ counts (k + 8) t ∧ strikes part t ∧
      ∀ x, x ∈ t.poison ↔ x ∈ s.poison ∨ (loc / 8 * 8 ≤ x ∧ x < loc / 8 * 8 + 8)) ∧
    (∀ k part, s.me.run ≠ .vacant → s.me.task = none → ∃ t, exec (.uncorrectableError ⟨k, part⟩ (.strandState s.me.sa)) s = .next t ∧ counts (k + 8) t ∧
      strikes (some (.core (s.me.sa - saSlot s.me.sa))) t ∧
      t.me = { s.me with lost := true, async := s.me.async ++ [(.machineCheck, 0)] } ∧ t.others = s.others ∧ SameMemory s t) ∧
    (∀ k part die key, ∃ t, exec (.uncorrectableError ⟨k, part⟩ (.translation die key)) s = .next t ∧ idle t ∧ counts k t ∧
      ∀ e, Tab.get? (s.die die).xcache key = some e → Tab.get? (t.die die).xcache key = if e.state = .valid then none else some e) ∧
    (∀ k part die line, ∃ t, exec (.uncorrectableError ⟨k, part⟩ (.smCode die line)) s = .next t ∧ idle t ∧ counts (k + 8) t ∧ line ∈ (t.die die).smLost) ∧
    (∀ k part cl tr v, ∃ t, exec (.uncorrectableError ⟨k, part⟩ (.savedContext cl tr v)) s = .next t ∧ idle t ∧ counts (k + 8) t ∧
      t.lostCtx = if ((s.cluster cl).cached (tr * 2 ^ 32 + v)).isSome = true then (tr * 2 ^ 32 + v) :: s.lostCtx else s.lostCtx) ∧
    (∀ k part die, ∃ t n, exec (.uncorrectableError ⟨k, part⟩ (.template die)) s = .next t ∧ idle t ∧ counts (k + 8) t ∧ (t.die die).reloading = true ∧
      1 ≤ n ∧ (s.cycle + n, Instr.templateReload die) ∈ t.agenda) ∧
    (∀ k part die key e, (s.die die).xqueue = [] → Tab.get? (s.die die).xcache key = some e → ∃ t, exec (.uncorrectableError ⟨k, part⟩ (.codeWord die key)) s = .next t ∧
      counts (k + 8) t ∧ SameMemory s t ∧ (e.state = .valid → idle t ∧ Tab.get? (t.die die).xcache key = some e) ∧
      (e.state ≠ .valid → Tab.get? (t.die die).xcache key = none ∧
        (∀ b, s.me.block = some b → b.key = key → b.words = [] → saDie s.me.sa = die → ∃ pa, (pa ∈ e.pas ∨ pa = key / 8) ∧
          t.me = { s.me with block := none, async := s.me.async ++ [(.machineCheck, BitVec.ofNat 64 pa)] }) ∧ (s.me.block = none → t.me = s.me))) ∧
    (∀ k part tr id x j, s.troupe? tr = some x → x.tasks = [(id, j)] → x.spawns = [] → ∃ t y, exec (.uncorrectableError ⟨k, part⟩ (.task tr id)) s = .next t ∧
      counts (k + 8) t ∧ SameMemory s t ∧ t.troupe? tr = some y ∧
      (j.state = .queued ∨ j.state = .spilled → idle t ∧ y = x) ∧
      (j.state = .irrev → y = x ∧ ∀ v, j.worker = some v → s.residentOf tr v = some s.me →
        t.me = { s.me with async := s.me.async ++ [(.machineCheck, 0)] } ∧ t.others = s.others) ∧
      (j.state ∉ [.queued, .spilled, .irrev] → 3 ≤ j.retries → idle t ∧ ∃ r, y = { x with reports := x.reports ++ [r] } ∧ r.reason = 4) ∧
      (j.state ∉ [.queued, .spilled, .irrev] → j.retries < 3 → t.me = s.me ∧ ∃ z, y.tasks = [(id, z)] ∧ z.retries = j.retries + 1 ∧ z.buffer = [] ∧ z.committing = false ∧
        (z.state = .queued ∨ (z.doomed = true ∧ (s.cycle + 16, Instr.abortNotice tr id false) ∈ t.agenda)))) ∧
    (∀ k part die eng loc r, (s.engine die eng).running = some r → ∃ t, exec (.uncorrectableError ⟨k, part⟩ (.copySource die eng loc)) s = .next t ∧ idle t ∧ counts (k + 8) t ∧
      (t.engine die eng).running = some { r with bad := r.bad ++ (List.range 8).map (fun i => loc / 8 * 8 + i) }) ∧
    (∀ k part q pa, Memory.wf s.mem = true → ∃ t, exec (.uncorrectableError ⟨k, part⟩ (.queueTable q pa)) s = .next t ∧ t.me = s.me ∧ t.others = s.others ∧ counts (k + 8) t ∧
      QueueIs s t q { s.queue q with state := .faulted, freason := 4, fdetail := BitVec.ofNat 64 pa }) ∧
    (∀ k part slotB, ∃ t, exec (.uncorrectableError ⟨k, part⟩ (.flash slotB)) s = .next t ∧ idle t ∧ counts (k + 8) t ∧
      t.mgmt.flashBad = if slotB then (g.flashBad.1, true) else (true, g.flashBad.2)) ∧
    (∀ mw, ∃ t, exec (.powerSample mw) s = .next t ∧ idle t ∧ ∀ cl < 96, let x := s.cluster cl
      (Config.plimit.val < mw → (t.cluster cl).alarmAt = some (x.alarmAt.getD (s.cycle + 64))) ∧
      (mw + 300000 < Config.plimit.val → x.warm = false → 15 ≤ x.coolSamples → (t.cluster cl).alarm = false) ∧
      (mw + 300000 < Config.plimit.val → x.warm = false → x.coolSamples < 15 → (t.cluster cl).alarm = x.alarm ∧ (t.cluster cl).coolSamples = x.coolSamples + 1) ∧
      (Config.plimit.val ≤ mw + 300000 → (t.cluster cl).alarm = x.alarm ∧ (t.cluster cl).coolSamples = 0)) ∧
    (∀ cl temp, ∃ t, exec (.heavyThermalSample cl temp) s = .next t ∧ idle t ∧ (Config.matrixHot < temp → (t.cluster cl).alarmAt = some ((s.cluster cl).alarmAt.getD (s.cycle + 64))) ∧
      ((t.cluster cl).warm = true ↔ Config.cool ≤ temp)) ∧
    (∀ cl core temp, s.displaced = [] → ∃ t, exec (.thermalSample cl core temp) s = .next t ∧ Tab.get? (t.cluster cl).temps core = some temp ∧
      let at_ := slotOf cl core 0
      (¬ Config.hot < temp → ¬ temp < Config.cool → t.me = s.me ∧ t.others = s.others) ∧
      (Config.hot < temp → ∀ i m, i < s.coreWidth at_ → s.slotAt (at_ + i) = some m → m.sa = at_ + i → m.enabled = true → m.dbg.stopped = false → m.occupied = false →
        (∀ j x, i < j → j < s.coreWidth at_ → s.slotAt (at_ + j) = some x → x.enabled = false ∨ x.dbg.stopped = true) →
        t.strand? (at_ + i) = some { m with enabled := false } ∧ ∀ y, y ≠ at_ + i → t.strand? y = s.strand? y) ∧
      (¬ Config.hot < temp → temp < Config.cool → s.applied = [] → ∀ i m, i < s.coreWidth at_ → s.slotAt (at_ + i) = some m → m.sa = at_ + i → m.enabled = false →
        (∀ j x, j < i → s.slotAt (at_ + j) = some x → x.enabled = true) →
        t.strand? (at_ + i) = some { m with enabled := true } ∧ ∀ y, y ≠ at_ + i → t.strand? y = s.strand? y)) ∧
    (∀ die < 8, Listed s → ∃ t, exec (.dieThermalTrip die) s = .next t ∧ (t.die die).hold = true ∧ (t.die die).tripped = true ∧ SameMemory s t ∧
      ∀ sa m, s.strand? sa = some m → saDie m.sa = die → m.run ≠ .vacant → m.dbg.stopped = false → sa < 2 ^ 18 → saCluster sa < 12 ∨ m.kind = .sm →
        t.strand? sa = some { m with dbg := { m.dbg with stopReq := some (if m.kind = .sm then 3 else m.dbg.stopReq.getD 3) } })

/-! ### Turns, steps, reset and encoding (chapters 01 to 03) -/

/-- R29, R64, R315, R317, R320, R347: a due event is the step; else the current strand's turn is, or, after the cycle's last turn, the end of the cycle. A
strand that nothing keeps from issuing executes the instruction that the words at its PC decode to, and its turn ends: `closeIssue` notes the results still
to come, the heavy core's use and what the turn counts as, and TURN passes the turn on. The words of a translated block are those that
memory held when its translation began; a stage manager's are those of its die's instruction memory.
Where the spec leaves a point open or to inference, it states the model's reading: log entries 7, 8, 41, 69. -/
def Obligations.StepRunsDecoded : Prop :=
  (∀ (s : State) (due : Nat) (e : Instr) (rest : List (Nat × Instr)), s.agenda = (due, e) :: rest → due ≤ s.cycle → step s = exec e { s with agenda := rest }) ∧
  (∀ s : State, (∀ x, s.agenda.head? = some x → s.cycle < x.1) → s.turnsOver = true → step s = exec .turn s.foresee) ∧
  (∀ (s : State) (i : Instr) (w w1 pa : Nat) (g : Region) (b : Block), (∀ x, s.agenda.head? = some x → s.cycle < x.1) → s.turnsOver = false →
    let m := s.me
    m.dueAt s.cycle = true → s.taken = false → m.run = .active → m.ops = [] → m.held = [] → m.task = none → m.xwait = none → m.swap = none →
    m.readyAt ≤ s.cycle → m.forfeit = 0 → m.dbg.stopped = false → m.dbg.stopReq = none → (s.cluster (saPkg m.sa)).blackout = none → m.dbg.stepping = none → s.asyncNext m = none →
    ((m.cue = false ∧ m.drain = false) ∨ ∀ f ∈ m.fixed, f.due ≤ s.cycle) →
    s.fetchCheck m m.pc = .ok pa g → s.lineLost m pa = false → m.block = some b → b.words[(m.pc - b.base).toNat / 4]? = some w → decode w w1 = some i →
    let t := ({ s with me := { m with cue := false, drain := false } } : State).useCode m.pc
    let runs := fun (t : State) => (stubWord m.kind m.system w w1 = true ∨ hazard t i = none) →
      step s = match exec i t with
        | .next u => exec .turn (t.closeIssue i u)
        | .fault f => .fault f
        | .refused r => .refused r
    (wordCount w = 1 → w1 = 0 → runs t) ∧
    (wordCount w = 2 → ∀ pa1 g1, t.fetchCheck t.me (m.pc + 4) = .ok pa1 g1 → t.lineLost m pa1 = false →
      (pa1 % 65536 = 0 → b.tail = some pa1) → b.words[(m.pc + 4 - b.base).toNat / 4]? = some w1 → runs (t.useCode (m.pc + 4)))) ∧
  (∀ (s : State) (die key : Nat) (region : Region) (tail : Option (Nat × Region)), ∃ e, Tab.get? ((s.translate die key region tail).die die).xcache key = some e ∧
    ∀ j w, e.words[j]? = some w → ∃ pa, e.pas[j]? = some pa ∧ (pa = key / 8 + 4 * j ∨ ∃ r, tail = some (pa, r)) ∧
      (key / 2 % 4 < 2 → w = memRead s.mem pa 4) ∧ (∀ i, key / 2 % 4 = 2 → (s.die die).smImage = some i → w = (Config.smWord i die pa).toNat))

/-- No troupe is about to complete (R220): each is ending already, or has a vcore that has not halted, a task or a spawn under way. -/
def Sys2Proof.Unfinished (s : State) : Prop :=
  (s.troupes.map (·.1)).Nodup ∧ ∀ p ∈ s.troupes, p.2.ending = true ∨ (∃ v ∈ p.2.place, v.1 ∉ p.2.halted) ∨ p.2.tasks ≠ [] ∨ p.2.spawns ≠ []

/-- R65, R72, R226: a turn of the strand adds 1 to the counter of its class and to no other, and the turn passes to the strand whose turn comes next
in the cycle; after the last one the cycle ends: CYCLE goes up by 1 and the first strand due has its turn. R151, R180, R396: memory then changes only
by private bytes that a cache had not written back.
Where the spec leaves a point open or to inference, it states the model's reading: log entries 8, 11, 56. -/
def Sys2Proof.Says.TurnAndCycle : Prop :=
  ∀ s : State, Listed s →
    let n := s.me.census
    let add := fun (k : Cls) (x : Nat) => if s.verdict = some k then x + 1 else x
    let counted : Strand := { s.me with census := { issued := add .issued n.issued, mem := add .mem n.mem, ship := add .ship n.ship, msg := add .msg n.msg
                                                    xlate := add .xlate n.xlate, vacant := add .vacant n.vacant } }
    (s.turnsOver = false → ∃ t, exec .turn s = .next t ∧ t.cycle = s.cycle ∧ SameMemory s t ∧ t.verdict = none ∧ t.agenda = s.agenda ∧
      t.strand? s.me.sa = some counted ∧ (∀ sa, sa ≠ s.me.sa → t.strand? sa = s.strand? sa) ∧
      (t.turnsOver = true → t.me = counted ∧ ∀ p ∈ s.others, p.2.dueAt s.cycle = true → s.turnKey p.2 ≤ s.turnKey s.me) ∧
      (t.turnsOver = false → t.me.dueAt s.cycle = true ∧ s.turnKey s.me < s.turnKey t.me ∧
        ∀ p ∈ s.others, p.2.dueAt s.cycle = true → s.turnKey s.me < s.turnKey p.2 → s.turnKey t.me ≤ s.turnKey p.2)) ∧
    (s.turnsOver = true → Unfinished s → ∃ t, exec .turn s = .next t ∧ t.cycle = s.cycle + 1 ∧ t.turnsOver = false ∧ (∀ sa, t.strand? sa = s.strand? sa) ∧
      (t.me.dueAt (s.cycle + 1) = true ∨ ∀ m ∈ s.strands, m.dueAt (s.cycle + 1) = false) ∧
      ((∀ m ∈ s.strands, m.kind ≠ .heavy) → s.l1d = [] → s.l2 = [] → SameMemory s t) ∧
      ((∀ m ∈ s.strands, m.kind ≠ .heavy) → Memory.wf s.mem = true → ∀ x, memGet t.mem x = memGet s.mem x ∨
        (∃ c ∈ s.l1d, ∃ y ∈ c.2, y.num = x / 128 ∧ y.dirtyAt x = true ∧ memGet t.mem x = y.byte x) ∨
        ∃ c ∈ s.l2, ∃ y ∈ c.2, y.num = x / 128 ∧ y.dirtyAt x = true ∧ memGet t.mem x = y.byte x))

/-- The operation waits in a barrier that it has reached. -/
def Sys2Proof.AtBarrier (o : Op) : Bool :=
  o.stage == .away && match o.what with
    | .barArrive _ _ true _ => true
    | _ => false
/-- R196, R371, R346: at the end of a cycle the monitors of every troupe count it. A cycle in which something of the troupe issued, arrived or completed makes
the count 0. A cycle in which a vcore is switched out or stopped leaves it. In the others, a message in flight, a copy command, a walk, an operation, a
forfeited turn, or a matrix operation that has started or is not blocked makes it 0, and where nothing of that is left it goes up by 1; its report begins at 65,536.
A troupe whose vcores have all halted and that has no task left completes: its slots are vacant.
Where the spec leaves a point open or to inference, it states the model's reading: log entries 44, 54. -/
def Sys2Proof.Says.CycleMonitors : Prop :=
  (∀ (s : State) (tr : Nat) (x : Troupe), s.turnsOver = true → Listed s → Unfinished s → s.troupe? tr = some x → ∃ t y, exec .turn s = .next t ∧ t.troupe? tr = some y ∧
    y = { x with quiet := y.quiet, stirred := false } ∧
    let counts := x.out = [] ∧ ∀ m ∈ s.strands, m.troupe = tr → m.kind ≠ .sm → m.dbg.stopped = false
    let moves := fun (m : Strand) => (∃ o ∈ m.ops, AtBarrier o = false) ∨ m.xwait ≠ none ∨ m.forfeit ≠ 0 ∨ (m.readyCls = .vacant ∧ s.cycle < m.readyAt) ∨
      (m.run = .parked ∧ m.parkDl ≠ 0) ∨ (∃ o ∈ m.mq, o.started ≠ none) ∨ (m.mq ≠ [] ∧ blockRing m = none)
    (x.stirred = true → y.quiet = 0) ∧
    (x.stirred = false → ¬counts → y.quiet = x.quiet) ∧
    (counts → (s.trafficOf tr = true ∨ s.copiesOf tr = true ∨ s.walksOf tr = true ∨ ∃ m ∈ s.strands, m.troupe = tr ∧ m.kind ≠ .sm ∧ moves m) → y.quiet = 0) ∧
    (x.stirred = false → counts → s.trafficOf tr = false → s.copiesOf tr = false → s.walksOf tr = false → (∀ m ∈ s.strands, m.troupe = tr → m.kind ≠ .sm → ¬moves m) →
      y.quiet = x.quiet + 1 ∧ (x.quiet + 1 = 65536 → (s.cycle, Instr.quiescenceCountExpiry tr) ∈ t.agenda))) ∧
  (∀ (s : State) (tr : Nat) (x : Troupe), s.turnsOver = true → Listed s → s.troupes = [(tr, x)] → x.ending = false → (∀ v ∈ x.place, v.1 ∈ x.halted) → x.tasks = [] →
    x.spawns = [] → ∃ t, exec .turn s = .next t ∧ t.troupes = [] ∧ t.cycle = s.cycle + 1 ∧ t.turnsOver = false ∧
      (∀ m ∈ t.strands, m.kind ≠ .sm → m.troupe = tr → m.run = .vacant) ∧
      (∀ sa m, s.strand? sa = some m → m.kind = .sm ∨ m.troupe ≠ tr ∨ m.run = .vacant → t.strand? sa = some m) ∧
      (x.notify = false → (∀ m ∈ s.strands, m.kind ≠ .heavy) → s.l1d = [] → s.l2 = [] → Memory.wf s.mem = true →
        memRead t.mem (x.field 0x130 8) 4 = 0 ∧ memRead t.mem (x.field 0x130 8 + 4) 4 = tr % 2 ^ 32 ∧
        memRead t.mem (x.field 0x130 8 + 8) 8 = x.released % 2 ^ 64 ∧ memRead t.mem (x.field 0x130 8 + 16) 8 = s.cycle % 2 ^ 64 ∧
        memRead t.mem (x.field 0x130 8 + 24) 4 = x.discarded % 2 ^ 32 ∧
        ∀ a, a < x.field 0x130 8 ∨ x.field 0x130 8 + 64 ≤ a → memGet t.mem a = memGet s.mem a))

/-- R10: the coordinates of a cluster. -/
def Obligations.Coordinates : Prop :=
  ∀ row < 6, ∀ col < 16,
    let p := 16 * row + col
    let die := 4 * (row / 3) + col / 4
    let index := 4 * (row % 3) + col % 4
    p ≤ 95 ∧ die < 8 ∧ index ≤ 11 ∧ pcDie p = die ∧ pcIndex p = index ∧ pkgCluster die index = p ∧
    (∀ d < 8, d = die ↔ (3 * (d / 4) ≤ row ∧ row ≤ 3 * (d / 4) + 2 ∧ 4 * (d % 4) ≤ col ∧ col ≤ 4 * (d % 4) + 3)) ∧
    ∀ core slot, core < 64 → slot < 32 → saDie (mkSa die index core slot) = die ∧ saCluster (mkSa die index core slot) = index ∧
      saCore (mkSa die index core slot) = core ∧ saSlot (mkSa die index core slot) = slot ∧ saPkg (mkSa die index core slot) = p

/-- R73, R230, R231, R337, R380, R382, R386: what reset leaves: CYCLE 0, no vcore in any slot, no troupe, every queue DISABLED, the default rank program,
every cluster served by its own heavy core with a quota of 8, Stage 0 and the registers of the management window at 0. That memory reads 0 is the
model's (log entry 2), and so is a slot's every other value (log entry 1). -/
def Sys2Proof.Says.ResetLeaves : Prop :=
  let s := State.reset
  s.cycle = 0 ∧ s.agenda = [] ∧ s.troupes = [] ∧ (∀ m ∈ s.strands, m.run = .vacant) ∧ (∀ a, memGet s.mem a = 0) ∧
  (∀ q, (s.queue q).state = .disabled) ∧ (∀ d, (s.die d).rankProg = defaultRank ∧ (s.die d).board = [] ∧ (s.die d).xcache = []) ∧
  (∀ p, s.shipTarget p = some p ∧ (s.cluster p).gshare = 8 ∧ (s.cluster p).squall = false) ∧
  s.mgmt.stage = 0 ∧ s.mgmt.slot = 0 ∧ s.mgmt.update = 0 ∧ s.mgmt.intrBase = 0 ∧ s.mgmt.intrLen = 0 ∧ s.mgmt.intrPtr = 0 ∧ s.mgmt.portErr = 0 ∧
  s.mgmt.updImg = 0 ∧ s.mgmt.updLen = 0 ∧ s.mgmt.link = 0 ∧ s.mgmt.qsel = 0 ∧ s.mgmt.qstat = false ∧ s.mgmt.updRec = 0 ∧ s.mgmt.intrLost = 0 ∧
  s.mgmt.sysObj = 0 ∧ s.mgmt.sysLen = 0 ∧ s.mgmt.sysCtl = 0 ∧ ∀ k, Tab.getD s.mgmt.merr k 0 = 0

/-- Words that the spec writes out, and the instructions they stand for (R33 to R37, and the examples of the chapters). -/
def Obligations.WordsDecode : Prop :=
  decode 0x18630094 0 = some (.srli 3 3 10 false) ∧
  decode 0x08C0FFFE 0 = some (.addi 6 0 (-1) false) ∧
  decode 0x4D226BFD 0 = some (.ld 9 2 3 1 3 (-2) true) ∧
  decode 0x388A0FF8 0 = some (.dbnz 5 (-4) false) ∧
  decode 0xF8600000 0x12345678 = some (.li 3 0x12345678 false) ∧
  decode 0x3C200042 0 = some (.getsr 1 0x021 false) ∧
  decode 0x4022180E 0 = some (.fadd 1 2 3 0 7 false) ∧
  decode 0x99044214 0 = some (.vdott 4 1 2 1 false false) ∧
  decode 0x5C200020 0 = some (.recv 1 0 false) ∧
  decode 0x68A63800 0x20018 = some (.cpy 5 6 7 2 false 0 3 0 false) ∧
  decode 0x6DEC6804 0x0C = some (.tspawn 15 12 13 2 0x0C false) ∧
  decode 0xC10A580E 0 = some (.dadd 8 10 11 7 false) ∧
  decode 0xCC8D000C 0 = some (.wcas128 4 13 0 0 6 false) ∧
  decode 0xD0442A16 7 = some (.maccst 2 4 5 3 7 0 false) ∧
  decode 0xE400000A 0 = some (.trap 5 false) ∧
  decode 0xE8000012 0 = some (.xlatinvAll false) ∧
  decode 0xEC221830 0 = some (.qsignal 1 2 3 false false) ∧
  decode 0xF0A21800 0 = some (.wpset 5 2 3 0 false)

/-- R29 to R37: every assembled instruction of a scalar major, 0x00 to 0x0F, decodes to itself, with every operand. -/
def Obligations.DecodeEncodeScalar : Prop :=
  ∀ i : Instr, i.wf = true → i.isEvent = false → fld ((encode i).getD 0 0) 26 6 < 16 →
    decode ((encode i).getD 0 0) ((encode i).getD 1 0) = some i ∧
    (encode i).length = wordCount ((encode i).getD 0 0) ∧ ∀ w ∈ encode i, w < 2 ^ 32

/-- R29 to R37: every assembled instruction of the other majors, the vector, memory, shipped and system ones, decodes to itself, with
every operand. -/
def Obligations.DecodeEncodeOther : Prop :=
  ∀ i : Instr, i.wf = true → i.isEvent = false → 16 ≤ fld ((encode i).getD 0 0) 26 6 →
    decode ((encode i).getD 0 0) ((encode i).getD 1 0) = some i ∧
    (encode i).length = wordCount ((encode i).getD 0 0) ∧ ∀ w ∈ encode i, w < 2 ^ 32

/-- Memory keeps its canonical form (log entry 2) in every step. -/
def Obligations.MemoryStaysCanonical : Prop :=
  ∀ s t : State, Memory.wf s.mem = true → step s = .next t → Memory.wf t.mem = true

/-- The reset state's memory has the canonical form. -/
def Sys2Proof.Says.ResetMemoryCanonical : Prop := Memory.wf State.reset.mem = true

/-! ### Statements of several parts -/

/-- R76, R78, R79 to R85: the two parts together. -/
def Obligations.IntegerBitsAndImmediates : Prop := Says.IntegerBits ∧ Says.IntegerImmediates

/-- R86, R87, R88, R89: the two parts together. -/
def Obligations.ControlTransfersAndNop : Prop := Says.ControlTransfer ∧ Says.NopPauseIll

/-- : the two parts together. -/
def Obligations.StateRegisters : Prop := Says.ReadStateRegister ∧ Says.WriteStateRegister

/-- R201, R221, R71: the two parts together.
Where the spec leaves a point open or to inference, it states the model's reading: log entry 63. -/
def Obligations.FatalAndHeldTraps : Prop := Says.FatalTrap ∧ Says.TrapHeld

/-- R208, R209, R374, R71, R203: the two parts together.
Where the spec leaves a point open or to inference, it states the model's reading: log entry 55. -/
def Obligations.TrapReturnAndDelivery : Prop := Says.TrapAndReturn ∧ Says.TrapDelivery

/-- R107, R110, R111, R92, R93, R107, R110, R111, R103, R106: the three parts together. -/
def Obligations.FloatMinMaxSignEstimate : Prop := Says.FloatMinMaxEstimate ∧ Says.FloatMinMaxEstimateValues ∧ Says.FloatSignBits

/-- R124, R125, R125: the two parts together. -/
def Obligations.VectorIntegerForms : Prop := Says.VectorInteger ∧ Says.VectorIntegerCompare

/-- R123, R126, R108, R126: the two parts together. -/
def Obligations.VectorFloatForms : Prop := Says.VectorFloat ∧ Says.VectorFloatCompare

/-- R127, R128, R115, R116, R127: the two parts together. -/
def Obligations.VectorConversions : Prop := Says.VectorConvert ∧ Says.VectorConvertInteger

/-- R130, R131: the two parts together.
Where the spec leaves a point open or to inference, it states the model's reading: log entry 16. -/
def Obligations.VectorReductions : Prop := Says.VectorReduceInteger ∧ Says.VectorReduceFloat

/-- R132, R133, R95, R134 to R136: the two parts together. -/
def Obligations.VectorDotAndTernary : Prop := Says.VectorDot ∧ Says.VectorTernary

/-- R96 to R98, R137, R138, R139: the two parts together.
Where the spec leaves a point open or to inference, it states the model's reading: log entry 14. -/
def Obligations.BlockCodesAndPredicates : Prop := Says.VectorBlockCodes ∧ Says.PredicateResults

/-- R140, R141, R143, R349, R140, R212, R217: the two parts together.
Where the spec leaves a point open or to inference, it states the model's reading: log entry 32. -/
def Obligations.Segments : Prop := Says.SegmentCheck ∧ Says.SegmentRegisters

/-- R153, R154, R159, R157, R158, R170 to R172: the three parts together.
Where the spec leaves a point open or to inference, it states the model's reading: log entry 11. -/
def Obligations.MemoryIssue : Prop := Says.ScalarMemoryIssue ∧ Says.VectorMemoryIssue ∧ Says.FenceAndLines

/-- R69, R149, R150, R150: the two parts together.
Where the spec leaves a point open or to inference, it states the model's reading: log entry 13. -/
def Obligations.Translation : Prop := Says.TranslationConfirm ∧ Says.PageChecks

/-- R151, R153, R160, R162, R180, R165, R168, R151, R158, R180: the three parts together.
Where the spec leaves a point open or to inference, it states the model's reading: log entries 11, 12. -/
def Obligations.LoadsAndStores : Prop := Says.LoadReturns ∧ Says.StorePerforms ∧ Says.LinePerforms

/-- R154, R155, R171, R172: the two parts together.
Where the spec leaves a point open or to inference, it states the model's reading: log entries 11, 12, 19. -/
def Obligations.AtomicsAndFences : Prop := Says.AtomicPerforms ∧ Says.FencesEnd

/-- R145, R149, R145, R149, R145 to R147: the three parts together.
Where the spec leaves a point open or to inference, it states the model's reading: log entries 35, 61. -/
def Obligations.PageWalks : Prop := Says.WalkSteps ∧ Says.WalkEndCompletes ∧ Says.PageEntries

/-- R149, R212, R212: the two parts together.
Where the spec leaves a point open or to inference, it states the model's reading: log entry 33. -/
def Obligations.FaultServiceAndTlb : Prop := Says.FaultServiceAndInvalidate ∧ Says.TlbInvalidate

/-- R177, R182, R184, R182, R184, R185: the two parts together. -/
def Obligations.Channels : Prop := Says.ChannelSend ∧ Says.ChannelReceive

/-- R184, R186, R189, R192, R182, R185, R191, R193, R220: the two parts together.
Where the spec leaves a point open or to inference, it states the model's reading: log entries 28, 29, 34, 70. -/
def Obligations.ChannelStatusAndMail : Prop := Says.ChannelStatusAndInbox ∧ Says.MailArrivals

/-- R176, R187 to R190, R187 to R190: the two parts together.
Where the spec leaves a point open or to inference, it states the model's reading: log entry 27. -/
def Obligations.Barriers : Prop := Says.BarrierArrive ∧ Says.BarrierEvents

/-- R120, R159, R183, R224, R41, R210: the two parts together. -/
def Obligations.KindAndPrivilege : Prop := Says.StageManagerIllegal ∧ Says.PrivilegeGate

/-- R214, R216, R218, R214, R216: the two parts together.
Where the spec leaves a point open or to inference, it states the model's reading: log entries 11, 32, 37, 65. -/
def Obligations.Contexts : Prop := Says.ContextInstructions ∧ Says.ContextResults

/-- R214 to R217, R141, R217, R220: the two parts together.
Where the spec leaves a point open or to inference, it states the model's reading: log entries 29, 30, 36, 37, 64. -/
def Obligations.SlotSwapsAndHalt : Prop := Says.SlotSwapEvents ∧ Says.ScratchpadsAndHalt

/-- R221 to R223, R346, R196, R197, R203: the two parts together.
Where the spec leaves a point open or to inference, it states the model's reading: log entries 38, 39, 54, 71. -/
def Obligations.FatalEndAndQuiescence : Prop := Says.FatalEnd ∧ Says.QuiescenceReport

/-- R237 to R244, R245, R246: the two parts together. -/
def Obligations.ShippedInstructions : Prop := Says.ShippedScalar ∧ Says.ShippedVector

/-- R233, R247, R248, R234, R247, R249, R250: the two parts together.
Where the spec leaves a point open or to inference, it states the model's reading: log entries 11, 12, 19, 66. -/
def Obligations.WideAtomics : Prop := Says.WideAtomicIssue ∧ Says.WideAtomicUnit

/-- R253 to R256, R259, R264, R265, R267 to R269, R272, R253, R255, R270, R271: the two parts together.
Where the spec leaves a point open or to inference, it states the model's reading: log entry 23. -/
def Obligations.MatrixQueueAndRings : Prop := Says.MatrixIssue ∧ Says.RingsAndMstat

/-- R254, R256 to R267, R270, R273, R150, R257, R268, R95, R98, R260, R261, R263, R95, R261, R262, R95, R257, R264, R265, R268, R269: the five parts together.
Where the spec leaves a point open or to inference, it states the model's reading: log entries 11, 15, 24. -/
def Obligations.MatrixArray : Prop := Says.MatrixStart ∧ Says.StoreWalks ∧ Says.FloatCells ∧ Says.IntegerCells ∧ Says.MatrixRetires

/-- R276 to R282, R284, R277, R280, R282 to R285, R384, R279 to R283, R285, R277, R280, R282 to R284, R384, R385: the four parts together.
Where the spec leaves a point open or to inference, it states the model's reading: log entries 11, 25, 26, 43. -/
def Obligations.CopyCommands : Prop := Says.CopyIssue ∧ Says.CopyPlaces ∧ Says.CopyRuns ∧ Says.CopyMoves

/-- R275, R282, R283, R284, R384, R385: the two parts together.
Where the spec leaves a point open or to inference, it states the model's reading: log entries 11, 25, 26. -/
def Obligations.CopyRingsAndRemote : Prop := Says.CopyToRing ∧ Says.RemoteFlits

/-- R286 to R290, R295, R296, R310 to R313, R287, R291, R292, R310, R286, R294, R296 to R303, R301 to R303, R292: the five parts together.
Where the spec leaves a point open or to inference, it states the model's reading: log entries 11, 57, 58. -/
def Obligations.OrderedTasks : Prop := Says.TaskInstructions ∧ Says.TaskArrival ∧ Says.TaskCommits ∧ Says.CommitAborts ∧ Says.TaskSpills

/-- R327 to R329, R320, R327, R328, R330, R331, R347: the two parts together.
Where the spec leaves a point open or to inference, it states the model's reading: log entries 11, 38, 40, 67. -/
def Obligations.CodeAndTranslation : Prop := Says.CodeInstructions ∧ Says.CodeEvents

/-- R335, R340, R333, R335, R341, R380, R382: the two parts together.
Where the spec leaves a point open or to inference, it states the model's reading: log entries 11, 43. -/
def Obligations.WorkQueues : Prop := Says.QueueForms ∧ Says.QueueEvents

/-- R343, R345, R345, R195, R343, R345: the three parts together.
Where the spec leaves a point open or to inference, it states the model's reading: log entries 38, 43, 44, 68. -/
def Obligations.LaunchAndPlacement : Prop := Says.LaunchForms ∧ Says.Placement ∧ Says.Release

/-- R72, R370 to R374, R394, R375 to R379: the two parts together.
Where the spec leaves a point open or to inference, it states the model's reading: log entries 21, 22, 59. -/
def Obligations.DebugAndWatchpoints : Prop := Says.DebugCommands ∧ Says.Watchpoints

/-- R380, R382, R380, R382 to R384, R388: the two parts together.
Where the spec leaves a point open or to inference, it states the model's reading: log entries 5, 43, 49. -/
def Obligations.HostPort : Prop := Says.HostPort ∧ Says.HostTables

/-- R230, R347, R386 to R390, R392, R307, R331, R344, R347, R382, R391 to R394: the two parts together.
Where the spec leaves a point open or to inference, it states the model's reading: log entries 17, 18, 22, 46, 48, 50, 51, 52, 53, 69. -/
def Obligations.DeviceLife : Prop := Says.StartAndUpdate ∧ Says.DeviceEvents

/-- R65, R72, R226, R196, R371, R346: the two parts together.
Where the spec leaves a point open or to inference, it states the model's reading: log entries 8, 11, 44, 54, 56. -/
def Obligations.TurnAndCycle : Prop := Says.TurnAndCycle ∧ Says.CycleMonitors

/-- R73, R230, R231, R337, R380, R382, R386: the two parts together. -/
def Obligations.ResetLeaves : Prop := Says.ResetLeaves ∧ Says.ResetMemoryCanonical
end

