-- ==== Sys2Proof/Laws/Memory.lean ====
section
/-! SUPPORT. Memory: what a byte reads as after a write, and that every operation keeps the canonical form. -/

namespace Sys2Proof.Laws

open Machine

/-- Every address listed is at least `n`. -/
def above (n : Nat) (m : List Host.Cell) : Prop := ∀ c ∈ m, n ≤ c.1

theorem wf_tail {c : Host.Cell} {r : List Host.Cell} (h : Memory.wf (c :: r) = true) : Memory.wf r = true := by
  cases r with
  | nil => rfl
  | cons d r => simp only [Memory.wf, Bool.and_eq_true] at h; exact h.2

theorem wf_head {c : Host.Cell} {r : List Host.Cell} (h : Memory.wf (c :: r) = true) : c.2 ≠ 0 := by
  cases r with
  | nil => simpa [Memory.wf] using h
  | cons d r => simp only [Memory.wf, Bool.and_eq_true] at h; simpa using h.1.1

theorem wf_above {c : Host.Cell} {r : List Host.Cell} (h : Memory.wf (c :: r) = true) : above (c.1 + 1) r := by
  induction r generalizing c with
  | nil => intro d hd; cases hd
  | cons d r ih =>
    simp only [Memory.wf, Bool.and_eq_true, decide_eq_true_eq] at h
    intro x hx
    rcases List.mem_cons.1 hx with rfl | hx
    · exact h.1.2
    · have := ih h.2 x hx; omega

theorem wf_cons {c : Host.Cell} {r : List Host.Cell} (h0 : c.2 ≠ 0) (h1 : above (c.1 + 1) r) (h2 : Memory.wf r = true) :
    Memory.wf (c :: r) = true := by
  cases r with
  | nil => simpa [Memory.wf] using h0
  | cons d r =>
    simp only [Memory.wf, Bool.and_eq_true, decide_eq_true_eq]
    exact ⟨⟨by simpa using h0, h1 d (List.mem_cons_self ..)⟩, h2⟩

/-- The form is: strictly rising addresses and no listed 0. -/
theorem wf_cons_iff {c : Host.Cell} {r : List Host.Cell} :
    Memory.wf (c :: r) = true ↔ c.2 ≠ 0 ∧ above (c.1 + 1) r ∧ Memory.wf r = true :=
  ⟨fun h => ⟨wf_head h, wf_above h, wf_tail h⟩, fun h => wf_cons h.1 h.2.1 h.2.2⟩

/-- A byte below every listed address reads 0. -/
theorem memGet_above {n x : Nat} {m : List Host.Cell} (h : above n m) (hx : x < n) : memGet m x = 0 := by
  cases m with
  | nil => rfl
  | cons c r =>
    obtain ⟨a, b⟩ := c
    have ha : n ≤ a := h (a, b) (List.mem_cons_self ..)
    simp only [memGet]
    rw [if_neg (by omega), if_pos (by omega)]

theorem above_memPut {n x : Nat} {v : Byte} {m : List Host.Cell} (h : above n m) (hx : n ≤ x) : above n (memPut m x v) := by
  induction m with
  | nil =>
    intro c hc
    simp only [memPut] at hc
    split at hc
    · cases hc
    · rcases List.mem_singleton.1 hc with rfl; exact hx
  | cons d r ih =>
    obtain ⟨a, b⟩ := d
    intro c hc
    simp only [memPut] at hc
    have hr : above n r := fun y hy => h y (List.mem_cons_of_mem _ hy)
    split at hc
    · split at hc
      · exact h c hc
      · rcases List.mem_cons.1 hc with rfl | hc
        · exact hx
        · exact h c hc
    · split at hc
      · split at hc
        · exact hr c hc
        · rcases List.mem_cons.1 hc with rfl | hc
          · exact hx
          · exact hr c hc
      · rcases List.mem_cons.1 hc with rfl | hc
        · exact h _ (List.mem_cons_self ..)
        · exact ih hr c hc

/-- A byte written keeps the canonical form. -/
theorem wf_memPut (m : List Host.Cell) (x : Nat) (v : Byte) (h : Memory.wf m = true) : Memory.wf (memPut m x v) = true := by
  induction m with
  | nil =>
    simp only [memPut]; split
    · rfl
    · rename_i hv; simpa [Memory.wf] using hv
  | cons d r ih =>
    obtain ⟨a, b⟩ := d
    have hd := wf_cons_iff.1 h
    simp only [memPut]
    split
    · rename_i hx
      split
      · exact h
      · rename_i hv
        refine wf_cons hv ?_ h
        intro c hc
        rcases List.mem_cons.1 hc with rfl | hc
        · exact hx
        · exact Nat.le_trans (Nat.le_succ_of_le hx) (hd.2.1 c hc)
    · split
      · rename_i hx
        subst hx
        split
        · exact hd.2.2
        · rename_i hv; exact wf_cons hv hd.2.1 hd.2.2
      · rename_i h1 h2
        exact wf_cons hd.1 (above_memPut hd.2.1 (by simp only []; omega)) (ih hd.2.2)

/-- A byte reads as it was last written, and every other byte as before. -/
theorem memGet_memPut (m : List Host.Cell) (x y : Nat) (v : Byte) (h : Memory.wf m = true) :
    memGet (memPut m x v) y = if y = x then v else memGet m y := by
  induction m with
  | nil =>
    simp only [memPut]
    by_cases hv : v = 0
    · subst hv; simp [memGet]
    · rw [if_neg hv]; simp only [memGet]
      by_cases hy : y = x
      · subst hy; simp
      · rw [if_neg (Ne.symm hy), if_neg hy]; split <;> rfl
  | cons d r ih =>
    obtain ⟨a, b⟩ := d
    have hd := wf_cons_iff.1 h
    simp only [memPut]
    by_cases h1 : x < a
    · rw [if_pos h1]
      by_cases hv : v = 0
      · subst hv
        rw [if_pos rfl]
        by_cases hy : y = x
        · subst hy; rw [if_pos rfl]; simp only [memGet]; rw [if_neg (by omega), if_pos h1]
        · rw [if_neg hy]
      · rw [if_neg hv]
        simp only [memGet]
        by_cases hy : y = x
        · subst hy; simp
        · rw [if_neg (Ne.symm hy), if_neg hy]
          by_cases h3 : y < x
          · rw [if_pos h3, if_neg (by omega), if_pos (by omega)]
          · rw [if_neg h3]
    · rw [if_neg h1]
      by_cases h2 : x = a
      · subst h2
        rw [if_pos rfl]
        by_cases hv : v = 0
        · subst hv
          rw [if_pos rfl]
          by_cases hy : y = x
          · subst hy; rw [if_pos rfl]; exact memGet_above hd.2.1 (Nat.lt_succ_self _)
          · rw [if_neg hy]; simp only [memGet]; rw [if_neg (Ne.symm hy)]
            by_cases h3 : y < x
            · rw [if_pos h3]; exact memGet_above hd.2.1 (Nat.lt_succ_of_lt h3)
            · rw [if_neg h3]
        · rw [if_neg hv]
          simp only [memGet]
          by_cases hy : y = x
          · subst hy; simp
          · rw [if_neg (Ne.symm hy), if_neg hy, if_neg (Ne.symm hy)]
      · rw [if_neg h2]
        simp only [memGet]
        by_cases hy : a = y
        · subst hy; rw [if_pos rfl, if_neg (Ne.symm h2), if_pos rfl]
        · rw [if_neg hy, if_neg hy]
          by_cases h3 : y < a
          · rw [if_pos h3, if_pos h3, if_neg (by omega)]
          · rw [if_neg h3, if_neg h3]; exact ih hd.2.2

/-- A value of `n` bytes written keeps the canonical form. -/
theorem wf_memWrite (m : List Host.Cell) (loc n v : Nat) (h : Memory.wf m = true) : Memory.wf (memWrite m loc n v) = true := by
  induction n generalizing m loc v with
  | zero => exact h
  | succ n ih => exact ih _ _ _ (wf_memPut _ _ _ h)

/-- A list of bytes written keeps the canonical form. -/
theorem wf_memPutBytes (m : List Host.Cell) (loc : Nat) (bs : List Byte) (h : Memory.wf m = true) :
    Memory.wf (memPutBytes m loc bs) = true := by
  induction bs generalizing m loc with
  | nil => exact h
  | cons b r ih => exact ih _ _ (wf_memPut _ _ _ h)

theorem wf_filter (m : List Host.Cell) (p : Host.Cell → Bool) (h : Memory.wf m = true) : Memory.wf (m.filter p) = true := by
  induction m with
  | nil => rfl
  | cons c r ih =>
    have hd := wf_cons_iff.1 h
    by_cases hp : p c = true
    · rw [List.filter_cons_of_pos hp]
      exact wf_cons hd.1 (fun d hx => hd.2.1 d (List.mem_filter.1 hx).1) (ih hd.2.2)
    · rw [List.filter_cons_of_neg hp]; exact ih hd.2.2

/-- Cleared bytes keep the canonical form. -/
theorem wf_memClear (m : List Host.Cell) (loc n : Nat) (h : Memory.wf m = true) : Memory.wf (memClear m loc n) = true := wf_filter _ _ h

theorem memGet_filter (m : List Host.Cell) (p : Nat → Bool) (y : Nat) (h : Memory.wf m = true) :
    memGet (m.filter (fun c => p c.1)) y = if p y then memGet m y else 0 := by
  induction m with
  | nil => simp [memGet]
  | cons c r ih =>
    obtain ⟨a, b⟩ := c
    have hd := wf_cons_iff.1 h
    have ih := ih hd.2.2
    by_cases hp : p a = true
    · rw [List.filter_cons_of_pos (by simpa using hp)]
      simp only [memGet]
      by_cases hy : a = y
      · subst hy; simp [hp]
      · rw [if_neg hy, if_neg hy]
        by_cases h3 : y < a
        · rw [if_pos h3, if_pos h3]; simp
        · rw [if_neg h3, if_neg h3, ih]
    · rw [List.filter_cons_of_neg (by simpa using hp), ih]
      simp only [memGet]
      by_cases hy : a = y
      · subst hy; simp [hp]
      · rw [if_neg hy]
        by_cases h3 : y < a
        · rw [if_pos h3, memGet_above hd.2.1 (Nat.lt_succ_of_lt h3)]
        · rw [if_neg h3]

/-- Cleared bytes read 0, and every other byte as before. -/
theorem memGet_memClear (m : List Host.Cell) (loc n y : Nat) (h : Memory.wf m = true) :
    memGet (memClear m loc n) y = if loc ≤ y ∧ y < loc + n then 0 else memGet m y := by
  unfold memClear
  rw [memGet_filter m (fun x => !(decide (loc ≤ x) && decide (x < loc + n))) y h]
  by_cases h1 : loc ≤ y ∧ y < loc + n
  · rw [if_pos h1]; simp [h1]
  · rw [if_neg h1]; simp only [not_and, Nat.not_lt] at h1
    by_cases h2 : loc ≤ y
    · simp [h2, h1 h2]
    · simp [h2]

/-- A byte outside the bytes written reads as before. -/
theorem memGet_memWrite_out (m : List Host.Cell) (loc n v y : Nat) (h : Memory.wf m = true) (hy : y < loc ∨ loc + n ≤ y) :
    memGet (memWrite m loc n v) y = memGet m y := by
  induction n generalizing m loc v with
  | zero => rfl
  | succ n ih =>
    simp only [memWrite]
    rw [ih _ _ _ (wf_memPut _ _ _ h) (by omega), memGet_memPut _ _ _ _ h, if_neg (by omega)]

/-- A value written reads back, cut to its bytes. -/
theorem memRead_memWrite (m : List Host.Cell) (loc n v : Nat) (h : Memory.wf m = true) :
    memRead (memWrite m loc n v) loc n = v % 2 ^ (8 * n) := by
  induction n generalizing m loc v with
  | zero => simp [memRead, Nat.mod_one]
  | succ n ih =>
    simp only [memRead, memWrite]
    rw [ih _ _ _ (wf_memPut _ _ _ h), memGet_memWrite_out _ _ _ _ _ (wf_memPut _ _ _ h) (Or.inl (by omega)), memGet_memPut _ _ _ _ h, if_pos rfl]
    simp only [BitVec.toNat_ofNat]
    rw [show 8 * (n + 1) = 8 + 8 * n by omega, Nat.pow_add, Nat.mod_mul]
    rw [show (2 : Nat) ^ 8 = 256 from rfl, Nat.mod_mod]

/-- A byte of the bytes written, and of any other. -/
theorem memGet_memPutBytes (m : List Host.Cell) (loc : Nat) (bs : List Byte) (y : Nat) (h : Memory.wf m = true) :
    memGet (memPutBytes m loc bs) y = if loc ≤ y ∧ y < loc + bs.length then bs.getD (y - loc) 0 else memGet m y := by
  induction bs generalizing m loc with
  | nil => rw [if_neg (by simp only [List.length_nil]; omega)]; rfl
  | cons b r ih =>
    simp only [memPutBytes, List.length_cons]
    rw [ih _ _ (wf_memPut _ _ _ h), memGet_memPut _ _ _ _ h]
    by_cases h1 : y = loc
    · subst h1; rw [if_neg (by omega), if_pos rfl, if_pos (by omega)]; simp
    · rw [if_neg h1]
      by_cases h2 : loc + 1 ≤ y ∧ y < loc + 1 + r.length
      · rw [if_pos h2, if_pos (by omega)]
        obtain ⟨k, hk⟩ : ∃ k, y - loc = k + 1 := ⟨y - loc - 1, by omega⟩
        rw [hk, show y - (loc + 1) = k by omega]; rfl
      · rw [if_neg h2, if_neg (by omega)]

/-- A list of bytes written reads back. -/
theorem memBytes_memPutBytes (m : List Host.Cell) (loc : Nat) (bs : List Byte) (h : Memory.wf m = true) :
    memBytes (memPutBytes m loc bs) loc bs.length = bs := by
  apply List.ext_getElem
  · simp [memBytes]
  · intro i h1 h2
    simp only [memBytes, List.getElem_map, List.getElem_range]
    rw [memGet_memPutBytes _ _ _ _ h, if_pos (by omega)]
    simp [List.getD, h2]

/-- The three ways in which the module's memory changes keep the form, and the reset state has it. -/
theorem wf_write (s : State) (loc n v : Nat) (h : Memory.wf s.mem = true) : Memory.wf (s.write loc n v).mem = true := wf_memWrite _ _ _ _ h
theorem wf_clear (s : State) (loc n : Nat) (h : Memory.wf s.mem = true) : Memory.wf (s.clear loc n).mem = true := wf_memClear _ _ _ h
theorem wf_writeBytes (s : State) (loc : Nat) (bs : List Byte) (h : Memory.wf s.mem = true) : Memory.wf (s.writeBytes loc bs).mem = true :=
  wf_memPutBytes _ _ _ h

end Sys2Proof.Laws
end

