-- ==== Sys2Proof/Laws/State.lean ====
section
/-! SUPPORT. What each update of the state or of a strand leaves in each field: one lemma per field and update. -/

namespace Sys2Proof.Laws

open Machine

/-! ### State.mod -/

@[simp] theorem mod_cycle (s : State) (f : Strand → Strand) : (s.mod f).cycle = s.cycle := rfl
@[simp] theorem mod_mem (s : State) (f : Strand → Strand) : (s.mod f).mem = s.mem := rfl
@[simp] theorem mod_l1d (s : State) (f : Strand → Strand) : (s.mod f).l1d = s.l1d := rfl
@[simp] theorem mod_l2 (s : State) (f : Strand → Strand) : (s.mod f).l2 = s.l2 := rfl
@[simp] theorem mod_me (s : State) (f : Strand → Strand) : (s.mod f).me = f s.me := rfl
@[simp] theorem mod_others (s : State) (f : Strand → Strand) : (s.mod f).others = s.others := rfl
@[simp] theorem mod_agenda (s : State) (f : Strand → Strand) : (s.mod f).agenda = s.agenda := rfl
@[simp] theorem mod_freeCtr (s : State) (f : Strand → Strand) : (s.mod f).freeCtr = s.freeCtr := rfl
@[simp] theorem mod_verdict (s : State) (f : Strand → Strand) : (s.mod f).verdict = s.verdict := rfl
@[simp] theorem mod_turnsOver (s : State) (f : Strand → Strand) : (s.mod f).turnsOver = s.turnsOver := rfl
@[simp] theorem mod_ports (s : State) (f : Strand → Strand) : (s.mod f).ports = s.ports := rfl
@[simp] theorem mod_clusters (s : State) (f : Strand → Strand) : (s.mod f).clusters = s.clusters := rfl
@[simp] theorem mod_dies (s : State) (f : Strand → Strand) : (s.mod f).dies = s.dies := rfl
@[simp] theorem mod_troupes (s : State) (f : Strand → Strand) : (s.mod f).troupes = s.troupes := rfl
@[simp] theorem mod_nextTroupe (s : State) (f : Strand → Strand) : (s.mod f).nextTroupe = s.nextTroupe := rfl
@[simp] theorem mod_placeQ (s : State) (f : Strand → Strand) : (s.mod f).placeQ = s.placeQ := rfl
@[simp] theorem mod_placeBusy (s : State) (f : Strand → Strand) : (s.mod f).placeBusy = s.placeBusy := rfl
@[simp] theorem mod_slotFreed (s : State) (f : Strand → Strand) : (s.mod f).slotFreed = s.slotFreed := rfl
@[simp] theorem mod_shipMap (s : State) (f : Strand → Strand) : (s.mod f).shipMap = s.shipMap := rfl
@[simp] theorem mod_scOps (s : State) (f : Strand → Strand) : (s.mod f).scOps = s.scOps := rfl
@[simp] theorem mod_queues (s : State) (f : Strand → Strand) : (s.mod f).queues = s.queues := rfl
@[simp] theorem mod_mgmt (s : State) (f : Strand → Strand) : (s.mod f).mgmt = s.mgmt := rfl
@[simp] theorem mod_sysObjs (s : State) (f : Strand → Strand) : (s.mod f).sysObjs = s.sysObjs := rfl
@[simp] theorem mod_sysRoot (s : State) (f : Strand → Strand) : (s.mod f).sysRoot = s.sysRoot := rfl
@[simp] theorem mod_poison (s : State) (f : Strand → Strand) : (s.mod f).poison = s.poison := rfl
@[simp] theorem mod_dirtyPoison (s : State) (f : Strand → Strand) : (s.mod f).dirtyPoison = s.dirtyPoison := rfl
@[simp] theorem mod_lostCtx (s : State) (f : Strand → Strand) : (s.mod f).lostCtx = s.lostCtx := rfl
@[simp] theorem mod_displaced (s : State) (f : Strand → Strand) : (s.mod f).displaced = s.displaced := rfl
@[simp] theorem mod_updating (s : State) (f : Strand → Strand) : (s.mod f).updating = s.updating := rfl
@[simp] theorem mod_toRestore (s : State) (f : Strand → Strand) : (s.mod f).toRestore = s.toRestore := rfl
@[simp] theorem mod_repair (s : State) (f : Strand → Strand) : (s.mod f).repair = s.repair := rfl
@[simp] theorem mod_repairOld (s : State) (f : Strand → Strand) : (s.mod f).repairOld = s.repairOld := rfl
@[simp] theorem mod_applied (s : State) (f : Strand → Strand) : (s.mod f).applied = s.applied := rfl
@[simp] theorem mod_struck (s : State) (f : Strand → Strand) : (s.mod f).struck = s.struck := rfl
@[simp] theorem mod_wear (s : State) (f : Strand → Strand) : (s.mod f).wear = s.wear := rfl
@[simp] theorem mod_remoteOut (s : State) (f : Strand → Strand) : (s.mod f).remoteOut = s.remoteOut := rfl

/-! ### State.modCluster -/

@[simp] theorem modCluster_cycle (s : State) (p : Nat) (f : Cluster → Cluster) : (s.modCluster p f).cycle = s.cycle := rfl
@[simp] theorem modCluster_mem (s : State) (p : Nat) (f : Cluster → Cluster) : (s.modCluster p f).mem = s.mem := rfl
@[simp] theorem modCluster_l1d (s : State) (p : Nat) (f : Cluster → Cluster) : (s.modCluster p f).l1d = s.l1d := rfl
@[simp] theorem modCluster_l2 (s : State) (p : Nat) (f : Cluster → Cluster) : (s.modCluster p f).l2 = s.l2 := rfl
@[simp] theorem modCluster_me (s : State) (p : Nat) (f : Cluster → Cluster) : (s.modCluster p f).me = s.me := rfl
@[simp] theorem modCluster_others (s : State) (p : Nat) (f : Cluster → Cluster) : (s.modCluster p f).others = s.others := rfl
@[simp] theorem modCluster_agenda (s : State) (p : Nat) (f : Cluster → Cluster) : (s.modCluster p f).agenda = s.agenda := rfl
@[simp] theorem modCluster_freeCtr (s : State) (p : Nat) (f : Cluster → Cluster) : (s.modCluster p f).freeCtr = s.freeCtr := rfl
@[simp] theorem modCluster_verdict (s : State) (p : Nat) (f : Cluster → Cluster) : (s.modCluster p f).verdict = s.verdict := rfl
@[simp] theorem modCluster_turnsOver (s : State) (p : Nat) (f : Cluster → Cluster) : (s.modCluster p f).turnsOver = s.turnsOver := rfl
@[simp] theorem modCluster_ports (s : State) (p : Nat) (f : Cluster → Cluster) : (s.modCluster p f).ports = s.ports := rfl
@[simp] theorem modCluster_clusters (s : State) (p : Nat) (f : Cluster → Cluster) : (s.modCluster p f).clusters = Tab.put s.clusters p (f (s.cluster p)) := rfl
@[simp] theorem modCluster_dies (s : State) (p : Nat) (f : Cluster → Cluster) : (s.modCluster p f).dies = s.dies := rfl
@[simp] theorem modCluster_troupes (s : State) (p : Nat) (f : Cluster → Cluster) : (s.modCluster p f).troupes = s.troupes := rfl
@[simp] theorem modCluster_nextTroupe (s : State) (p : Nat) (f : Cluster → Cluster) : (s.modCluster p f).nextTroupe = s.nextTroupe := rfl
@[simp] theorem modCluster_placeQ (s : State) (p : Nat) (f : Cluster → Cluster) : (s.modCluster p f).placeQ = s.placeQ := rfl
@[simp] theorem modCluster_placeBusy (s : State) (p : Nat) (f : Cluster → Cluster) : (s.modCluster p f).placeBusy = s.placeBusy := rfl
@[simp] theorem modCluster_slotFreed (s : State) (p : Nat) (f : Cluster → Cluster) : (s.modCluster p f).slotFreed = s.slotFreed := rfl
@[simp] theorem modCluster_shipMap (s : State) (p : Nat) (f : Cluster → Cluster) : (s.modCluster p f).shipMap = s.shipMap := rfl
@[simp] theorem modCluster_scOps (s : State) (p : Nat) (f : Cluster → Cluster) : (s.modCluster p f).scOps = s.scOps := rfl
@[simp] theorem modCluster_queues (s : State) (p : Nat) (f : Cluster → Cluster) : (s.modCluster p f).queues = s.queues := rfl
@[simp] theorem modCluster_mgmt (s : State) (p : Nat) (f : Cluster → Cluster) : (s.modCluster p f).mgmt = s.mgmt := rfl
@[simp] theorem modCluster_sysObjs (s : State) (p : Nat) (f : Cluster → Cluster) : (s.modCluster p f).sysObjs = s.sysObjs := rfl
@[simp] theorem modCluster_sysRoot (s : State) (p : Nat) (f : Cluster → Cluster) : (s.modCluster p f).sysRoot = s.sysRoot := rfl
@[simp] theorem modCluster_poison (s : State) (p : Nat) (f : Cluster → Cluster) : (s.modCluster p f).poison = s.poison := rfl
@[simp] theorem modCluster_dirtyPoison (s : State) (p : Nat) (f : Cluster → Cluster) : (s.modCluster p f).dirtyPoison = s.dirtyPoison := rfl
@[simp] theorem modCluster_lostCtx (s : State) (p : Nat) (f : Cluster → Cluster) : (s.modCluster p f).lostCtx = s.lostCtx := rfl
@[simp] theorem modCluster_displaced (s : State) (p : Nat) (f : Cluster → Cluster) : (s.modCluster p f).displaced = s.displaced := rfl
@[simp] theorem modCluster_updating (s : State) (p : Nat) (f : Cluster → Cluster) : (s.modCluster p f).updating = s.updating := rfl
@[simp] theorem modCluster_toRestore (s : State) (p : Nat) (f : Cluster → Cluster) : (s.modCluster p f).toRestore = s.toRestore := rfl
@[simp] theorem modCluster_repair (s : State) (p : Nat) (f : Cluster → Cluster) : (s.modCluster p f).repair = s.repair := rfl
@[simp] theorem modCluster_repairOld (s : State) (p : Nat) (f : Cluster → Cluster) : (s.modCluster p f).repairOld = s.repairOld := rfl
@[simp] theorem modCluster_applied (s : State) (p : Nat) (f : Cluster → Cluster) : (s.modCluster p f).applied = s.applied := rfl
@[simp] theorem modCluster_struck (s : State) (p : Nat) (f : Cluster → Cluster) : (s.modCluster p f).struck = s.struck := rfl
@[simp] theorem modCluster_wear (s : State) (p : Nat) (f : Cluster → Cluster) : (s.modCluster p f).wear = s.wear := rfl
@[simp] theorem modCluster_remoteOut (s : State) (p : Nat) (f : Cluster → Cluster) : (s.modCluster p f).remoteOut = s.remoteOut := rfl

/-! ### State.modDie -/

@[simp] theorem modDie_cycle (s : State) (d : Nat) (f : Die → Die) : (s.modDie d f).cycle = s.cycle := rfl
@[simp] theorem modDie_mem (s : State) (d : Nat) (f : Die → Die) : (s.modDie d f).mem = s.mem := rfl
@[simp] theorem modDie_l1d (s : State) (d : Nat) (f : Die → Die) : (s.modDie d f).l1d = s.l1d := rfl
@[simp] theorem modDie_l2 (s : State) (d : Nat) (f : Die → Die) : (s.modDie d f).l2 = s.l2 := rfl
@[simp] theorem modDie_me (s : State) (d : Nat) (f : Die → Die) : (s.modDie d f).me = s.me := rfl
@[simp] theorem modDie_others (s : State) (d : Nat) (f : Die → Die) : (s.modDie d f).others = s.others := rfl
@[simp] theorem modDie_agenda (s : State) (d : Nat) (f : Die → Die) : (s.modDie d f).agenda = s.agenda := rfl
@[simp] theorem modDie_freeCtr (s : State) (d : Nat) (f : Die → Die) : (s.modDie d f).freeCtr = s.freeCtr := rfl
@[simp] theorem modDie_verdict (s : State) (d : Nat) (f : Die → Die) : (s.modDie d f).verdict = s.verdict := rfl
@[simp] theorem modDie_turnsOver (s : State) (d : Nat) (f : Die → Die) : (s.modDie d f).turnsOver = s.turnsOver := rfl
@[simp] theorem modDie_ports (s : State) (d : Nat) (f : Die → Die) : (s.modDie d f).ports = s.ports := rfl
@[simp] theorem modDie_clusters (s : State) (d : Nat) (f : Die → Die) : (s.modDie d f).clusters = s.clusters := rfl
@[simp] theorem modDie_dies (s : State) (d : Nat) (f : Die → Die) : (s.modDie d f).dies = Tab.put s.dies d (f (s.die d)) := rfl
@[simp] theorem modDie_troupes (s : State) (d : Nat) (f : Die → Die) : (s.modDie d f).troupes = s.troupes := rfl
@[simp] theorem modDie_nextTroupe (s : State) (d : Nat) (f : Die → Die) : (s.modDie d f).nextTroupe = s.nextTroupe := rfl
@[simp] theorem modDie_placeQ (s : State) (d : Nat) (f : Die → Die) : (s.modDie d f).placeQ = s.placeQ := rfl
@[simp] theorem modDie_placeBusy (s : State) (d : Nat) (f : Die → Die) : (s.modDie d f).placeBusy = s.placeBusy := rfl
@[simp] theorem modDie_slotFreed (s : State) (d : Nat) (f : Die → Die) : (s.modDie d f).slotFreed = s.slotFreed := rfl
@[simp] theorem modDie_shipMap (s : State) (d : Nat) (f : Die → Die) : (s.modDie d f).shipMap = s.shipMap := rfl
@[simp] theorem modDie_scOps (s : State) (d : Nat) (f : Die → Die) : (s.modDie d f).scOps = s.scOps := rfl
@[simp] theorem modDie_queues (s : State) (d : Nat) (f : Die → Die) : (s.modDie d f).queues = s.queues := rfl
@[simp] theorem modDie_mgmt (s : State) (d : Nat) (f : Die → Die) : (s.modDie d f).mgmt = s.mgmt := rfl
@[simp] theorem modDie_sysObjs (s : State) (d : Nat) (f : Die → Die) : (s.modDie d f).sysObjs = s.sysObjs := rfl
@[simp] theorem modDie_sysRoot (s : State) (d : Nat) (f : Die → Die) : (s.modDie d f).sysRoot = s.sysRoot := rfl
@[simp] theorem modDie_poison (s : State) (d : Nat) (f : Die → Die) : (s.modDie d f).poison = s.poison := rfl
@[simp] theorem modDie_dirtyPoison (s : State) (d : Nat) (f : Die → Die) : (s.modDie d f).dirtyPoison = s.dirtyPoison := rfl
@[simp] theorem modDie_lostCtx (s : State) (d : Nat) (f : Die → Die) : (s.modDie d f).lostCtx = s.lostCtx := rfl
@[simp] theorem modDie_displaced (s : State) (d : Nat) (f : Die → Die) : (s.modDie d f).displaced = s.displaced := rfl
@[simp] theorem modDie_updating (s : State) (d : Nat) (f : Die → Die) : (s.modDie d f).updating = s.updating := rfl
@[simp] theorem modDie_toRestore (s : State) (d : Nat) (f : Die → Die) : (s.modDie d f).toRestore = s.toRestore := rfl
@[simp] theorem modDie_repair (s : State) (d : Nat) (f : Die → Die) : (s.modDie d f).repair = s.repair := rfl
@[simp] theorem modDie_repairOld (s : State) (d : Nat) (f : Die → Die) : (s.modDie d f).repairOld = s.repairOld := rfl
@[simp] theorem modDie_applied (s : State) (d : Nat) (f : Die → Die) : (s.modDie d f).applied = s.applied := rfl
@[simp] theorem modDie_struck (s : State) (d : Nat) (f : Die → Die) : (s.modDie d f).struck = s.struck := rfl
@[simp] theorem modDie_wear (s : State) (d : Nat) (f : Die → Die) : (s.modDie d f).wear = s.wear := rfl
@[simp] theorem modDie_remoteOut (s : State) (d : Nat) (f : Die → Die) : (s.modDie d f).remoteOut = s.remoteOut := rfl

/-! ### State.modPort -/

@[simp] theorem modPort_cycle (s : State) (p : Nat) (f : Port → Port) : (s.modPort p f).cycle = s.cycle := rfl
@[simp] theorem modPort_mem (s : State) (p : Nat) (f : Port → Port) : (s.modPort p f).mem = s.mem := rfl
@[simp] theorem modPort_l1d (s : State) (p : Nat) (f : Port → Port) : (s.modPort p f).l1d = s.l1d := rfl
@[simp] theorem modPort_l2 (s : State) (p : Nat) (f : Port → Port) : (s.modPort p f).l2 = s.l2 := rfl
@[simp] theorem modPort_me (s : State) (p : Nat) (f : Port → Port) : (s.modPort p f).me = s.me := rfl
@[simp] theorem modPort_others (s : State) (p : Nat) (f : Port → Port) : (s.modPort p f).others = s.others := rfl
@[simp] theorem modPort_agenda (s : State) (p : Nat) (f : Port → Port) : (s.modPort p f).agenda = s.agenda := rfl
@[simp] theorem modPort_freeCtr (s : State) (p : Nat) (f : Port → Port) : (s.modPort p f).freeCtr = s.freeCtr := rfl
@[simp] theorem modPort_verdict (s : State) (p : Nat) (f : Port → Port) : (s.modPort p f).verdict = s.verdict := rfl
@[simp] theorem modPort_turnsOver (s : State) (p : Nat) (f : Port → Port) : (s.modPort p f).turnsOver = s.turnsOver := rfl
@[simp] theorem modPort_ports (s : State) (p : Nat) (f : Port → Port) : (s.modPort p f).ports = Tab.put s.ports p (f (s.port p)) := rfl
@[simp] theorem modPort_clusters (s : State) (p : Nat) (f : Port → Port) : (s.modPort p f).clusters = s.clusters := rfl
@[simp] theorem modPort_dies (s : State) (p : Nat) (f : Port → Port) : (s.modPort p f).dies = s.dies := rfl
@[simp] theorem modPort_troupes (s : State) (p : Nat) (f : Port → Port) : (s.modPort p f).troupes = s.troupes := rfl
@[simp] theorem modPort_nextTroupe (s : State) (p : Nat) (f : Port → Port) : (s.modPort p f).nextTroupe = s.nextTroupe := rfl
@[simp] theorem modPort_placeQ (s : State) (p : Nat) (f : Port → Port) : (s.modPort p f).placeQ = s.placeQ := rfl
@[simp] theorem modPort_placeBusy (s : State) (p : Nat) (f : Port → Port) : (s.modPort p f).placeBusy = s.placeBusy := rfl
@[simp] theorem modPort_slotFreed (s : State) (p : Nat) (f : Port → Port) : (s.modPort p f).slotFreed = s.slotFreed := rfl
@[simp] theorem modPort_shipMap (s : State) (p : Nat) (f : Port → Port) : (s.modPort p f).shipMap = s.shipMap := rfl
@[simp] theorem modPort_scOps (s : State) (p : Nat) (f : Port → Port) : (s.modPort p f).scOps = s.scOps := rfl
@[simp] theorem modPort_queues (s : State) (p : Nat) (f : Port → Port) : (s.modPort p f).queues = s.queues := rfl
@[simp] theorem modPort_mgmt (s : State) (p : Nat) (f : Port → Port) : (s.modPort p f).mgmt = s.mgmt := rfl
@[simp] theorem modPort_sysObjs (s : State) (p : Nat) (f : Port → Port) : (s.modPort p f).sysObjs = s.sysObjs := rfl
@[simp] theorem modPort_sysRoot (s : State) (p : Nat) (f : Port → Port) : (s.modPort p f).sysRoot = s.sysRoot := rfl
@[simp] theorem modPort_poison (s : State) (p : Nat) (f : Port → Port) : (s.modPort p f).poison = s.poison := rfl
@[simp] theorem modPort_dirtyPoison (s : State) (p : Nat) (f : Port → Port) : (s.modPort p f).dirtyPoison = s.dirtyPoison := rfl
@[simp] theorem modPort_lostCtx (s : State) (p : Nat) (f : Port → Port) : (s.modPort p f).lostCtx = s.lostCtx := rfl
@[simp] theorem modPort_displaced (s : State) (p : Nat) (f : Port → Port) : (s.modPort p f).displaced = s.displaced := rfl
@[simp] theorem modPort_updating (s : State) (p : Nat) (f : Port → Port) : (s.modPort p f).updating = s.updating := rfl
@[simp] theorem modPort_toRestore (s : State) (p : Nat) (f : Port → Port) : (s.modPort p f).toRestore = s.toRestore := rfl
@[simp] theorem modPort_repair (s : State) (p : Nat) (f : Port → Port) : (s.modPort p f).repair = s.repair := rfl
@[simp] theorem modPort_repairOld (s : State) (p : Nat) (f : Port → Port) : (s.modPort p f).repairOld = s.repairOld := rfl
@[simp] theorem modPort_applied (s : State) (p : Nat) (f : Port → Port) : (s.modPort p f).applied = s.applied := rfl
@[simp] theorem modPort_struck (s : State) (p : Nat) (f : Port → Port) : (s.modPort p f).struck = s.struck := rfl
@[simp] theorem modPort_wear (s : State) (p : Nat) (f : Port → Port) : (s.modPort p f).wear = s.wear := rfl
@[simp] theorem modPort_remoteOut (s : State) (p : Nat) (f : Port → Port) : (s.modPort p f).remoteOut = s.remoteOut := rfl

/-! ### State.modTroupe -/

@[simp] theorem modTroupe_cycle (s : State) (t : Nat) (f : Troupe → Troupe) : (s.modTroupe t f).cycle = s.cycle := rfl
@[simp] theorem modTroupe_mem (s : State) (t : Nat) (f : Troupe → Troupe) : (s.modTroupe t f).mem = s.mem := rfl
@[simp] theorem modTroupe_l1d (s : State) (t : Nat) (f : Troupe → Troupe) : (s.modTroupe t f).l1d = s.l1d := rfl
@[simp] theorem modTroupe_l2 (s : State) (t : Nat) (f : Troupe → Troupe) : (s.modTroupe t f).l2 = s.l2 := rfl
@[simp] theorem modTroupe_me (s : State) (t : Nat) (f : Troupe → Troupe) : (s.modTroupe t f).me = s.me := rfl
@[simp] theorem modTroupe_others (s : State) (t : Nat) (f : Troupe → Troupe) : (s.modTroupe t f).others = s.others := rfl
@[simp] theorem modTroupe_agenda (s : State) (t : Nat) (f : Troupe → Troupe) : (s.modTroupe t f).agenda = s.agenda := rfl
@[simp] theorem modTroupe_freeCtr (s : State) (t : Nat) (f : Troupe → Troupe) : (s.modTroupe t f).freeCtr = s.freeCtr := rfl
@[simp] theorem modTroupe_verdict (s : State) (t : Nat) (f : Troupe → Troupe) : (s.modTroupe t f).verdict = s.verdict := rfl
@[simp] theorem modTroupe_turnsOver (s : State) (t : Nat) (f : Troupe → Troupe) : (s.modTroupe t f).turnsOver = s.turnsOver := rfl
@[simp] theorem modTroupe_ports (s : State) (t : Nat) (f : Troupe → Troupe) : (s.modTroupe t f).ports = s.ports := rfl
@[simp] theorem modTroupe_clusters (s : State) (t : Nat) (f : Troupe → Troupe) : (s.modTroupe t f).clusters = s.clusters := rfl
@[simp] theorem modTroupe_dies (s : State) (t : Nat) (f : Troupe → Troupe) : (s.modTroupe t f).dies = s.dies := rfl
@[simp] theorem modTroupe_troupes (s : State) (t : Nat) (f : Troupe → Troupe) : (s.modTroupe t f).troupes = Tab.upd s.troupes t f := rfl
@[simp] theorem modTroupe_nextTroupe (s : State) (t : Nat) (f : Troupe → Troupe) : (s.modTroupe t f).nextTroupe = s.nextTroupe := rfl
@[simp] theorem modTroupe_placeQ (s : State) (t : Nat) (f : Troupe → Troupe) : (s.modTroupe t f).placeQ = s.placeQ := rfl
@[simp] theorem modTroupe_placeBusy (s : State) (t : Nat) (f : Troupe → Troupe) : (s.modTroupe t f).placeBusy = s.placeBusy := rfl
@[simp] theorem modTroupe_slotFreed (s : State) (t : Nat) (f : Troupe → Troupe) : (s.modTroupe t f).slotFreed = s.slotFreed := rfl
@[simp] theorem modTroupe_shipMap (s : State) (t : Nat) (f : Troupe → Troupe) : (s.modTroupe t f).shipMap = s.shipMap := rfl
@[simp] theorem modTroupe_scOps (s : State) (t : Nat) (f : Troupe → Troupe) : (s.modTroupe t f).scOps = s.scOps := rfl
@[simp] theorem modTroupe_queues (s : State) (t : Nat) (f : Troupe → Troupe) : (s.modTroupe t f).queues = s.queues := rfl
@[simp] theorem modTroupe_mgmt (s : State) (t : Nat) (f : Troupe → Troupe) : (s.modTroupe t f).mgmt = s.mgmt := rfl
@[simp] theorem modTroupe_sysObjs (s : State) (t : Nat) (f : Troupe → Troupe) : (s.modTroupe t f).sysObjs = s.sysObjs := rfl
@[simp] theorem modTroupe_sysRoot (s : State) (t : Nat) (f : Troupe → Troupe) : (s.modTroupe t f).sysRoot = s.sysRoot := rfl
@[simp] theorem modTroupe_poison (s : State) (t : Nat) (f : Troupe → Troupe) : (s.modTroupe t f).poison = s.poison := rfl
@[simp] theorem modTroupe_dirtyPoison (s : State) (t : Nat) (f : Troupe → Troupe) : (s.modTroupe t f).dirtyPoison = s.dirtyPoison := rfl
@[simp] theorem modTroupe_lostCtx (s : State) (t : Nat) (f : Troupe → Troupe) : (s.modTroupe t f).lostCtx = s.lostCtx := rfl
@[simp] theorem modTroupe_displaced (s : State) (t : Nat) (f : Troupe → Troupe) : (s.modTroupe t f).displaced = s.displaced := rfl
@[simp] theorem modTroupe_updating (s : State) (t : Nat) (f : Troupe → Troupe) : (s.modTroupe t f).updating = s.updating := rfl
@[simp] theorem modTroupe_toRestore (s : State) (t : Nat) (f : Troupe → Troupe) : (s.modTroupe t f).toRestore = s.toRestore := rfl
@[simp] theorem modTroupe_repair (s : State) (t : Nat) (f : Troupe → Troupe) : (s.modTroupe t f).repair = s.repair := rfl
@[simp] theorem modTroupe_repairOld (s : State) (t : Nat) (f : Troupe → Troupe) : (s.modTroupe t f).repairOld = s.repairOld := rfl
@[simp] theorem modTroupe_applied (s : State) (t : Nat) (f : Troupe → Troupe) : (s.modTroupe t f).applied = s.applied := rfl
@[simp] theorem modTroupe_struck (s : State) (t : Nat) (f : Troupe → Troupe) : (s.modTroupe t f).struck = s.struck := rfl
@[simp] theorem modTroupe_wear (s : State) (t : Nat) (f : Troupe → Troupe) : (s.modTroupe t f).wear = s.wear := rfl
@[simp] theorem modTroupe_remoteOut (s : State) (t : Nat) (f : Troupe → Troupe) : (s.modTroupe t f).remoteOut = s.remoteOut := rfl

/-! ### State.modQueue -/

@[simp] theorem modQueue_cycle (s : State) (q : Nat) (f : Queue → Queue) : (s.modQueue q f).cycle = s.cycle := rfl
@[simp] theorem modQueue_mem (s : State) (q : Nat) (f : Queue → Queue) : (s.modQueue q f).mem = memPutBytes s.mem (s.queueAddr q) (s.tableBytes q (f (s.queue q))) := rfl
@[simp] theorem modQueue_l1d (s : State) (q : Nat) (f : Queue → Queue) : (s.modQueue q f).l1d = s.l1d := rfl
@[simp] theorem modQueue_l2 (s : State) (q : Nat) (f : Queue → Queue) : (s.modQueue q f).l2 = s.l2 := rfl
@[simp] theorem modQueue_me (s : State) (q : Nat) (f : Queue → Queue) : (s.modQueue q f).me = s.me := rfl
@[simp] theorem modQueue_others (s : State) (q : Nat) (f : Queue → Queue) : (s.modQueue q f).others = s.others := rfl
@[simp] theorem modQueue_agenda (s : State) (q : Nat) (f : Queue → Queue) : (s.modQueue q f).agenda = s.agenda := rfl
@[simp] theorem modQueue_freeCtr (s : State) (q : Nat) (f : Queue → Queue) : (s.modQueue q f).freeCtr = s.freeCtr := rfl
@[simp] theorem modQueue_verdict (s : State) (q : Nat) (f : Queue → Queue) : (s.modQueue q f).verdict = s.verdict := rfl
@[simp] theorem modQueue_turnsOver (s : State) (q : Nat) (f : Queue → Queue) : (s.modQueue q f).turnsOver = s.turnsOver := rfl
@[simp] theorem modQueue_ports (s : State) (q : Nat) (f : Queue → Queue) : (s.modQueue q f).ports = s.ports := rfl
@[simp] theorem modQueue_clusters (s : State) (q : Nat) (f : Queue → Queue) : (s.modQueue q f).clusters = s.clusters := rfl
@[simp] theorem modQueue_dies (s : State) (q : Nat) (f : Queue → Queue) : (s.modQueue q f).dies = s.dies := rfl
@[simp] theorem modQueue_troupes (s : State) (q : Nat) (f : Queue → Queue) : (s.modQueue q f).troupes = s.troupes := rfl
@[simp] theorem modQueue_nextTroupe (s : State) (q : Nat) (f : Queue → Queue) : (s.modQueue q f).nextTroupe = s.nextTroupe := rfl
@[simp] theorem modQueue_placeQ (s : State) (q : Nat) (f : Queue → Queue) : (s.modQueue q f).placeQ = s.placeQ := rfl
@[simp] theorem modQueue_placeBusy (s : State) (q : Nat) (f : Queue → Queue) : (s.modQueue q f).placeBusy = s.placeBusy := rfl
@[simp] theorem modQueue_slotFreed (s : State) (q : Nat) (f : Queue → Queue) : (s.modQueue q f).slotFreed = s.slotFreed := rfl
@[simp] theorem modQueue_shipMap (s : State) (q : Nat) (f : Queue → Queue) : (s.modQueue q f).shipMap = s.shipMap := rfl
@[simp] theorem modQueue_scOps (s : State) (q : Nat) (f : Queue → Queue) : (s.modQueue q f).scOps = s.scOps := rfl
@[simp] theorem modQueue_queues (s : State) (q : Nat) (f : Queue → Queue) : (s.modQueue q f).queues = Tab.put s.queues q (f (s.queue q)) := rfl
@[simp] theorem modQueue_mgmt (s : State) (q : Nat) (f : Queue → Queue) : (s.modQueue q f).mgmt = s.mgmt := rfl
@[simp] theorem modQueue_sysObjs (s : State) (q : Nat) (f : Queue → Queue) : (s.modQueue q f).sysObjs = s.sysObjs := rfl
@[simp] theorem modQueue_sysRoot (s : State) (q : Nat) (f : Queue → Queue) : (s.modQueue q f).sysRoot = s.sysRoot := rfl
@[simp] theorem modQueue_dirtyPoison (s : State) (q : Nat) (f : Queue → Queue) : (s.modQueue q f).dirtyPoison = s.dirtyPoison := rfl
@[simp] theorem modQueue_lostCtx (s : State) (q : Nat) (f : Queue → Queue) : (s.modQueue q f).lostCtx = s.lostCtx := rfl
@[simp] theorem modQueue_displaced (s : State) (q : Nat) (f : Queue → Queue) : (s.modQueue q f).displaced = s.displaced := rfl
@[simp] theorem modQueue_updating (s : State) (q : Nat) (f : Queue → Queue) : (s.modQueue q f).updating = s.updating := rfl
@[simp] theorem modQueue_toRestore (s : State) (q : Nat) (f : Queue → Queue) : (s.modQueue q f).toRestore = s.toRestore := rfl
@[simp] theorem modQueue_repair (s : State) (q : Nat) (f : Queue → Queue) : (s.modQueue q f).repair = s.repair := rfl
@[simp] theorem modQueue_repairOld (s : State) (q : Nat) (f : Queue → Queue) : (s.modQueue q f).repairOld = s.repairOld := rfl
@[simp] theorem modQueue_applied (s : State) (q : Nat) (f : Queue → Queue) : (s.modQueue q f).applied = s.applied := rfl
@[simp] theorem modQueue_struck (s : State) (q : Nat) (f : Queue → Queue) : (s.modQueue q f).struck = s.struck := rfl
@[simp] theorem modQueue_wear (s : State) (q : Nat) (f : Queue → Queue) : (s.modQueue q f).wear = s.wear := rfl
@[simp] theorem modQueue_remoteOut (s : State) (q : Nat) (f : Queue → Queue) : (s.modQueue q f).remoteOut = s.remoteOut := rfl

/-! ### State.modMgmt -/

@[simp] theorem modMgmt_cycle (s : State) (f : Mgmt → Mgmt) : (s.modMgmt f).cycle = s.cycle := rfl
@[simp] theorem modMgmt_mem (s : State) (f : Mgmt → Mgmt) : (s.modMgmt f).mem = s.mem := rfl
@[simp] theorem modMgmt_l1d (s : State) (f : Mgmt → Mgmt) : (s.modMgmt f).l1d = s.l1d := rfl
@[simp] theorem modMgmt_l2 (s : State) (f : Mgmt → Mgmt) : (s.modMgmt f).l2 = s.l2 := rfl
@[simp] theorem modMgmt_me (s : State) (f : Mgmt → Mgmt) : (s.modMgmt f).me = s.me := rfl
@[simp] theorem modMgmt_others (s : State) (f : Mgmt → Mgmt) : (s.modMgmt f).others = s.others := rfl
@[simp] theorem modMgmt_agenda (s : State) (f : Mgmt → Mgmt) : (s.modMgmt f).agenda = s.agenda := rfl
@[simp] theorem modMgmt_freeCtr (s : State) (f : Mgmt → Mgmt) : (s.modMgmt f).freeCtr = s.freeCtr := rfl
@[simp] theorem modMgmt_verdict (s : State) (f : Mgmt → Mgmt) : (s.modMgmt f).verdict = s.verdict := rfl
@[simp] theorem modMgmt_turnsOver (s : State) (f : Mgmt → Mgmt) : (s.modMgmt f).turnsOver = s.turnsOver := rfl
@[simp] theorem modMgmt_ports (s : State) (f : Mgmt → Mgmt) : (s.modMgmt f).ports = s.ports := rfl
@[simp] theorem modMgmt_clusters (s : State) (f : Mgmt → Mgmt) : (s.modMgmt f).clusters = s.clusters := rfl
@[simp] theorem modMgmt_dies (s : State) (f : Mgmt → Mgmt) : (s.modMgmt f).dies = s.dies := rfl
@[simp] theorem modMgmt_troupes (s : State) (f : Mgmt → Mgmt) : (s.modMgmt f).troupes = s.troupes := rfl
@[simp] theorem modMgmt_nextTroupe (s : State) (f : Mgmt → Mgmt) : (s.modMgmt f).nextTroupe = s.nextTroupe := rfl
@[simp] theorem modMgmt_placeQ (s : State) (f : Mgmt → Mgmt) : (s.modMgmt f).placeQ = s.placeQ := rfl
@[simp] theorem modMgmt_placeBusy (s : State) (f : Mgmt → Mgmt) : (s.modMgmt f).placeBusy = s.placeBusy := rfl
@[simp] theorem modMgmt_slotFreed (s : State) (f : Mgmt → Mgmt) : (s.modMgmt f).slotFreed = s.slotFreed := rfl
@[simp] theorem modMgmt_shipMap (s : State) (f : Mgmt → Mgmt) : (s.modMgmt f).shipMap = s.shipMap := rfl
@[simp] theorem modMgmt_scOps (s : State) (f : Mgmt → Mgmt) : (s.modMgmt f).scOps = s.scOps := rfl
@[simp] theorem modMgmt_queues (s : State) (f : Mgmt → Mgmt) : (s.modMgmt f).queues = s.queues := rfl
@[simp] theorem modMgmt_mgmt (s : State) (f : Mgmt → Mgmt) : (s.modMgmt f).mgmt = f s.mgmt := rfl
@[simp] theorem modMgmt_sysObjs (s : State) (f : Mgmt → Mgmt) : (s.modMgmt f).sysObjs = s.sysObjs := rfl
@[simp] theorem modMgmt_sysRoot (s : State) (f : Mgmt → Mgmt) : (s.modMgmt f).sysRoot = s.sysRoot := rfl
@[simp] theorem modMgmt_poison (s : State) (f : Mgmt → Mgmt) : (s.modMgmt f).poison = s.poison := rfl
@[simp] theorem modMgmt_dirtyPoison (s : State) (f : Mgmt → Mgmt) : (s.modMgmt f).dirtyPoison = s.dirtyPoison := rfl
@[simp] theorem modMgmt_lostCtx (s : State) (f : Mgmt → Mgmt) : (s.modMgmt f).lostCtx = s.lostCtx := rfl
@[simp] theorem modMgmt_displaced (s : State) (f : Mgmt → Mgmt) : (s.modMgmt f).displaced = s.displaced := rfl
@[simp] theorem modMgmt_updating (s : State) (f : Mgmt → Mgmt) : (s.modMgmt f).updating = s.updating := rfl
@[simp] theorem modMgmt_toRestore (s : State) (f : Mgmt → Mgmt) : (s.modMgmt f).toRestore = s.toRestore := rfl
@[simp] theorem modMgmt_repair (s : State) (f : Mgmt → Mgmt) : (s.modMgmt f).repair = s.repair := rfl
@[simp] theorem modMgmt_repairOld (s : State) (f : Mgmt → Mgmt) : (s.modMgmt f).repairOld = s.repairOld := rfl
@[simp] theorem modMgmt_applied (s : State) (f : Mgmt → Mgmt) : (s.modMgmt f).applied = s.applied := rfl
@[simp] theorem modMgmt_struck (s : State) (f : Mgmt → Mgmt) : (s.modMgmt f).struck = s.struck := rfl
@[simp] theorem modMgmt_wear (s : State) (f : Mgmt → Mgmt) : (s.modMgmt f).wear = s.wear := rfl
@[simp] theorem modMgmt_remoteOut (s : State) (f : Mgmt → Mgmt) : (s.modMgmt f).remoteOut = s.remoteOut := rfl

/-! ### State.after -/

@[simp] theorem after_cycle (s : State) (n : Nat) (e : Instr) : (s.after n e).cycle = s.cycle := rfl
@[simp] theorem after_mem (s : State) (n : Nat) (e : Instr) : (s.after n e).mem = s.mem := rfl
@[simp] theorem after_l1d (s : State) (n : Nat) (e : Instr) : (s.after n e).l1d = s.l1d := rfl
@[simp] theorem after_l2 (s : State) (n : Nat) (e : Instr) : (s.after n e).l2 = s.l2 := rfl
@[simp] theorem after_me (s : State) (n : Nat) (e : Instr) : (s.after n e).me = s.me := rfl
@[simp] theorem after_others (s : State) (n : Nat) (e : Instr) : (s.after n e).others = s.others := rfl
@[simp] theorem after_agenda (s : State) (n : Nat) (e : Instr) : (s.after n e).agenda = insertEvent (s.cycle + n) e s.agenda := rfl
@[simp] theorem after_freeCtr (s : State) (n : Nat) (e : Instr) : (s.after n e).freeCtr = s.freeCtr := rfl
@[simp] theorem after_verdict (s : State) (n : Nat) (e : Instr) : (s.after n e).verdict = s.verdict := rfl
@[simp] theorem after_turnsOver (s : State) (n : Nat) (e : Instr) : (s.after n e).turnsOver = s.turnsOver := rfl
@[simp] theorem after_ports (s : State) (n : Nat) (e : Instr) : (s.after n e).ports = s.ports := rfl
@[simp] theorem after_clusters (s : State) (n : Nat) (e : Instr) : (s.after n e).clusters = s.clusters := rfl
@[simp] theorem after_dies (s : State) (n : Nat) (e : Instr) : (s.after n e).dies = s.dies := rfl
@[simp] theorem after_troupes (s : State) (n : Nat) (e : Instr) : (s.after n e).troupes = s.troupes := rfl
@[simp] theorem after_nextTroupe (s : State) (n : Nat) (e : Instr) : (s.after n e).nextTroupe = s.nextTroupe := rfl
@[simp] theorem after_placeQ (s : State) (n : Nat) (e : Instr) : (s.after n e).placeQ = s.placeQ := rfl
@[simp] theorem after_placeBusy (s : State) (n : Nat) (e : Instr) : (s.after n e).placeBusy = s.placeBusy := rfl
@[simp] theorem after_slotFreed (s : State) (n : Nat) (e : Instr) : (s.after n e).slotFreed = s.slotFreed := rfl
@[simp] theorem after_shipMap (s : State) (n : Nat) (e : Instr) : (s.after n e).shipMap = s.shipMap := rfl
@[simp] theorem after_scOps (s : State) (n : Nat) (e : Instr) : (s.after n e).scOps = s.scOps := rfl
@[simp] theorem after_queues (s : State) (n : Nat) (e : Instr) : (s.after n e).queues = s.queues := rfl
@[simp] theorem after_mgmt (s : State) (n : Nat) (e : Instr) : (s.after n e).mgmt = s.mgmt := rfl
@[simp] theorem after_sysObjs (s : State) (n : Nat) (e : Instr) : (s.after n e).sysObjs = s.sysObjs := rfl
@[simp] theorem after_sysRoot (s : State) (n : Nat) (e : Instr) : (s.after n e).sysRoot = s.sysRoot := rfl
@[simp] theorem after_poison (s : State) (n : Nat) (e : Instr) : (s.after n e).poison = s.poison := rfl
@[simp] theorem after_dirtyPoison (s : State) (n : Nat) (e : Instr) : (s.after n e).dirtyPoison = s.dirtyPoison := rfl
@[simp] theorem after_lostCtx (s : State) (n : Nat) (e : Instr) : (s.after n e).lostCtx = s.lostCtx := rfl
@[simp] theorem after_displaced (s : State) (n : Nat) (e : Instr) : (s.after n e).displaced = s.displaced := rfl
@[simp] theorem after_updating (s : State) (n : Nat) (e : Instr) : (s.after n e).updating = s.updating := rfl
@[simp] theorem after_toRestore (s : State) (n : Nat) (e : Instr) : (s.after n e).toRestore = s.toRestore := rfl
@[simp] theorem after_repair (s : State) (n : Nat) (e : Instr) : (s.after n e).repair = s.repair := rfl
@[simp] theorem after_repairOld (s : State) (n : Nat) (e : Instr) : (s.after n e).repairOld = s.repairOld := rfl
@[simp] theorem after_applied (s : State) (n : Nat) (e : Instr) : (s.after n e).applied = s.applied := rfl
@[simp] theorem after_struck (s : State) (n : Nat) (e : Instr) : (s.after n e).struck = s.struck := rfl
@[simp] theorem after_wear (s : State) (n : Nat) (e : Instr) : (s.after n e).wear = s.wear := rfl
@[simp] theorem after_remoteOut (s : State) (n : Nat) (e : Instr) : (s.after n e).remoteOut = s.remoteOut := rfl

/-! ### State.atCycle -/

@[simp] theorem atCycle_cycle (s : State) (n : Nat) (e : Instr) : (s.atCycle n e).cycle = s.cycle := rfl
@[simp] theorem atCycle_mem (s : State) (n : Nat) (e : Instr) : (s.atCycle n e).mem = s.mem := rfl
@[simp] theorem atCycle_l1d (s : State) (n : Nat) (e : Instr) : (s.atCycle n e).l1d = s.l1d := rfl
@[simp] theorem atCycle_l2 (s : State) (n : Nat) (e : Instr) : (s.atCycle n e).l2 = s.l2 := rfl
@[simp] theorem atCycle_me (s : State) (n : Nat) (e : Instr) : (s.atCycle n e).me = s.me := rfl
@[simp] theorem atCycle_others (s : State) (n : Nat) (e : Instr) : (s.atCycle n e).others = s.others := rfl
@[simp] theorem atCycle_agenda (s : State) (n : Nat) (e : Instr) : (s.atCycle n e).agenda = insertEvent (if n < s.cycle then s.cycle else n) e s.agenda := rfl
@[simp] theorem atCycle_freeCtr (s : State) (n : Nat) (e : Instr) : (s.atCycle n e).freeCtr = s.freeCtr := rfl
@[simp] theorem atCycle_verdict (s : State) (n : Nat) (e : Instr) : (s.atCycle n e).verdict = s.verdict := rfl
@[simp] theorem atCycle_turnsOver (s : State) (n : Nat) (e : Instr) : (s.atCycle n e).turnsOver = s.turnsOver := rfl
@[simp] theorem atCycle_ports (s : State) (n : Nat) (e : Instr) : (s.atCycle n e).ports = s.ports := rfl
@[simp] theorem atCycle_clusters (s : State) (n : Nat) (e : Instr) : (s.atCycle n e).clusters = s.clusters := rfl
@[simp] theorem atCycle_dies (s : State) (n : Nat) (e : Instr) : (s.atCycle n e).dies = s.dies := rfl
@[simp] theorem atCycle_troupes (s : State) (n : Nat) (e : Instr) : (s.atCycle n e).troupes = s.troupes := rfl
@[simp] theorem atCycle_nextTroupe (s : State) (n : Nat) (e : Instr) : (s.atCycle n e).nextTroupe = s.nextTroupe := rfl
@[simp] theorem atCycle_placeQ (s : State) (n : Nat) (e : Instr) : (s.atCycle n e).placeQ = s.placeQ := rfl
@[simp] theorem atCycle_placeBusy (s : State) (n : Nat) (e : Instr) : (s.atCycle n e).placeBusy = s.placeBusy := rfl
@[simp] theorem atCycle_slotFreed (s : State) (n : Nat) (e : Instr) : (s.atCycle n e).slotFreed = s.slotFreed := rfl
@[simp] theorem atCycle_shipMap (s : State) (n : Nat) (e : Instr) : (s.atCycle n e).shipMap = s.shipMap := rfl
@[simp] theorem atCycle_scOps (s : State) (n : Nat) (e : Instr) : (s.atCycle n e).scOps = s.scOps := rfl
@[simp] theorem atCycle_queues (s : State) (n : Nat) (e : Instr) : (s.atCycle n e).queues = s.queues := rfl
@[simp] theorem atCycle_mgmt (s : State) (n : Nat) (e : Instr) : (s.atCycle n e).mgmt = s.mgmt := rfl
@[simp] theorem atCycle_sysObjs (s : State) (n : Nat) (e : Instr) : (s.atCycle n e).sysObjs = s.sysObjs := rfl
@[simp] theorem atCycle_sysRoot (s : State) (n : Nat) (e : Instr) : (s.atCycle n e).sysRoot = s.sysRoot := rfl
@[simp] theorem atCycle_poison (s : State) (n : Nat) (e : Instr) : (s.atCycle n e).poison = s.poison := rfl
@[simp] theorem atCycle_dirtyPoison (s : State) (n : Nat) (e : Instr) : (s.atCycle n e).dirtyPoison = s.dirtyPoison := rfl
@[simp] theorem atCycle_lostCtx (s : State) (n : Nat) (e : Instr) : (s.atCycle n e).lostCtx = s.lostCtx := rfl
@[simp] theorem atCycle_displaced (s : State) (n : Nat) (e : Instr) : (s.atCycle n e).displaced = s.displaced := rfl
@[simp] theorem atCycle_updating (s : State) (n : Nat) (e : Instr) : (s.atCycle n e).updating = s.updating := rfl
@[simp] theorem atCycle_toRestore (s : State) (n : Nat) (e : Instr) : (s.atCycle n e).toRestore = s.toRestore := rfl
@[simp] theorem atCycle_repair (s : State) (n : Nat) (e : Instr) : (s.atCycle n e).repair = s.repair := rfl
@[simp] theorem atCycle_repairOld (s : State) (n : Nat) (e : Instr) : (s.atCycle n e).repairOld = s.repairOld := rfl
@[simp] theorem atCycle_applied (s : State) (n : Nat) (e : Instr) : (s.atCycle n e).applied = s.applied := rfl
@[simp] theorem atCycle_struck (s : State) (n : Nat) (e : Instr) : (s.atCycle n e).struck = s.struck := rfl
@[simp] theorem atCycle_wear (s : State) (n : Nat) (e : Instr) : (s.atCycle n e).wear = s.wear := rfl
@[simp] theorem atCycle_remoteOut (s : State) (n : Nat) (e : Instr) : (s.atCycle n e).remoteOut = s.remoteOut := rfl

/-! ### State.bump -/

@[simp] theorem bump_cycle (s : State) (n : Nat) : (s.bump n).cycle = s.cycle := rfl
@[simp] theorem bump_mem (s : State) (n : Nat) : (s.bump n).mem = s.mem := rfl
@[simp] theorem bump_l1d (s : State) (n : Nat) : (s.bump n).l1d = s.l1d := rfl
@[simp] theorem bump_l2 (s : State) (n : Nat) : (s.bump n).l2 = s.l2 := rfl
@[simp] theorem bump_me (s : State) (n : Nat) : (s.bump n).me = s.me := rfl
@[simp] theorem bump_others (s : State) (n : Nat) : (s.bump n).others = s.others := rfl
@[simp] theorem bump_agenda (s : State) (n : Nat) : (s.bump n).agenda = s.agenda := rfl
@[simp] theorem bump_freeCtr (s : State) (n : Nat) : (s.bump n).freeCtr = s.freeCtr + n := rfl
@[simp] theorem bump_verdict (s : State) (n : Nat) : (s.bump n).verdict = s.verdict := rfl
@[simp] theorem bump_turnsOver (s : State) (n : Nat) : (s.bump n).turnsOver = s.turnsOver := rfl
@[simp] theorem bump_ports (s : State) (n : Nat) : (s.bump n).ports = s.ports := rfl
@[simp] theorem bump_clusters (s : State) (n : Nat) : (s.bump n).clusters = s.clusters := rfl
@[simp] theorem bump_dies (s : State) (n : Nat) : (s.bump n).dies = s.dies := rfl
@[simp] theorem bump_troupes (s : State) (n : Nat) : (s.bump n).troupes = s.troupes := rfl
@[simp] theorem bump_nextTroupe (s : State) (n : Nat) : (s.bump n).nextTroupe = s.nextTroupe := rfl
@[simp] theorem bump_placeQ (s : State) (n : Nat) : (s.bump n).placeQ = s.placeQ := rfl
@[simp] theorem bump_placeBusy (s : State) (n : Nat) : (s.bump n).placeBusy = s.placeBusy := rfl
@[simp] theorem bump_slotFreed (s : State) (n : Nat) : (s.bump n).slotFreed = s.slotFreed := rfl
@[simp] theorem bump_shipMap (s : State) (n : Nat) : (s.bump n).shipMap = s.shipMap := rfl
@[simp] theorem bump_scOps (s : State) (n : Nat) : (s.bump n).scOps = s.scOps := rfl
@[simp] theorem bump_queues (s : State) (n : Nat) : (s.bump n).queues = s.queues := rfl
@[simp] theorem bump_mgmt (s : State) (n : Nat) : (s.bump n).mgmt = s.mgmt := rfl
@[simp] theorem bump_sysObjs (s : State) (n : Nat) : (s.bump n).sysObjs = s.sysObjs := rfl
@[simp] theorem bump_sysRoot (s : State) (n : Nat) : (s.bump n).sysRoot = s.sysRoot := rfl
@[simp] theorem bump_poison (s : State) (n : Nat) : (s.bump n).poison = s.poison := rfl
@[simp] theorem bump_dirtyPoison (s : State) (n : Nat) : (s.bump n).dirtyPoison = s.dirtyPoison := rfl
@[simp] theorem bump_lostCtx (s : State) (n : Nat) : (s.bump n).lostCtx = s.lostCtx := rfl
@[simp] theorem bump_displaced (s : State) (n : Nat) : (s.bump n).displaced = s.displaced := rfl
@[simp] theorem bump_updating (s : State) (n : Nat) : (s.bump n).updating = s.updating := rfl
@[simp] theorem bump_toRestore (s : State) (n : Nat) : (s.bump n).toRestore = s.toRestore := rfl
@[simp] theorem bump_repair (s : State) (n : Nat) : (s.bump n).repair = s.repair := rfl
@[simp] theorem bump_repairOld (s : State) (n : Nat) : (s.bump n).repairOld = s.repairOld := rfl
@[simp] theorem bump_applied (s : State) (n : Nat) : (s.bump n).applied = s.applied := rfl
@[simp] theorem bump_struck (s : State) (n : Nat) : (s.bump n).struck = s.struck := rfl
@[simp] theorem bump_wear (s : State) (n : Nat) : (s.bump n).wear = s.wear := rfl
@[simp] theorem bump_remoteOut (s : State) (n : Nat) : (s.bump n).remoteOut = s.remoteOut := rfl

/-! ### State.write -/

@[simp] theorem write_cycle (s : State) (loc n v : Nat) : (s.write loc n v).cycle = s.cycle := rfl
@[simp] theorem write_mem (s : State) (loc n v : Nat) : (s.write loc n v).mem = memWrite s.mem loc n v := rfl
@[simp] theorem write_l1d (s : State) (loc n v : Nat) : (s.write loc n v).l1d = s.l1d := rfl
@[simp] theorem write_l2 (s : State) (loc n v : Nat) : (s.write loc n v).l2 = s.l2 := rfl
@[simp] theorem write_me (s : State) (loc n v : Nat) : (s.write loc n v).me = s.me := rfl
@[simp] theorem write_others (s : State) (loc n v : Nat) : (s.write loc n v).others = s.others := rfl
@[simp] theorem write_agenda (s : State) (loc n v : Nat) : (s.write loc n v).agenda = s.agenda := rfl
@[simp] theorem write_freeCtr (s : State) (loc n v : Nat) : (s.write loc n v).freeCtr = s.freeCtr := rfl
@[simp] theorem write_verdict (s : State) (loc n v : Nat) : (s.write loc n v).verdict = s.verdict := rfl
@[simp] theorem write_turnsOver (s : State) (loc n v : Nat) : (s.write loc n v).turnsOver = s.turnsOver := rfl
@[simp] theorem write_ports (s : State) (loc n v : Nat) : (s.write loc n v).ports = s.ports := rfl
@[simp] theorem write_clusters (s : State) (loc n v : Nat) : (s.write loc n v).clusters = s.clusters := rfl
@[simp] theorem write_dies (s : State) (loc n v : Nat) : (s.write loc n v).dies = s.dies := rfl
@[simp] theorem write_troupes (s : State) (loc n v : Nat) : (s.write loc n v).troupes = s.troupes := rfl
@[simp] theorem write_nextTroupe (s : State) (loc n v : Nat) : (s.write loc n v).nextTroupe = s.nextTroupe := rfl
@[simp] theorem write_placeQ (s : State) (loc n v : Nat) : (s.write loc n v).placeQ = s.placeQ := rfl
@[simp] theorem write_placeBusy (s : State) (loc n v : Nat) : (s.write loc n v).placeBusy = s.placeBusy := rfl
@[simp] theorem write_slotFreed (s : State) (loc n v : Nat) : (s.write loc n v).slotFreed = s.slotFreed := rfl
@[simp] theorem write_shipMap (s : State) (loc n v : Nat) : (s.write loc n v).shipMap = s.shipMap := rfl
@[simp] theorem write_scOps (s : State) (loc n v : Nat) : (s.write loc n v).scOps = s.scOps := rfl
@[simp] theorem write_queues (s : State) (loc n v : Nat) : (s.write loc n v).queues = s.queues := rfl
@[simp] theorem write_mgmt (s : State) (loc n v : Nat) : (s.write loc n v).mgmt = s.mgmt := rfl
@[simp] theorem write_sysObjs (s : State) (loc n v : Nat) : (s.write loc n v).sysObjs = s.sysObjs := rfl
@[simp] theorem write_sysRoot (s : State) (loc n v : Nat) : (s.write loc n v).sysRoot = s.sysRoot := rfl
@[simp] theorem write_dirtyPoison (s : State) (loc n v : Nat) : (s.write loc n v).dirtyPoison = s.dirtyPoison := rfl
@[simp] theorem write_lostCtx (s : State) (loc n v : Nat) : (s.write loc n v).lostCtx = s.lostCtx := rfl
@[simp] theorem write_displaced (s : State) (loc n v : Nat) : (s.write loc n v).displaced = s.displaced := rfl
@[simp] theorem write_updating (s : State) (loc n v : Nat) : (s.write loc n v).updating = s.updating := rfl
@[simp] theorem write_toRestore (s : State) (loc n v : Nat) : (s.write loc n v).toRestore = s.toRestore := rfl
@[simp] theorem write_repair (s : State) (loc n v : Nat) : (s.write loc n v).repair = s.repair := rfl
@[simp] theorem write_repairOld (s : State) (loc n v : Nat) : (s.write loc n v).repairOld = s.repairOld := rfl
@[simp] theorem write_applied (s : State) (loc n v : Nat) : (s.write loc n v).applied = s.applied := rfl
@[simp] theorem write_struck (s : State) (loc n v : Nat) : (s.write loc n v).struck = s.struck := rfl
@[simp] theorem write_wear (s : State) (loc n v : Nat) : (s.write loc n v).wear = s.wear := rfl
@[simp] theorem write_remoteOut (s : State) (loc n v : Nat) : (s.write loc n v).remoteOut = s.remoteOut := rfl

/-! ### State.clear -/

@[simp] theorem clear_cycle (s : State) (loc n : Nat) : (s.clear loc n).cycle = s.cycle := rfl
@[simp] theorem clear_mem (s : State) (loc n : Nat) : (s.clear loc n).mem = memClear s.mem loc n := rfl
@[simp] theorem clear_l1d (s : State) (loc n : Nat) : (s.clear loc n).l1d = s.l1d := rfl
@[simp] theorem clear_l2 (s : State) (loc n : Nat) : (s.clear loc n).l2 = s.l2 := rfl
@[simp] theorem clear_me (s : State) (loc n : Nat) : (s.clear loc n).me = s.me := rfl
@[simp] theorem clear_others (s : State) (loc n : Nat) : (s.clear loc n).others = s.others := rfl
@[simp] theorem clear_agenda (s : State) (loc n : Nat) : (s.clear loc n).agenda = s.agenda := rfl
@[simp] theorem clear_freeCtr (s : State) (loc n : Nat) : (s.clear loc n).freeCtr = s.freeCtr := rfl
@[simp] theorem clear_verdict (s : State) (loc n : Nat) : (s.clear loc n).verdict = s.verdict := rfl
@[simp] theorem clear_turnsOver (s : State) (loc n : Nat) : (s.clear loc n).turnsOver = s.turnsOver := rfl
@[simp] theorem clear_ports (s : State) (loc n : Nat) : (s.clear loc n).ports = s.ports := rfl
@[simp] theorem clear_clusters (s : State) (loc n : Nat) : (s.clear loc n).clusters = s.clusters := rfl
@[simp] theorem clear_dies (s : State) (loc n : Nat) : (s.clear loc n).dies = s.dies := rfl
@[simp] theorem clear_troupes (s : State) (loc n : Nat) : (s.clear loc n).troupes = s.troupes := rfl
@[simp] theorem clear_nextTroupe (s : State) (loc n : Nat) : (s.clear loc n).nextTroupe = s.nextTroupe := rfl
@[simp] theorem clear_placeQ (s : State) (loc n : Nat) : (s.clear loc n).placeQ = s.placeQ := rfl
@[simp] theorem clear_placeBusy (s : State) (loc n : Nat) : (s.clear loc n).placeBusy = s.placeBusy := rfl
@[simp] theorem clear_slotFreed (s : State) (loc n : Nat) : (s.clear loc n).slotFreed = s.slotFreed := rfl
@[simp] theorem clear_shipMap (s : State) (loc n : Nat) : (s.clear loc n).shipMap = s.shipMap := rfl
@[simp] theorem clear_scOps (s : State) (loc n : Nat) : (s.clear loc n).scOps = s.scOps := rfl
@[simp] theorem clear_queues (s : State) (loc n : Nat) : (s.clear loc n).queues = s.queues := rfl
@[simp] theorem clear_mgmt (s : State) (loc n : Nat) : (s.clear loc n).mgmt = s.mgmt := rfl
@[simp] theorem clear_sysObjs (s : State) (loc n : Nat) : (s.clear loc n).sysObjs = s.sysObjs := rfl
@[simp] theorem clear_sysRoot (s : State) (loc n : Nat) : (s.clear loc n).sysRoot = s.sysRoot := rfl
@[simp] theorem clear_dirtyPoison (s : State) (loc n : Nat) : (s.clear loc n).dirtyPoison = s.dirtyPoison := rfl
@[simp] theorem clear_lostCtx (s : State) (loc n : Nat) : (s.clear loc n).lostCtx = s.lostCtx := rfl
@[simp] theorem clear_displaced (s : State) (loc n : Nat) : (s.clear loc n).displaced = s.displaced := rfl
@[simp] theorem clear_updating (s : State) (loc n : Nat) : (s.clear loc n).updating = s.updating := rfl
@[simp] theorem clear_toRestore (s : State) (loc n : Nat) : (s.clear loc n).toRestore = s.toRestore := rfl
@[simp] theorem clear_repair (s : State) (loc n : Nat) : (s.clear loc n).repair = s.repair := rfl
@[simp] theorem clear_repairOld (s : State) (loc n : Nat) : (s.clear loc n).repairOld = s.repairOld := rfl
@[simp] theorem clear_applied (s : State) (loc n : Nat) : (s.clear loc n).applied = s.applied := rfl
@[simp] theorem clear_struck (s : State) (loc n : Nat) : (s.clear loc n).struck = s.struck := rfl
@[simp] theorem clear_wear (s : State) (loc n : Nat) : (s.clear loc n).wear = s.wear := rfl
@[simp] theorem clear_remoteOut (s : State) (loc n : Nat) : (s.clear loc n).remoteOut = s.remoteOut := rfl

/-! ### State.writeBytes -/

@[simp] theorem writeBytes_cycle (s : State) (loc : Nat) (bs : List Byte) : (s.writeBytes loc bs).cycle = s.cycle := rfl
@[simp] theorem writeBytes_mem (s : State) (loc : Nat) (bs : List Byte) : (s.writeBytes loc bs).mem = memPutBytes s.mem loc bs := rfl
@[simp] theorem writeBytes_l1d (s : State) (loc : Nat) (bs : List Byte) : (s.writeBytes loc bs).l1d = s.l1d := rfl
@[simp] theorem writeBytes_l2 (s : State) (loc : Nat) (bs : List Byte) : (s.writeBytes loc bs).l2 = s.l2 := rfl
@[simp] theorem writeBytes_me (s : State) (loc : Nat) (bs : List Byte) : (s.writeBytes loc bs).me = s.me := rfl
@[simp] theorem writeBytes_others (s : State) (loc : Nat) (bs : List Byte) : (s.writeBytes loc bs).others = s.others := rfl
@[simp] theorem writeBytes_agenda (s : State) (loc : Nat) (bs : List Byte) : (s.writeBytes loc bs).agenda = s.agenda := rfl
@[simp] theorem writeBytes_freeCtr (s : State) (loc : Nat) (bs : List Byte) : (s.writeBytes loc bs).freeCtr = s.freeCtr := rfl
@[simp] theorem writeBytes_verdict (s : State) (loc : Nat) (bs : List Byte) : (s.writeBytes loc bs).verdict = s.verdict := rfl
@[simp] theorem writeBytes_turnsOver (s : State) (loc : Nat) (bs : List Byte) : (s.writeBytes loc bs).turnsOver = s.turnsOver := rfl
@[simp] theorem writeBytes_ports (s : State) (loc : Nat) (bs : List Byte) : (s.writeBytes loc bs).ports = s.ports := rfl
@[simp] theorem writeBytes_clusters (s : State) (loc : Nat) (bs : List Byte) : (s.writeBytes loc bs).clusters = s.clusters := rfl
@[simp] theorem writeBytes_dies (s : State) (loc : Nat) (bs : List Byte) : (s.writeBytes loc bs).dies = s.dies := rfl
@[simp] theorem writeBytes_troupes (s : State) (loc : Nat) (bs : List Byte) : (s.writeBytes loc bs).troupes = s.troupes := rfl
@[simp] theorem writeBytes_nextTroupe (s : State) (loc : Nat) (bs : List Byte) : (s.writeBytes loc bs).nextTroupe = s.nextTroupe := rfl
@[simp] theorem writeBytes_placeQ (s : State) (loc : Nat) (bs : List Byte) : (s.writeBytes loc bs).placeQ = s.placeQ := rfl
@[simp] theorem writeBytes_placeBusy (s : State) (loc : Nat) (bs : List Byte) : (s.writeBytes loc bs).placeBusy = s.placeBusy := rfl
@[simp] theorem writeBytes_slotFreed (s : State) (loc : Nat) (bs : List Byte) : (s.writeBytes loc bs).slotFreed = s.slotFreed := rfl
@[simp] theorem writeBytes_shipMap (s : State) (loc : Nat) (bs : List Byte) : (s.writeBytes loc bs).shipMap = s.shipMap := rfl
@[simp] theorem writeBytes_scOps (s : State) (loc : Nat) (bs : List Byte) : (s.writeBytes loc bs).scOps = s.scOps := rfl
@[simp] theorem writeBytes_queues (s : State) (loc : Nat) (bs : List Byte) : (s.writeBytes loc bs).queues = s.queues := rfl
@[simp] theorem writeBytes_mgmt (s : State) (loc : Nat) (bs : List Byte) : (s.writeBytes loc bs).mgmt = s.mgmt := rfl
@[simp] theorem writeBytes_sysObjs (s : State) (loc : Nat) (bs : List Byte) : (s.writeBytes loc bs).sysObjs = s.sysObjs := rfl
@[simp] theorem writeBytes_sysRoot (s : State) (loc : Nat) (bs : List Byte) : (s.writeBytes loc bs).sysRoot = s.sysRoot := rfl
@[simp] theorem writeBytes_dirtyPoison (s : State) (loc : Nat) (bs : List Byte) : (s.writeBytes loc bs).dirtyPoison = s.dirtyPoison := rfl
@[simp] theorem writeBytes_lostCtx (s : State) (loc : Nat) (bs : List Byte) : (s.writeBytes loc bs).lostCtx = s.lostCtx := rfl
@[simp] theorem writeBytes_displaced (s : State) (loc : Nat) (bs : List Byte) : (s.writeBytes loc bs).displaced = s.displaced := rfl
@[simp] theorem writeBytes_updating (s : State) (loc : Nat) (bs : List Byte) : (s.writeBytes loc bs).updating = s.updating := rfl
@[simp] theorem writeBytes_toRestore (s : State) (loc : Nat) (bs : List Byte) : (s.writeBytes loc bs).toRestore = s.toRestore := rfl
@[simp] theorem writeBytes_repair (s : State) (loc : Nat) (bs : List Byte) : (s.writeBytes loc bs).repair = s.repair := rfl
@[simp] theorem writeBytes_repairOld (s : State) (loc : Nat) (bs : List Byte) : (s.writeBytes loc bs).repairOld = s.repairOld := rfl
@[simp] theorem writeBytes_applied (s : State) (loc : Nat) (bs : List Byte) : (s.writeBytes loc bs).applied = s.applied := rfl
@[simp] theorem writeBytes_struck (s : State) (loc : Nat) (bs : List Byte) : (s.writeBytes loc bs).struck = s.struck := rfl
@[simp] theorem writeBytes_wear (s : State) (loc : Nat) (bs : List Byte) : (s.writeBytes loc bs).wear = s.wear := rfl
@[simp] theorem writeBytes_remoteOut (s : State) (loc : Nat) (bs : List Byte) : (s.writeBytes loc bs).remoteOut = s.remoteOut := rfl

/-! ### State.fin -/

@[simp] theorem fin_cycle (s : State) (n : Nat) (c : Bool) : (s.fin n c).cycle = s.cycle := rfl
@[simp] theorem fin_mem (s : State) (n : Nat) (c : Bool) : (s.fin n c).mem = s.mem := rfl
@[simp] theorem fin_l1d (s : State) (n : Nat) (c : Bool) : (s.fin n c).l1d = s.l1d := rfl
@[simp] theorem fin_l2 (s : State) (n : Nat) (c : Bool) : (s.fin n c).l2 = s.l2 := rfl
@[simp] theorem fin_me (s : State) (n : Nat) (c : Bool) : (s.fin n c).me = s.me.retire n c := rfl
@[simp] theorem fin_others (s : State) (n : Nat) (c : Bool) : (s.fin n c).others = s.others := rfl
@[simp] theorem fin_agenda (s : State) (n : Nat) (c : Bool) : (s.fin n c).agenda = s.agenda := rfl
@[simp] theorem fin_freeCtr (s : State) (n : Nat) (c : Bool) : (s.fin n c).freeCtr = s.freeCtr := rfl
@[simp] theorem fin_verdict (s : State) (n : Nat) (c : Bool) : (s.fin n c).verdict = s.verdict := rfl
@[simp] theorem fin_turnsOver (s : State) (n : Nat) (c : Bool) : (s.fin n c).turnsOver = s.turnsOver := rfl
@[simp] theorem fin_ports (s : State) (n : Nat) (c : Bool) : (s.fin n c).ports = s.ports := rfl
@[simp] theorem fin_clusters (s : State) (n : Nat) (c : Bool) : (s.fin n c).clusters = s.clusters := rfl
@[simp] theorem fin_dies (s : State) (n : Nat) (c : Bool) : (s.fin n c).dies = s.dies := rfl
@[simp] theorem fin_troupes (s : State) (n : Nat) (c : Bool) : (s.fin n c).troupes = s.troupes := rfl
@[simp] theorem fin_nextTroupe (s : State) (n : Nat) (c : Bool) : (s.fin n c).nextTroupe = s.nextTroupe := rfl
@[simp] theorem fin_placeQ (s : State) (n : Nat) (c : Bool) : (s.fin n c).placeQ = s.placeQ := rfl
@[simp] theorem fin_placeBusy (s : State) (n : Nat) (c : Bool) : (s.fin n c).placeBusy = s.placeBusy := rfl
@[simp] theorem fin_slotFreed (s : State) (n : Nat) (c : Bool) : (s.fin n c).slotFreed = s.slotFreed := rfl
@[simp] theorem fin_shipMap (s : State) (n : Nat) (c : Bool) : (s.fin n c).shipMap = s.shipMap := rfl
@[simp] theorem fin_scOps (s : State) (n : Nat) (c : Bool) : (s.fin n c).scOps = s.scOps := rfl
@[simp] theorem fin_queues (s : State) (n : Nat) (c : Bool) : (s.fin n c).queues = s.queues := rfl
@[simp] theorem fin_mgmt (s : State) (n : Nat) (c : Bool) : (s.fin n c).mgmt = s.mgmt := rfl
@[simp] theorem fin_sysObjs (s : State) (n : Nat) (c : Bool) : (s.fin n c).sysObjs = s.sysObjs := rfl
@[simp] theorem fin_sysRoot (s : State) (n : Nat) (c : Bool) : (s.fin n c).sysRoot = s.sysRoot := rfl
@[simp] theorem fin_poison (s : State) (n : Nat) (c : Bool) : (s.fin n c).poison = s.poison := rfl
@[simp] theorem fin_dirtyPoison (s : State) (n : Nat) (c : Bool) : (s.fin n c).dirtyPoison = s.dirtyPoison := rfl
@[simp] theorem fin_lostCtx (s : State) (n : Nat) (c : Bool) : (s.fin n c).lostCtx = s.lostCtx := rfl
@[simp] theorem fin_displaced (s : State) (n : Nat) (c : Bool) : (s.fin n c).displaced = s.displaced := rfl
@[simp] theorem fin_updating (s : State) (n : Nat) (c : Bool) : (s.fin n c).updating = s.updating := rfl
@[simp] theorem fin_toRestore (s : State) (n : Nat) (c : Bool) : (s.fin n c).toRestore = s.toRestore := rfl
@[simp] theorem fin_repair (s : State) (n : Nat) (c : Bool) : (s.fin n c).repair = s.repair := rfl
@[simp] theorem fin_repairOld (s : State) (n : Nat) (c : Bool) : (s.fin n c).repairOld = s.repairOld := rfl
@[simp] theorem fin_applied (s : State) (n : Nat) (c : Bool) : (s.fin n c).applied = s.applied := rfl
@[simp] theorem fin_struck (s : State) (n : Nat) (c : Bool) : (s.fin n c).struck = s.struck := rfl
@[simp] theorem fin_wear (s : State) (n : Nat) (c : Bool) : (s.fin n c).wear = s.wear := rfl
@[simp] theorem fin_remoteOut (s : State) (n : Nat) (c : Bool) : (s.fin n c).remoteOut = s.remoteOut := rfl

/-! ### State.finS -/

@[simp] theorem finS_cycle (s : State) (d : SReg) (v : Word) (n : Nat) (c : Bool) : (s.finS d v n c).cycle = s.cycle := rfl
@[simp] theorem finS_mem (s : State) (d : SReg) (v : Word) (n : Nat) (c : Bool) : (s.finS d v n c).mem = s.mem := rfl
@[simp] theorem finS_l1d (s : State) (d : SReg) (v : Word) (n : Nat) (c : Bool) : (s.finS d v n c).l1d = s.l1d := rfl
@[simp] theorem finS_l2 (s : State) (d : SReg) (v : Word) (n : Nat) (c : Bool) : (s.finS d v n c).l2 = s.l2 := rfl
@[simp] theorem finS_me (s : State) (d : SReg) (v : Word) (n : Nat) (c : Bool) : (s.finS d v n c).me = (s.me.setS d v).retire n c := rfl
@[simp] theorem finS_others (s : State) (d : SReg) (v : Word) (n : Nat) (c : Bool) : (s.finS d v n c).others = s.others := rfl
@[simp] theorem finS_agenda (s : State) (d : SReg) (v : Word) (n : Nat) (c : Bool) : (s.finS d v n c).agenda = s.agenda := rfl
@[simp] theorem finS_freeCtr (s : State) (d : SReg) (v : Word) (n : Nat) (c : Bool) : (s.finS d v n c).freeCtr = s.freeCtr := rfl
@[simp] theorem finS_verdict (s : State) (d : SReg) (v : Word) (n : Nat) (c : Bool) : (s.finS d v n c).verdict = s.verdict := rfl
@[simp] theorem finS_turnsOver (s : State) (d : SReg) (v : Word) (n : Nat) (c : Bool) : (s.finS d v n c).turnsOver = s.turnsOver := rfl
@[simp] theorem finS_ports (s : State) (d : SReg) (v : Word) (n : Nat) (c : Bool) : (s.finS d v n c).ports = s.ports := rfl
@[simp] theorem finS_clusters (s : State) (d : SReg) (v : Word) (n : Nat) (c : Bool) : (s.finS d v n c).clusters = s.clusters := rfl
@[simp] theorem finS_dies (s : State) (d : SReg) (v : Word) (n : Nat) (c : Bool) : (s.finS d v n c).dies = s.dies := rfl
@[simp] theorem finS_troupes (s : State) (d : SReg) (v : Word) (n : Nat) (c : Bool) : (s.finS d v n c).troupes = s.troupes := rfl
@[simp] theorem finS_nextTroupe (s : State) (d : SReg) (v : Word) (n : Nat) (c : Bool) : (s.finS d v n c).nextTroupe = s.nextTroupe := rfl
@[simp] theorem finS_placeQ (s : State) (d : SReg) (v : Word) (n : Nat) (c : Bool) : (s.finS d v n c).placeQ = s.placeQ := rfl
@[simp] theorem finS_placeBusy (s : State) (d : SReg) (v : Word) (n : Nat) (c : Bool) : (s.finS d v n c).placeBusy = s.placeBusy := rfl
@[simp] theorem finS_slotFreed (s : State) (d : SReg) (v : Word) (n : Nat) (c : Bool) : (s.finS d v n c).slotFreed = s.slotFreed := rfl
@[simp] theorem finS_shipMap (s : State) (d : SReg) (v : Word) (n : Nat) (c : Bool) : (s.finS d v n c).shipMap = s.shipMap := rfl
@[simp] theorem finS_scOps (s : State) (d : SReg) (v : Word) (n : Nat) (c : Bool) : (s.finS d v n c).scOps = s.scOps := rfl
@[simp] theorem finS_queues (s : State) (d : SReg) (v : Word) (n : Nat) (c : Bool) : (s.finS d v n c).queues = s.queues := rfl
@[simp] theorem finS_mgmt (s : State) (d : SReg) (v : Word) (n : Nat) (c : Bool) : (s.finS d v n c).mgmt = s.mgmt := rfl
@[simp] theorem finS_sysObjs (s : State) (d : SReg) (v : Word) (n : Nat) (c : Bool) : (s.finS d v n c).sysObjs = s.sysObjs := rfl
@[simp] theorem finS_sysRoot (s : State) (d : SReg) (v : Word) (n : Nat) (c : Bool) : (s.finS d v n c).sysRoot = s.sysRoot := rfl
@[simp] theorem finS_poison (s : State) (d : SReg) (v : Word) (n : Nat) (c : Bool) : (s.finS d v n c).poison = s.poison := rfl
@[simp] theorem finS_dirtyPoison (s : State) (d : SReg) (v : Word) (n : Nat) (c : Bool) : (s.finS d v n c).dirtyPoison = s.dirtyPoison := rfl
@[simp] theorem finS_lostCtx (s : State) (d : SReg) (v : Word) (n : Nat) (c : Bool) : (s.finS d v n c).lostCtx = s.lostCtx := rfl
@[simp] theorem finS_displaced (s : State) (d : SReg) (v : Word) (n : Nat) (c : Bool) : (s.finS d v n c).displaced = s.displaced := rfl
@[simp] theorem finS_updating (s : State) (d : SReg) (v : Word) (n : Nat) (c : Bool) : (s.finS d v n c).updating = s.updating := rfl
@[simp] theorem finS_toRestore (s : State) (d : SReg) (v : Word) (n : Nat) (c : Bool) : (s.finS d v n c).toRestore = s.toRestore := rfl
@[simp] theorem finS_repair (s : State) (d : SReg) (v : Word) (n : Nat) (c : Bool) : (s.finS d v n c).repair = s.repair := rfl
@[simp] theorem finS_repairOld (s : State) (d : SReg) (v : Word) (n : Nat) (c : Bool) : (s.finS d v n c).repairOld = s.repairOld := rfl
@[simp] theorem finS_applied (s : State) (d : SReg) (v : Word) (n : Nat) (c : Bool) : (s.finS d v n c).applied = s.applied := rfl
@[simp] theorem finS_struck (s : State) (d : SReg) (v : Word) (n : Nat) (c : Bool) : (s.finS d v n c).struck = s.struck := rfl
@[simp] theorem finS_wear (s : State) (d : SReg) (v : Word) (n : Nat) (c : Bool) : (s.finS d v n c).wear = s.wear := rfl
@[simp] theorem finS_remoteOut (s : State) (d : SReg) (v : Word) (n : Nat) (c : Bool) : (s.finS d v n c).remoteOut = s.remoteOut := rfl

/-! ### State.modStrand -/

@[simp] theorem modStrand_cycle (s : State) (sa : Nat) (f : Strand → Strand) : (s.modStrand sa f).cycle = s.cycle := by unfold State.modStrand; split <;> rfl
@[simp] theorem modStrand_mem (s : State) (sa : Nat) (f : Strand → Strand) : (s.modStrand sa f).mem = s.mem := by unfold State.modStrand; split <;> rfl
@[simp] theorem modStrand_l1d (s : State) (sa : Nat) (f : Strand → Strand) : (s.modStrand sa f).l1d = s.l1d := by unfold State.modStrand; split <;> rfl
@[simp] theorem modStrand_l2 (s : State) (sa : Nat) (f : Strand → Strand) : (s.modStrand sa f).l2 = s.l2 := by unfold State.modStrand; split <;> rfl
@[simp] theorem modStrand_agenda (s : State) (sa : Nat) (f : Strand → Strand) : (s.modStrand sa f).agenda = s.agenda := by unfold State.modStrand; split <;> rfl
@[simp] theorem modStrand_freeCtr (s : State) (sa : Nat) (f : Strand → Strand) : (s.modStrand sa f).freeCtr = s.freeCtr := by unfold State.modStrand; split <;> rfl
@[simp] theorem modStrand_verdict (s : State) (sa : Nat) (f : Strand → Strand) : (s.modStrand sa f).verdict = s.verdict := by unfold State.modStrand; split <;> rfl
@[simp] theorem modStrand_turnsOver (s : State) (sa : Nat) (f : Strand → Strand) : (s.modStrand sa f).turnsOver = s.turnsOver := by unfold State.modStrand; split <;> rfl
@[simp] theorem modStrand_ports (s : State) (sa : Nat) (f : Strand → Strand) : (s.modStrand sa f).ports = s.ports := by unfold State.modStrand; split <;> rfl
@[simp] theorem modStrand_clusters (s : State) (sa : Nat) (f : Strand → Strand) : (s.modStrand sa f).clusters = s.clusters := by unfold State.modStrand; split <;> rfl
@[simp] theorem modStrand_dies (s : State) (sa : Nat) (f : Strand → Strand) : (s.modStrand sa f).dies = s.dies := by unfold State.modStrand; split <;> rfl
@[simp] theorem modStrand_troupes (s : State) (sa : Nat) (f : Strand → Strand) : (s.modStrand sa f).troupes = s.troupes := by unfold State.modStrand; split <;> rfl
@[simp] theorem modStrand_nextTroupe (s : State) (sa : Nat) (f : Strand → Strand) : (s.modStrand sa f).nextTroupe = s.nextTroupe := by unfold State.modStrand; split <;> rfl
@[simp] theorem modStrand_placeQ (s : State) (sa : Nat) (f : Strand → Strand) : (s.modStrand sa f).placeQ = s.placeQ := by unfold State.modStrand; split <;> rfl
@[simp] theorem modStrand_placeBusy (s : State) (sa : Nat) (f : Strand → Strand) : (s.modStrand sa f).placeBusy = s.placeBusy := by unfold State.modStrand; split <;> rfl
@[simp] theorem modStrand_slotFreed (s : State) (sa : Nat) (f : Strand → Strand) : (s.modStrand sa f).slotFreed = s.slotFreed := by unfold State.modStrand; split <;> rfl
@[simp] theorem modStrand_shipMap (s : State) (sa : Nat) (f : Strand → Strand) : (s.modStrand sa f).shipMap = s.shipMap := by unfold State.modStrand; split <;> rfl
@[simp] theorem modStrand_scOps (s : State) (sa : Nat) (f : Strand → Strand) : (s.modStrand sa f).scOps = s.scOps := by unfold State.modStrand; split <;> rfl
@[simp] theorem modStrand_queues (s : State) (sa : Nat) (f : Strand → Strand) : (s.modStrand sa f).queues = s.queues := by unfold State.modStrand; split <;> rfl
@[simp] theorem modStrand_mgmt (s : State) (sa : Nat) (f : Strand → Strand) : (s.modStrand sa f).mgmt = s.mgmt := by unfold State.modStrand; split <;> rfl
@[simp] theorem modStrand_sysObjs (s : State) (sa : Nat) (f : Strand → Strand) : (s.modStrand sa f).sysObjs = s.sysObjs := by unfold State.modStrand; split <;> rfl
@[simp] theorem modStrand_sysRoot (s : State) (sa : Nat) (f : Strand → Strand) : (s.modStrand sa f).sysRoot = s.sysRoot := by unfold State.modStrand; split <;> rfl
@[simp] theorem modStrand_poison (s : State) (sa : Nat) (f : Strand → Strand) : (s.modStrand sa f).poison = s.poison := by unfold State.modStrand; split <;> rfl
@[simp] theorem modStrand_dirtyPoison (s : State) (sa : Nat) (f : Strand → Strand) : (s.modStrand sa f).dirtyPoison = s.dirtyPoison := by unfold State.modStrand; split <;> rfl
@[simp] theorem modStrand_lostCtx (s : State) (sa : Nat) (f : Strand → Strand) : (s.modStrand sa f).lostCtx = s.lostCtx := by unfold State.modStrand; split <;> rfl
@[simp] theorem modStrand_displaced (s : State) (sa : Nat) (f : Strand → Strand) : (s.modStrand sa f).displaced = s.displaced := by unfold State.modStrand; split <;> rfl
@[simp] theorem modStrand_updating (s : State) (sa : Nat) (f : Strand → Strand) : (s.modStrand sa f).updating = s.updating := by unfold State.modStrand; split <;> rfl
@[simp] theorem modStrand_toRestore (s : State) (sa : Nat) (f : Strand → Strand) : (s.modStrand sa f).toRestore = s.toRestore := by unfold State.modStrand; split <;> rfl
@[simp] theorem modStrand_repair (s : State) (sa : Nat) (f : Strand → Strand) : (s.modStrand sa f).repair = s.repair := by unfold State.modStrand; split <;> rfl
@[simp] theorem modStrand_repairOld (s : State) (sa : Nat) (f : Strand → Strand) : (s.modStrand sa f).repairOld = s.repairOld := by unfold State.modStrand; split <;> rfl
@[simp] theorem modStrand_applied (s : State) (sa : Nat) (f : Strand → Strand) : (s.modStrand sa f).applied = s.applied := by unfold State.modStrand; split <;> rfl
@[simp] theorem modStrand_struck (s : State) (sa : Nat) (f : Strand → Strand) : (s.modStrand sa f).struck = s.struck := by unfold State.modStrand; split <;> rfl
@[simp] theorem modStrand_wear (s : State) (sa : Nat) (f : Strand → Strand) : (s.modStrand sa f).wear = s.wear := by unfold State.modStrand; split <;> rfl
@[simp] theorem modStrand_remoteOut (s : State) (sa : Nat) (f : Strand → Strand) : (s.modStrand sa f).remoteOut = s.remoteOut := by unfold State.modStrand; split <;> rfl

/-! ### State.putStrand -/

@[simp] theorem putStrand_cycle (s : State) (m : Strand) : (s.putStrand m).cycle = s.cycle := by unfold State.putStrand; split <;> rfl
@[simp] theorem putStrand_mem (s : State) (m : Strand) : (s.putStrand m).mem = s.mem := by unfold State.putStrand; split <;> rfl
@[simp] theorem putStrand_l1d (s : State) (m : Strand) : (s.putStrand m).l1d = s.l1d := by unfold State.putStrand; split <;> rfl
@[simp] theorem putStrand_l2 (s : State) (m : Strand) : (s.putStrand m).l2 = s.l2 := by unfold State.putStrand; split <;> rfl
@[simp] theorem putStrand_agenda (s : State) (m : Strand) : (s.putStrand m).agenda = s.agenda := by unfold State.putStrand; split <;> rfl
@[simp] theorem putStrand_freeCtr (s : State) (m : Strand) : (s.putStrand m).freeCtr = s.freeCtr := by unfold State.putStrand; split <;> rfl
@[simp] theorem putStrand_verdict (s : State) (m : Strand) : (s.putStrand m).verdict = s.verdict := by unfold State.putStrand; split <;> rfl
@[simp] theorem putStrand_turnsOver (s : State) (m : Strand) : (s.putStrand m).turnsOver = s.turnsOver := by unfold State.putStrand; split <;> rfl
@[simp] theorem putStrand_ports (s : State) (m : Strand) : (s.putStrand m).ports = s.ports := by unfold State.putStrand; split <;> rfl
@[simp] theorem putStrand_clusters (s : State) (m : Strand) : (s.putStrand m).clusters = s.clusters := by unfold State.putStrand; split <;> rfl
@[simp] theorem putStrand_dies (s : State) (m : Strand) : (s.putStrand m).dies = s.dies := by unfold State.putStrand; split <;> rfl
@[simp] theorem putStrand_troupes (s : State) (m : Strand) : (s.putStrand m).troupes = s.troupes := by unfold State.putStrand; split <;> rfl
@[simp] theorem putStrand_nextTroupe (s : State) (m : Strand) : (s.putStrand m).nextTroupe = s.nextTroupe := by unfold State.putStrand; split <;> rfl
@[simp] theorem putStrand_placeQ (s : State) (m : Strand) : (s.putStrand m).placeQ = s.placeQ := by unfold State.putStrand; split <;> rfl
@[simp] theorem putStrand_placeBusy (s : State) (m : Strand) : (s.putStrand m).placeBusy = s.placeBusy := by unfold State.putStrand; split <;> rfl
@[simp] theorem putStrand_slotFreed (s : State) (m : Strand) : (s.putStrand m).slotFreed = s.slotFreed := by unfold State.putStrand; split <;> rfl
@[simp] theorem putStrand_shipMap (s : State) (m : Strand) : (s.putStrand m).shipMap = s.shipMap := by unfold State.putStrand; split <;> rfl
@[simp] theorem putStrand_scOps (s : State) (m : Strand) : (s.putStrand m).scOps = s.scOps := by unfold State.putStrand; split <;> rfl
@[simp] theorem putStrand_queues (s : State) (m : Strand) : (s.putStrand m).queues = s.queues := by unfold State.putStrand; split <;> rfl
@[simp] theorem putStrand_mgmt (s : State) (m : Strand) : (s.putStrand m).mgmt = s.mgmt := by unfold State.putStrand; split <;> rfl
@[simp] theorem putStrand_sysObjs (s : State) (m : Strand) : (s.putStrand m).sysObjs = s.sysObjs := by unfold State.putStrand; split <;> rfl
@[simp] theorem putStrand_sysRoot (s : State) (m : Strand) : (s.putStrand m).sysRoot = s.sysRoot := by unfold State.putStrand; split <;> rfl
@[simp] theorem putStrand_poison (s : State) (m : Strand) : (s.putStrand m).poison = s.poison := by unfold State.putStrand; split <;> rfl
@[simp] theorem putStrand_dirtyPoison (s : State) (m : Strand) : (s.putStrand m).dirtyPoison = s.dirtyPoison := by unfold State.putStrand; split <;> rfl
@[simp] theorem putStrand_lostCtx (s : State) (m : Strand) : (s.putStrand m).lostCtx = s.lostCtx := by unfold State.putStrand; split <;> rfl
@[simp] theorem putStrand_displaced (s : State) (m : Strand) : (s.putStrand m).displaced = s.displaced := by unfold State.putStrand; split <;> rfl
@[simp] theorem putStrand_updating (s : State) (m : Strand) : (s.putStrand m).updating = s.updating := by unfold State.putStrand; split <;> rfl
@[simp] theorem putStrand_toRestore (s : State) (m : Strand) : (s.putStrand m).toRestore = s.toRestore := by unfold State.putStrand; split <;> rfl
@[simp] theorem putStrand_repair (s : State) (m : Strand) : (s.putStrand m).repair = s.repair := by unfold State.putStrand; split <;> rfl
@[simp] theorem putStrand_repairOld (s : State) (m : Strand) : (s.putStrand m).repairOld = s.repairOld := by unfold State.putStrand; split <;> rfl
@[simp] theorem putStrand_applied (s : State) (m : Strand) : (s.putStrand m).applied = s.applied := by unfold State.putStrand; split <;> rfl
@[simp] theorem putStrand_struck (s : State) (m : Strand) : (s.putStrand m).struck = s.struck := by unfold State.putStrand; split <;> rfl
@[simp] theorem putStrand_wear (s : State) (m : Strand) : (s.putStrand m).wear = s.wear := by unfold State.putStrand; split <;> rfl
@[simp] theorem putStrand_remoteOut (s : State) (m : Strand) : (s.putStrand m).remoteOut = s.remoteOut := by unfold State.putStrand; split <;> rfl

/-! ### State.interrupt -/

@[simp] theorem interrupt_cycle (s : State) (a b c : Nat) : (s.interrupt a b c).cycle = s.cycle := by unfold State.interrupt; dsimp only; split; rfl; split <;> rfl
@[simp] theorem interrupt_mem (s : State) (a b c : Nat) : (s.interrupt a b c).mem = s.mem := by unfold State.interrupt; dsimp only; split; rfl; split <;> rfl
@[simp] theorem interrupt_l1d (s : State) (a b c : Nat) : (s.interrupt a b c).l1d = s.l1d := by unfold State.interrupt; dsimp only; split; rfl; split <;> rfl
@[simp] theorem interrupt_l2 (s : State) (a b c : Nat) : (s.interrupt a b c).l2 = s.l2 := by unfold State.interrupt; dsimp only; split; rfl; split <;> rfl
@[simp] theorem interrupt_me (s : State) (a b c : Nat) : (s.interrupt a b c).me = s.me := by unfold State.interrupt; dsimp only; split; rfl; split <;> rfl
@[simp] theorem interrupt_others (s : State) (a b c : Nat) : (s.interrupt a b c).others = s.others := by unfold State.interrupt; dsimp only; split; rfl; split <;> rfl
@[simp] theorem interrupt_agenda (s : State) (a b c : Nat) : (s.interrupt a b c).agenda = s.agenda := by unfold State.interrupt; dsimp only; split; rfl; split <;> rfl
@[simp] theorem interrupt_freeCtr (s : State) (a b c : Nat) : (s.interrupt a b c).freeCtr = s.freeCtr := by unfold State.interrupt; dsimp only; split; rfl; split <;> rfl
@[simp] theorem interrupt_verdict (s : State) (a b c : Nat) : (s.interrupt a b c).verdict = s.verdict := by unfold State.interrupt; dsimp only; split; rfl; split <;> rfl
@[simp] theorem interrupt_turnsOver (s : State) (a b c : Nat) : (s.interrupt a b c).turnsOver = s.turnsOver := by unfold State.interrupt; dsimp only; split; rfl; split <;> rfl
@[simp] theorem interrupt_ports (s : State) (a b c : Nat) : (s.interrupt a b c).ports = s.ports := by unfold State.interrupt; dsimp only; split; rfl; split <;> rfl
@[simp] theorem interrupt_clusters (s : State) (a b c : Nat) : (s.interrupt a b c).clusters = s.clusters := by unfold State.interrupt; dsimp only; split; rfl; split <;> rfl
@[simp] theorem interrupt_dies (s : State) (a b c : Nat) : (s.interrupt a b c).dies = s.dies := by unfold State.interrupt; dsimp only; split; rfl; split <;> rfl
@[simp] theorem interrupt_troupes (s : State) (a b c : Nat) : (s.interrupt a b c).troupes = s.troupes := by unfold State.interrupt; dsimp only; split; rfl; split <;> rfl
@[simp] theorem interrupt_nextTroupe (s : State) (a b c : Nat) : (s.interrupt a b c).nextTroupe = s.nextTroupe := by unfold State.interrupt; dsimp only; split; rfl; split <;> rfl
@[simp] theorem interrupt_placeQ (s : State) (a b c : Nat) : (s.interrupt a b c).placeQ = s.placeQ := by unfold State.interrupt; dsimp only; split; rfl; split <;> rfl
@[simp] theorem interrupt_placeBusy (s : State) (a b c : Nat) : (s.interrupt a b c).placeBusy = s.placeBusy := by unfold State.interrupt; dsimp only; split; rfl; split <;> rfl
@[simp] theorem interrupt_slotFreed (s : State) (a b c : Nat) : (s.interrupt a b c).slotFreed = s.slotFreed := by unfold State.interrupt; dsimp only; split; rfl; split <;> rfl
@[simp] theorem interrupt_shipMap (s : State) (a b c : Nat) : (s.interrupt a b c).shipMap = s.shipMap := by unfold State.interrupt; dsimp only; split; rfl; split <;> rfl
@[simp] theorem interrupt_scOps (s : State) (a b c : Nat) : (s.interrupt a b c).scOps = s.scOps := by unfold State.interrupt; dsimp only; split; rfl; split <;> rfl
@[simp] theorem interrupt_queues (s : State) (a b c : Nat) : (s.interrupt a b c).queues = s.queues := by unfold State.interrupt; dsimp only; split; rfl; split <;> rfl
@[simp] theorem interrupt_sysObjs (s : State) (a b c : Nat) : (s.interrupt a b c).sysObjs = s.sysObjs := by unfold State.interrupt; dsimp only; split; rfl; split <;> rfl
@[simp] theorem interrupt_sysRoot (s : State) (a b c : Nat) : (s.interrupt a b c).sysRoot = s.sysRoot := by unfold State.interrupt; dsimp only; split; rfl; split <;> rfl
@[simp] theorem interrupt_poison (s : State) (a b c : Nat) : (s.interrupt a b c).poison = s.poison := by unfold State.interrupt; dsimp only; split; rfl; split <;> rfl
@[simp] theorem interrupt_dirtyPoison (s : State) (a b c : Nat) : (s.interrupt a b c).dirtyPoison = s.dirtyPoison := by unfold State.interrupt; dsimp only; split; rfl; split <;> rfl
@[simp] theorem interrupt_lostCtx (s : State) (a b c : Nat) : (s.interrupt a b c).lostCtx = s.lostCtx := by unfold State.interrupt; dsimp only; split; rfl; split <;> rfl
@[simp] theorem interrupt_displaced (s : State) (a b c : Nat) : (s.interrupt a b c).displaced = s.displaced := by unfold State.interrupt; dsimp only; split; rfl; split <;> rfl
@[simp] theorem interrupt_updating (s : State) (a b c : Nat) : (s.interrupt a b c).updating = s.updating := by unfold State.interrupt; dsimp only; split; rfl; split <;> rfl
@[simp] theorem interrupt_toRestore (s : State) (a b c : Nat) : (s.interrupt a b c).toRestore = s.toRestore := by unfold State.interrupt; dsimp only; split; rfl; split <;> rfl
@[simp] theorem interrupt_repair (s : State) (a b c : Nat) : (s.interrupt a b c).repair = s.repair := by unfold State.interrupt; dsimp only; split; rfl; split <;> rfl
@[simp] theorem interrupt_repairOld (s : State) (a b c : Nat) : (s.interrupt a b c).repairOld = s.repairOld := by unfold State.interrupt; dsimp only; split; rfl; split <;> rfl
@[simp] theorem interrupt_applied (s : State) (a b c : Nat) : (s.interrupt a b c).applied = s.applied := by unfold State.interrupt; dsimp only; split; rfl; split <;> rfl
@[simp] theorem interrupt_struck (s : State) (a b c : Nat) : (s.interrupt a b c).struck = s.struck := by unfold State.interrupt; dsimp only; split; rfl; split <;> rfl
@[simp] theorem interrupt_wear (s : State) (a b c : Nat) : (s.interrupt a b c).wear = s.wear := by unfold State.interrupt; dsimp only; split; rfl; split <;> rfl
@[simp] theorem interrupt_remoteOut (s : State) (a b c : Nat) : (s.interrupt a b c).remoteOut = s.remoteOut := by unfold State.interrupt; dsimp only; split; rfl; split <;> rfl
theorem modStrand_me (s : State) (f : Strand → Strand) : (s.modStrand s.me.sa f).me = f s.me := by unfold State.modStrand; rw [if_pos rfl]
theorem modStrand_me_others (s : State) (f : Strand → Strand) : (s.modStrand s.me.sa f).others = s.others := by unfold State.modStrand; rw [if_pos rfl]
theorem modStrand_me_ne (s : State) {sa : Nat} (f : Strand → Strand) (h : s.me.sa ≠ sa) : (s.modStrand sa f).me = s.me := by unfold State.modStrand; rw [if_neg h]

/-! ### Strand.retire -/

@[simp] theorem retire_sa (m : Strand) (n : Nat) (c : Bool) : (m.retire n c).sa = m.sa := rfl
@[simp] theorem retire_kind (m : Strand) (n : Nat) (c : Bool) : (m.retire n c).kind = m.kind := rfl
@[simp] theorem retire_width (m : Strand) (n : Nat) (c : Bool) : (m.retire n c).width = m.width := rfl
@[simp] theorem retire_enabled (m : Strand) (n : Nat) (c : Bool) : (m.retire n c).enabled = m.enabled := rfl
@[simp] theorem retire_run (m : Strand) (n : Nat) (c : Bool) : (m.retire n c).run = m.run := rfl
@[simp] theorem retire_vcid (m : Strand) (n : Nat) (c : Bool) : (m.retire n c).vcid = m.vcid := rfl
@[simp] theorem retire_troupe (m : Strand) (n : Nat) (c : Bool) : (m.retire n c).troupe = m.troupe := rfl
@[simp] theorem retire_asid (m : Strand) (n : Nat) (c : Bool) : (m.retire n c).asid = m.asid := rfl
@[simp] theorem retire_root (m : Strand) (n : Nat) (c : Bool) : (m.retire n c).root = m.root := rfl
@[simp] theorem retire_regs (m : Strand) (n : Nat) (c : Bool) : (m.retire n c).regs = m.regs := rfl
@[simp] theorem retire_vregs (m : Strand) (n : Nat) (c : Bool) : (m.retire n c).vregs = m.vregs := rfl
@[simp] theorem retire_kregs (m : Strand) (n : Nat) (c : Bool) : (m.retire n c).kregs = m.kregs := rfl
@[simp] theorem retire_segs (m : Strand) (n : Nat) (c : Bool) : (m.retire n c).segs = m.segs := rfl
@[simp] theorem retire_codeSeg (m : Strand) (n : Nat) (c : Bool) : (m.retire n c).codeSeg = m.codeSeg := rfl
@[simp] theorem retire_trapSeg (m : Strand) (n : Nat) (c : Bool) : (m.retire n c).trapSeg = m.trapSeg := rfl
@[simp] theorem retire_pc (m : Strand) (n : Nat) (c : Bool) : (m.retire n c).pc = m.pc + BitVec.ofNat 64 n := rfl
@[simp] theorem retire_h (m : Strand) (n : Nat) (c : Bool) : (m.retire n c).h = m.h := rfl
@[simp] theorem retire_flags (m : Strand) (n : Nat) (c : Bool) : (m.retire n c).flags = m.flags := rfl
@[simp] theorem retire_fctl (m : Strand) (n : Nat) (c : Bool) : (m.retire n c).fctl = m.fctl := rfl
@[simp] theorem retire_tvec (m : Strand) (n : Nat) (c : Bool) : (m.retire n c).tvec = m.tvec := rfl
@[simp] theorem retire_trapPc (m : Strand) (n : Nat) (c : Bool) : (m.retire n c).trapPc = m.trapPc := rfl
@[simp] theorem retire_trapCause (m : Strand) (n : Nat) (c : Bool) : (m.retire n c).trapCause = m.trapCause := rfl
@[simp] theorem retire_trapAddr (m : Strand) (n : Nat) (c : Bool) : (m.retire n c).trapAddr = m.trapAddr := rfl
@[simp] theorem retire_trapInfo (m : Strand) (n : Nat) (c : Bool) : (m.retire n c).trapInfo = m.trapInfo := rfl
@[simp] theorem retire_frontLatch (m : Strand) (n : Nat) (c : Bool) : (m.retire n c).frontLatch = m.frontLatch := rfl
@[simp] theorem retire_census (m : Strand) (n : Nat) (c : Bool) : (m.retire n c).census = m.census := rfl
@[simp] theorem retire_ops (m : Strand) (n : Nat) (c : Bool) : (m.retire n c).ops = m.ops := rfl
@[simp] theorem retire_nextQ (m : Strand) (n : Nat) (c : Bool) : (m.retire n c).nextQ = m.nextQ + 1 := rfl
@[simp] theorem retire_undo (m : Strand) (n : Nat) (c : Bool) : (m.retire n c).undo = m.undo := rfl
@[simp] theorem retire_held (m : Strand) (n : Nat) (c : Bool) : (m.retire n c).held = m.held := rfl
@[simp] theorem retire_async (m : Strand) (n : Nat) (c : Bool) : (m.retire n c).async = m.async := rfl
@[simp] theorem retire_lost (m : Strand) (n : Nat) (c : Bool) : (m.retire n c).lost = m.lost := rfl
@[simp] theorem retire_fixed (m : Strand) (n : Nat) (c : Bool) : (m.retire n c).fixed = m.fixed := rfl
@[simp] theorem retire_cue (m : Strand) (n : Nat) (c : Bool) : (m.retire n c).cue = (m.cue || c) := rfl
@[simp] theorem retire_drain (m : Strand) (n : Nat) (c : Bool) : (m.retire n c).drain = m.drain := rfl
@[simp] theorem retire_entry (m : Strand) (n : Nat) (c : Bool) : (m.retire n c).entry = m.entry := rfl
@[simp] theorem retire_readyAt (m : Strand) (n : Nat) (c : Bool) : (m.retire n c).readyAt = m.readyAt := rfl
@[simp] theorem retire_readyCls (m : Strand) (n : Nat) (c : Bool) : (m.retire n c).readyCls = m.readyCls := rfl
@[simp] theorem retire_forfeit (m : Strand) (n : Nat) (c : Bool) : (m.retire n c).forfeit = m.forfeit := rfl
@[simp] theorem retire_forfeitCls (m : Strand) (n : Nat) (c : Bool) : (m.retire n c).forfeitCls = m.forfeitCls := rfl
@[simp] theorem retire_forfeitQ (m : Strand) (n : Nat) (c : Bool) : (m.retire n c).forfeitQ = m.forfeitQ := rfl
@[simp] theorem retire_block (m : Strand) (n : Nat) (c : Bool) : (m.retire n c).block = m.block := rfl
@[simp] theorem retire_xwait (m : Strand) (n : Nat) (c : Bool) : (m.retire n c).xwait = m.xwait := rfl
@[simp] theorem retire_inbox (m : Strand) (n : Nat) (c : Bool) : (m.retire n c).inbox = m.inbox := rfl
@[simp] theorem retire_inPorts (m : Strand) (n : Nat) (c : Bool) : (m.retire n c).inPorts = m.inPorts := rfl
@[simp] theorem retire_credits (m : Strand) (n : Nat) (c : Bool) : (m.retire n c).credits = m.credits := rfl
@[simp] theorem retire_token (m : Strand) (n : Nat) (c : Bool) : (m.retire n c).token = m.token := rfl
@[simp] theorem retire_parkDl (m : Strand) (n : Nat) (c : Bool) : (m.retire n c).parkDl = m.parkDl := rfl
@[simp] theorem retire_parkDst (m : Strand) (n : Nat) (c : Bool) : (m.retire n c).parkDst = m.parkDst := rfl
@[simp] theorem retire_parkCue (m : Strand) (n : Nat) (c : Bool) : (m.retire n c).parkCue = m.parkCue := rfl
@[simp] theorem retire_parkAgain (m : Strand) (n : Nat) (c : Bool) : (m.retire n c).parkAgain = m.parkAgain := rfl
@[simp] theorem retire_task (m : Strand) (n : Nat) (c : Bool) : (m.retire n c).task = m.task := rfl
@[simp] theorem retire_accs (m : Strand) (n : Nat) (c : Bool) : (m.retire n c).accs = m.accs := rfl
@[simp] theorem retire_rings (m : Strand) (n : Nat) (c : Bool) : (m.retire n c).rings = m.rings := rfl
@[simp] theorem retire_mstat (m : Strand) (n : Nat) (c : Bool) : (m.retire n c).mstat = m.mstat := rfl
@[simp] theorem retire_mstatNew (m : Strand) (n : Nat) (c : Bool) : (m.retire n c).mstatNew = m.mstatNew := rfl
@[simp] theorem retire_mq (m : Strand) (n : Nat) (c : Bool) : (m.retire n c).mq = m.mq := rfl
@[simp] theorem retire_mapped (m : Strand) (n : Nat) (c : Bool) : (m.retire n c).mapped = m.mapped := rfl
@[simp] theorem retire_poll (m : Strand) (n : Nat) (c : Bool) : (m.retire n c).poll = m.poll := rfl
@[simp] theorem retire_packet (m : Strand) (n : Nat) (c : Bool) : (m.retire n c).packet = m.packet := rfl
@[simp] theorem retire_copies (m : Strand) (n : Nat) (c : Bool) : (m.retire n c).copies = m.copies := rfl
@[simp] theorem retire_dbg (m : Strand) (n : Nat) (c : Bool) : (m.retire n c).dbg = m.dbg := rfl
@[simp] theorem retire_swap (m : Strand) (n : Nat) (c : Bool) : (m.retire n c).swap = m.swap := rfl

/-! ### Strand.setV -/

@[simp] theorem setV_sa (m : Strand) (r : VReg) (v : VWord) : (m.setV r v).sa = m.sa := rfl
@[simp] theorem setV_kind (m : Strand) (r : VReg) (v : VWord) : (m.setV r v).kind = m.kind := rfl
@[simp] theorem setV_width (m : Strand) (r : VReg) (v : VWord) : (m.setV r v).width = m.width := rfl
@[simp] theorem setV_enabled (m : Strand) (r : VReg) (v : VWord) : (m.setV r v).enabled = m.enabled := rfl
@[simp] theorem setV_run (m : Strand) (r : VReg) (v : VWord) : (m.setV r v).run = m.run := rfl
@[simp] theorem setV_vcid (m : Strand) (r : VReg) (v : VWord) : (m.setV r v).vcid = m.vcid := rfl
@[simp] theorem setV_troupe (m : Strand) (r : VReg) (v : VWord) : (m.setV r v).troupe = m.troupe := rfl
@[simp] theorem setV_asid (m : Strand) (r : VReg) (v : VWord) : (m.setV r v).asid = m.asid := rfl
@[simp] theorem setV_root (m : Strand) (r : VReg) (v : VWord) : (m.setV r v).root = m.root := rfl
@[simp] theorem setV_regs (m : Strand) (r : VReg) (v : VWord) : (m.setV r v).regs = m.regs := rfl
@[simp] theorem setV_vregs (m : Strand) (r : VReg) (v : VWord) : (m.setV r v).vregs = m.vregs.set r.toNat v := rfl
@[simp] theorem setV_kregs (m : Strand) (r : VReg) (v : VWord) : (m.setV r v).kregs = m.kregs := rfl
@[simp] theorem setV_segs (m : Strand) (r : VReg) (v : VWord) : (m.setV r v).segs = m.segs := rfl
@[simp] theorem setV_codeSeg (m : Strand) (r : VReg) (v : VWord) : (m.setV r v).codeSeg = m.codeSeg := rfl
@[simp] theorem setV_trapSeg (m : Strand) (r : VReg) (v : VWord) : (m.setV r v).trapSeg = m.trapSeg := rfl
@[simp] theorem setV_pc (m : Strand) (r : VReg) (v : VWord) : (m.setV r v).pc = m.pc := rfl
@[simp] theorem setV_h (m : Strand) (r : VReg) (v : VWord) : (m.setV r v).h = m.h := rfl
@[simp] theorem setV_flags (m : Strand) (r : VReg) (v : VWord) : (m.setV r v).flags = m.flags := rfl
@[simp] theorem setV_fctl (m : Strand) (r : VReg) (v : VWord) : (m.setV r v).fctl = m.fctl := rfl
@[simp] theorem setV_tvec (m : Strand) (r : VReg) (v : VWord) : (m.setV r v).tvec = m.tvec := rfl
@[simp] theorem setV_trapPc (m : Strand) (r : VReg) (v : VWord) : (m.setV r v).trapPc = m.trapPc := rfl
@[simp] theorem setV_trapCause (m : Strand) (r : VReg) (v : VWord) : (m.setV r v).trapCause = m.trapCause := rfl
@[simp] theorem setV_trapAddr (m : Strand) (r : VReg) (v : VWord) : (m.setV r v).trapAddr = m.trapAddr := rfl
@[simp] theorem setV_trapInfo (m : Strand) (r : VReg) (v : VWord) : (m.setV r v).trapInfo = m.trapInfo := rfl
@[simp] theorem setV_frontLatch (m : Strand) (r : VReg) (v : VWord) : (m.setV r v).frontLatch = m.frontLatch := rfl
@[simp] theorem setV_census (m : Strand) (r : VReg) (v : VWord) : (m.setV r v).census = m.census := rfl
@[simp] theorem setV_ops (m : Strand) (r : VReg) (v : VWord) : (m.setV r v).ops = m.ops := rfl
@[simp] theorem setV_nextQ (m : Strand) (r : VReg) (v : VWord) : (m.setV r v).nextQ = m.nextQ := rfl
@[simp] theorem setV_undo (m : Strand) (r : VReg) (v : VWord) : (m.setV r v).undo = m.undo := rfl
@[simp] theorem setV_held (m : Strand) (r : VReg) (v : VWord) : (m.setV r v).held = m.held := rfl
@[simp] theorem setV_async (m : Strand) (r : VReg) (v : VWord) : (m.setV r v).async = m.async := rfl
@[simp] theorem setV_lost (m : Strand) (r : VReg) (v : VWord) : (m.setV r v).lost = m.lost := rfl
@[simp] theorem setV_fixed (m : Strand) (r : VReg) (v : VWord) : (m.setV r v).fixed = m.fixed := rfl
@[simp] theorem setV_cue (m : Strand) (r : VReg) (v : VWord) : (m.setV r v).cue = m.cue := rfl
@[simp] theorem setV_drain (m : Strand) (r : VReg) (v : VWord) : (m.setV r v).drain = m.drain := rfl
@[simp] theorem setV_entry (m : Strand) (r : VReg) (v : VWord) : (m.setV r v).entry = m.entry := rfl
@[simp] theorem setV_readyAt (m : Strand) (r : VReg) (v : VWord) : (m.setV r v).readyAt = m.readyAt := rfl
@[simp] theorem setV_readyCls (m : Strand) (r : VReg) (v : VWord) : (m.setV r v).readyCls = m.readyCls := rfl
@[simp] theorem setV_forfeit (m : Strand) (r : VReg) (v : VWord) : (m.setV r v).forfeit = m.forfeit := rfl
@[simp] theorem setV_forfeitCls (m : Strand) (r : VReg) (v : VWord) : (m.setV r v).forfeitCls = m.forfeitCls := rfl
@[simp] theorem setV_forfeitQ (m : Strand) (r : VReg) (v : VWord) : (m.setV r v).forfeitQ = m.forfeitQ := rfl
@[simp] theorem setV_block (m : Strand) (r : VReg) (v : VWord) : (m.setV r v).block = m.block := rfl
@[simp] theorem setV_xwait (m : Strand) (r : VReg) (v : VWord) : (m.setV r v).xwait = m.xwait := rfl
@[simp] theorem setV_inbox (m : Strand) (r : VReg) (v : VWord) : (m.setV r v).inbox = m.inbox := rfl
@[simp] theorem setV_inPorts (m : Strand) (r : VReg) (v : VWord) : (m.setV r v).inPorts = m.inPorts := rfl
@[simp] theorem setV_credits (m : Strand) (r : VReg) (v : VWord) : (m.setV r v).credits = m.credits := rfl
@[simp] theorem setV_token (m : Strand) (r : VReg) (v : VWord) : (m.setV r v).token = m.token := rfl
@[simp] theorem setV_parkDl (m : Strand) (r : VReg) (v : VWord) : (m.setV r v).parkDl = m.parkDl := rfl
@[simp] theorem setV_parkDst (m : Strand) (r : VReg) (v : VWord) : (m.setV r v).parkDst = m.parkDst := rfl
@[simp] theorem setV_parkCue (m : Strand) (r : VReg) (v : VWord) : (m.setV r v).parkCue = m.parkCue := rfl
@[simp] theorem setV_parkAgain (m : Strand) (r : VReg) (v : VWord) : (m.setV r v).parkAgain = m.parkAgain := rfl
@[simp] theorem setV_task (m : Strand) (r : VReg) (v : VWord) : (m.setV r v).task = m.task := rfl
@[simp] theorem setV_accs (m : Strand) (r : VReg) (v : VWord) : (m.setV r v).accs = m.accs := rfl
@[simp] theorem setV_rings (m : Strand) (r : VReg) (v : VWord) : (m.setV r v).rings = m.rings := rfl
@[simp] theorem setV_mstat (m : Strand) (r : VReg) (v : VWord) : (m.setV r v).mstat = m.mstat := rfl
@[simp] theorem setV_mstatNew (m : Strand) (r : VReg) (v : VWord) : (m.setV r v).mstatNew = m.mstatNew := rfl
@[simp] theorem setV_mq (m : Strand) (r : VReg) (v : VWord) : (m.setV r v).mq = m.mq := rfl
@[simp] theorem setV_mapped (m : Strand) (r : VReg) (v : VWord) : (m.setV r v).mapped = m.mapped := rfl
@[simp] theorem setV_poll (m : Strand) (r : VReg) (v : VWord) : (m.setV r v).poll = m.poll := rfl
@[simp] theorem setV_packet (m : Strand) (r : VReg) (v : VWord) : (m.setV r v).packet = m.packet := rfl
@[simp] theorem setV_copies (m : Strand) (r : VReg) (v : VWord) : (m.setV r v).copies = m.copies := rfl
@[simp] theorem setV_dbg (m : Strand) (r : VReg) (v : VWord) : (m.setV r v).dbg = m.dbg := rfl
@[simp] theorem setV_swap (m : Strand) (r : VReg) (v : VWord) : (m.setV r v).swap = m.swap := rfl

/-! ### Strand.setSeg -/

@[simp] theorem setSeg_sa (m : Strand) (r : SegIx) (g : Seg) : (m.setSeg r g).sa = m.sa := rfl
@[simp] theorem setSeg_kind (m : Strand) (r : SegIx) (g : Seg) : (m.setSeg r g).kind = m.kind := rfl
@[simp] theorem setSeg_width (m : Strand) (r : SegIx) (g : Seg) : (m.setSeg r g).width = m.width := rfl
@[simp] theorem setSeg_enabled (m : Strand) (r : SegIx) (g : Seg) : (m.setSeg r g).enabled = m.enabled := rfl
@[simp] theorem setSeg_run (m : Strand) (r : SegIx) (g : Seg) : (m.setSeg r g).run = m.run := rfl
@[simp] theorem setSeg_vcid (m : Strand) (r : SegIx) (g : Seg) : (m.setSeg r g).vcid = m.vcid := rfl
@[simp] theorem setSeg_troupe (m : Strand) (r : SegIx) (g : Seg) : (m.setSeg r g).troupe = m.troupe := rfl
@[simp] theorem setSeg_asid (m : Strand) (r : SegIx) (g : Seg) : (m.setSeg r g).asid = m.asid := rfl
@[simp] theorem setSeg_root (m : Strand) (r : SegIx) (g : Seg) : (m.setSeg r g).root = m.root := rfl
@[simp] theorem setSeg_regs (m : Strand) (r : SegIx) (g : Seg) : (m.setSeg r g).regs = m.regs := rfl
@[simp] theorem setSeg_vregs (m : Strand) (r : SegIx) (g : Seg) : (m.setSeg r g).vregs = m.vregs := rfl
@[simp] theorem setSeg_kregs (m : Strand) (r : SegIx) (g : Seg) : (m.setSeg r g).kregs = m.kregs := rfl
@[simp] theorem setSeg_segs (m : Strand) (r : SegIx) (g : Seg) : (m.setSeg r g).segs = m.segs.set r.toNat g := rfl
@[simp] theorem setSeg_codeSeg (m : Strand) (r : SegIx) (g : Seg) : (m.setSeg r g).codeSeg = m.codeSeg := rfl
@[simp] theorem setSeg_trapSeg (m : Strand) (r : SegIx) (g : Seg) : (m.setSeg r g).trapSeg = m.trapSeg := rfl
@[simp] theorem setSeg_pc (m : Strand) (r : SegIx) (g : Seg) : (m.setSeg r g).pc = m.pc := rfl
@[simp] theorem setSeg_h (m : Strand) (r : SegIx) (g : Seg) : (m.setSeg r g).h = m.h := rfl
@[simp] theorem setSeg_flags (m : Strand) (r : SegIx) (g : Seg) : (m.setSeg r g).flags = m.flags := rfl
@[simp] theorem setSeg_fctl (m : Strand) (r : SegIx) (g : Seg) : (m.setSeg r g).fctl = m.fctl := rfl
@[simp] theorem setSeg_tvec (m : Strand) (r : SegIx) (g : Seg) : (m.setSeg r g).tvec = m.tvec := rfl
@[simp] theorem setSeg_trapPc (m : Strand) (r : SegIx) (g : Seg) : (m.setSeg r g).trapPc = m.trapPc := rfl
@[simp] theorem setSeg_trapCause (m : Strand) (r : SegIx) (g : Seg) : (m.setSeg r g).trapCause = m.trapCause := rfl
@[simp] theorem setSeg_trapAddr (m : Strand) (r : SegIx) (g : Seg) : (m.setSeg r g).trapAddr = m.trapAddr := rfl
@[simp] theorem setSeg_trapInfo (m : Strand) (r : SegIx) (g : Seg) : (m.setSeg r g).trapInfo = m.trapInfo := rfl
@[simp] theorem setSeg_frontLatch (m : Strand) (r : SegIx) (g : Seg) : (m.setSeg r g).frontLatch = m.frontLatch := rfl
@[simp] theorem setSeg_census (m : Strand) (r : SegIx) (g : Seg) : (m.setSeg r g).census = m.census := rfl
@[simp] theorem setSeg_ops (m : Strand) (r : SegIx) (g : Seg) : (m.setSeg r g).ops = m.ops := rfl
@[simp] theorem setSeg_nextQ (m : Strand) (r : SegIx) (g : Seg) : (m.setSeg r g).nextQ = m.nextQ := rfl
@[simp] theorem setSeg_undo (m : Strand) (r : SegIx) (g : Seg) : (m.setSeg r g).undo = m.undo := rfl
@[simp] theorem setSeg_held (m : Strand) (r : SegIx) (g : Seg) : (m.setSeg r g).held = m.held := rfl
@[simp] theorem setSeg_async (m : Strand) (r : SegIx) (g : Seg) : (m.setSeg r g).async = m.async := rfl
@[simp] theorem setSeg_lost (m : Strand) (r : SegIx) (g : Seg) : (m.setSeg r g).lost = m.lost := rfl
@[simp] theorem setSeg_fixed (m : Strand) (r : SegIx) (g : Seg) : (m.setSeg r g).fixed = m.fixed := rfl
@[simp] theorem setSeg_cue (m : Strand) (r : SegIx) (g : Seg) : (m.setSeg r g).cue = m.cue := rfl
@[simp] theorem setSeg_drain (m : Strand) (r : SegIx) (g : Seg) : (m.setSeg r g).drain = m.drain := rfl
@[simp] theorem setSeg_entry (m : Strand) (r : SegIx) (g : Seg) : (m.setSeg r g).entry = m.entry := rfl
@[simp] theorem setSeg_readyAt (m : Strand) (r : SegIx) (g : Seg) : (m.setSeg r g).readyAt = m.readyAt := rfl
@[simp] theorem setSeg_readyCls (m : Strand) (r : SegIx) (g : Seg) : (m.setSeg r g).readyCls = m.readyCls := rfl
@[simp] theorem setSeg_forfeit (m : Strand) (r : SegIx) (g : Seg) : (m.setSeg r g).forfeit = m.forfeit := rfl
@[simp] theorem setSeg_forfeitCls (m : Strand) (r : SegIx) (g : Seg) : (m.setSeg r g).forfeitCls = m.forfeitCls := rfl
@[simp] theorem setSeg_forfeitQ (m : Strand) (r : SegIx) (g : Seg) : (m.setSeg r g).forfeitQ = m.forfeitQ := rfl
@[simp] theorem setSeg_block (m : Strand) (r : SegIx) (g : Seg) : (m.setSeg r g).block = m.block := rfl
@[simp] theorem setSeg_xwait (m : Strand) (r : SegIx) (g : Seg) : (m.setSeg r g).xwait = m.xwait := rfl
@[simp] theorem setSeg_inbox (m : Strand) (r : SegIx) (g : Seg) : (m.setSeg r g).inbox = m.inbox := rfl
@[simp] theorem setSeg_inPorts (m : Strand) (r : SegIx) (g : Seg) : (m.setSeg r g).inPorts = m.inPorts := rfl
@[simp] theorem setSeg_credits (m : Strand) (r : SegIx) (g : Seg) : (m.setSeg r g).credits = m.credits := rfl
@[simp] theorem setSeg_token (m : Strand) (r : SegIx) (g : Seg) : (m.setSeg r g).token = m.token := rfl
@[simp] theorem setSeg_parkDl (m : Strand) (r : SegIx) (g : Seg) : (m.setSeg r g).parkDl = m.parkDl := rfl
@[simp] theorem setSeg_parkDst (m : Strand) (r : SegIx) (g : Seg) : (m.setSeg r g).parkDst = m.parkDst := rfl
@[simp] theorem setSeg_parkCue (m : Strand) (r : SegIx) (g : Seg) : (m.setSeg r g).parkCue = m.parkCue := rfl
@[simp] theorem setSeg_parkAgain (m : Strand) (r : SegIx) (g : Seg) : (m.setSeg r g).parkAgain = m.parkAgain := rfl
@[simp] theorem setSeg_task (m : Strand) (r : SegIx) (g : Seg) : (m.setSeg r g).task = m.task := rfl
@[simp] theorem setSeg_accs (m : Strand) (r : SegIx) (g : Seg) : (m.setSeg r g).accs = m.accs := rfl
@[simp] theorem setSeg_rings (m : Strand) (r : SegIx) (g : Seg) : (m.setSeg r g).rings = m.rings := rfl
@[simp] theorem setSeg_mstat (m : Strand) (r : SegIx) (g : Seg) : (m.setSeg r g).mstat = m.mstat := rfl
@[simp] theorem setSeg_mstatNew (m : Strand) (r : SegIx) (g : Seg) : (m.setSeg r g).mstatNew = m.mstatNew := rfl
@[simp] theorem setSeg_mq (m : Strand) (r : SegIx) (g : Seg) : (m.setSeg r g).mq = m.mq := rfl
@[simp] theorem setSeg_mapped (m : Strand) (r : SegIx) (g : Seg) : (m.setSeg r g).mapped = m.mapped := rfl
@[simp] theorem setSeg_poll (m : Strand) (r : SegIx) (g : Seg) : (m.setSeg r g).poll = m.poll := rfl
@[simp] theorem setSeg_packet (m : Strand) (r : SegIx) (g : Seg) : (m.setSeg r g).packet = m.packet := rfl
@[simp] theorem setSeg_copies (m : Strand) (r : SegIx) (g : Seg) : (m.setSeg r g).copies = m.copies := rfl
@[simp] theorem setSeg_dbg (m : Strand) (r : SegIx) (g : Seg) : (m.setSeg r g).dbg = m.dbg := rfl
@[simp] theorem setSeg_swap (m : Strand) (r : SegIx) (g : Seg) : (m.setSeg r g).swap = m.swap := rfl

/-! ### Strand.trapRegs -/

@[simp] theorem trapRegs_sa (m : Strand) (pc : Word) (cause : Cause) (addr : Word) (info : BitVec 24) : (m.trapRegs pc cause addr info).sa = m.sa := rfl
@[simp] theorem trapRegs_kind (m : Strand) (pc : Word) (cause : Cause) (addr : Word) (info : BitVec 24) : (m.trapRegs pc cause addr info).kind = m.kind := rfl
@[simp] theorem trapRegs_width (m : Strand) (pc : Word) (cause : Cause) (addr : Word) (info : BitVec 24) : (m.trapRegs pc cause addr info).width = m.width := rfl
@[simp] theorem trapRegs_enabled (m : Strand) (pc : Word) (cause : Cause) (addr : Word) (info : BitVec 24) : (m.trapRegs pc cause addr info).enabled = m.enabled := rfl
@[simp] theorem trapRegs_run (m : Strand) (pc : Word) (cause : Cause) (addr : Word) (info : BitVec 24) : (m.trapRegs pc cause addr info).run = m.run := rfl
@[simp] theorem trapRegs_vcid (m : Strand) (pc : Word) (cause : Cause) (addr : Word) (info : BitVec 24) : (m.trapRegs pc cause addr info).vcid = m.vcid := rfl
@[simp] theorem trapRegs_troupe (m : Strand) (pc : Word) (cause : Cause) (addr : Word) (info : BitVec 24) : (m.trapRegs pc cause addr info).troupe = m.troupe := rfl
@[simp] theorem trapRegs_asid (m : Strand) (pc : Word) (cause : Cause) (addr : Word) (info : BitVec 24) : (m.trapRegs pc cause addr info).asid = m.asid := rfl
@[simp] theorem trapRegs_root (m : Strand) (pc : Word) (cause : Cause) (addr : Word) (info : BitVec 24) : (m.trapRegs pc cause addr info).root = m.root := rfl
@[simp] theorem trapRegs_regs (m : Strand) (pc : Word) (cause : Cause) (addr : Word) (info : BitVec 24) : (m.trapRegs pc cause addr info).regs = m.regs := rfl
@[simp] theorem trapRegs_vregs (m : Strand) (pc : Word) (cause : Cause) (addr : Word) (info : BitVec 24) : (m.trapRegs pc cause addr info).vregs = m.vregs := rfl
@[simp] theorem trapRegs_kregs (m : Strand) (pc : Word) (cause : Cause) (addr : Word) (info : BitVec 24) : (m.trapRegs pc cause addr info).kregs = m.kregs := rfl
@[simp] theorem trapRegs_segs (m : Strand) (pc : Word) (cause : Cause) (addr : Word) (info : BitVec 24) : (m.trapRegs pc cause addr info).segs = m.segs := rfl
@[simp] theorem trapRegs_codeSeg (m : Strand) (pc : Word) (cause : Cause) (addr : Word) (info : BitVec 24) : (m.trapRegs pc cause addr info).codeSeg = m.codeSeg := rfl
@[simp] theorem trapRegs_trapSeg (m : Strand) (pc : Word) (cause : Cause) (addr : Word) (info : BitVec 24) : (m.trapRegs pc cause addr info).trapSeg = m.trapSeg := rfl
@[simp] theorem trapRegs_pc (m : Strand) (pc : Word) (cause : Cause) (addr : Word) (info : BitVec 24) : (m.trapRegs pc cause addr info).pc = m.pc := rfl
@[simp] theorem trapRegs_h (m : Strand) (pc : Word) (cause : Cause) (addr : Word) (info : BitVec 24) : (m.trapRegs pc cause addr info).h = m.h := rfl
@[simp] theorem trapRegs_flags (m : Strand) (pc : Word) (cause : Cause) (addr : Word) (info : BitVec 24) : (m.trapRegs pc cause addr info).flags = m.flags := rfl
@[simp] theorem trapRegs_fctl (m : Strand) (pc : Word) (cause : Cause) (addr : Word) (info : BitVec 24) : (m.trapRegs pc cause addr info).fctl = m.fctl := rfl
@[simp] theorem trapRegs_tvec (m : Strand) (pc : Word) (cause : Cause) (addr : Word) (info : BitVec 24) : (m.trapRegs pc cause addr info).tvec = m.tvec := rfl
@[simp] theorem trapRegs_trapPc (m : Strand) (pc : Word) (cause : Cause) (addr : Word) (info : BitVec 24) : (m.trapRegs pc cause addr info).trapPc = pc := rfl
@[simp] theorem trapRegs_trapCause (m : Strand) (pc : Word) (cause : Cause) (addr : Word) (info : BitVec 24) : (m.trapRegs pc cause addr info).trapCause = cause.code := rfl
@[simp] theorem trapRegs_trapAddr (m : Strand) (pc : Word) (cause : Cause) (addr : Word) (info : BitVec 24) : (m.trapRegs pc cause addr info).trapAddr = addr := rfl
@[simp] theorem trapRegs_trapInfo (m : Strand) (pc : Word) (cause : Cause) (addr : Word) (info : BitVec 24) : (m.trapRegs pc cause addr info).trapInfo = info := rfl
@[simp] theorem trapRegs_frontLatch (m : Strand) (pc : Word) (cause : Cause) (addr : Word) (info : BitVec 24) : (m.trapRegs pc cause addr info).frontLatch = m.frontLatch := rfl
@[simp] theorem trapRegs_census (m : Strand) (pc : Word) (cause : Cause) (addr : Word) (info : BitVec 24) : (m.trapRegs pc cause addr info).census = m.census := rfl
@[simp] theorem trapRegs_ops (m : Strand) (pc : Word) (cause : Cause) (addr : Word) (info : BitVec 24) : (m.trapRegs pc cause addr info).ops = m.ops := rfl
@[simp] theorem trapRegs_nextQ (m : Strand) (pc : Word) (cause : Cause) (addr : Word) (info : BitVec 24) : (m.trapRegs pc cause addr info).nextQ = m.nextQ := rfl
@[simp] theorem trapRegs_undo (m : Strand) (pc : Word) (cause : Cause) (addr : Word) (info : BitVec 24) : (m.trapRegs pc cause addr info).undo = m.undo := rfl
@[simp] theorem trapRegs_held (m : Strand) (pc : Word) (cause : Cause) (addr : Word) (info : BitVec 24) : (m.trapRegs pc cause addr info).held = m.held := rfl
@[simp] theorem trapRegs_async (m : Strand) (pc : Word) (cause : Cause) (addr : Word) (info : BitVec 24) : (m.trapRegs pc cause addr info).async = m.async := rfl
@[simp] theorem trapRegs_lost (m : Strand) (pc : Word) (cause : Cause) (addr : Word) (info : BitVec 24) : (m.trapRegs pc cause addr info).lost = m.lost := rfl
@[simp] theorem trapRegs_fixed (m : Strand) (pc : Word) (cause : Cause) (addr : Word) (info : BitVec 24) : (m.trapRegs pc cause addr info).fixed = m.fixed := rfl
@[simp] theorem trapRegs_cue (m : Strand) (pc : Word) (cause : Cause) (addr : Word) (info : BitVec 24) : (m.trapRegs pc cause addr info).cue = m.cue := rfl
@[simp] theorem trapRegs_drain (m : Strand) (pc : Word) (cause : Cause) (addr : Word) (info : BitVec 24) : (m.trapRegs pc cause addr info).drain = m.drain := rfl
@[simp] theorem trapRegs_entry (m : Strand) (pc : Word) (cause : Cause) (addr : Word) (info : BitVec 24) : (m.trapRegs pc cause addr info).entry = m.entry := rfl
@[simp] theorem trapRegs_readyAt (m : Strand) (pc : Word) (cause : Cause) (addr : Word) (info : BitVec 24) : (m.trapRegs pc cause addr info).readyAt = m.readyAt := rfl
@[simp] theorem trapRegs_readyCls (m : Strand) (pc : Word) (cause : Cause) (addr : Word) (info : BitVec 24) : (m.trapRegs pc cause addr info).readyCls = m.readyCls := rfl
@[simp] theorem trapRegs_forfeit (m : Strand) (pc : Word) (cause : Cause) (addr : Word) (info : BitVec 24) : (m.trapRegs pc cause addr info).forfeit = m.forfeit := rfl
@[simp] theorem trapRegs_forfeitCls (m : Strand) (pc : Word) (cause : Cause) (addr : Word) (info : BitVec 24) : (m.trapRegs pc cause addr info).forfeitCls = m.forfeitCls := rfl
@[simp] theorem trapRegs_forfeitQ (m : Strand) (pc : Word) (cause : Cause) (addr : Word) (info : BitVec 24) : (m.trapRegs pc cause addr info).forfeitQ = m.forfeitQ := rfl
@[simp] theorem trapRegs_block (m : Strand) (pc : Word) (cause : Cause) (addr : Word) (info : BitVec 24) : (m.trapRegs pc cause addr info).block = m.block := rfl
@[simp] theorem trapRegs_xwait (m : Strand) (pc : Word) (cause : Cause) (addr : Word) (info : BitVec 24) : (m.trapRegs pc cause addr info).xwait = m.xwait := rfl
@[simp] theorem trapRegs_inbox (m : Strand) (pc : Word) (cause : Cause) (addr : Word) (info : BitVec 24) : (m.trapRegs pc cause addr info).inbox = m.inbox := rfl
@[simp] theorem trapRegs_inPorts (m : Strand) (pc : Word) (cause : Cause) (addr : Word) (info : BitVec 24) : (m.trapRegs pc cause addr info).inPorts = m.inPorts := rfl
@[simp] theorem trapRegs_credits (m : Strand) (pc : Word) (cause : Cause) (addr : Word) (info : BitVec 24) : (m.trapRegs pc cause addr info).credits = m.credits := rfl
@[simp] theorem trapRegs_token (m : Strand) (pc : Word) (cause : Cause) (addr : Word) (info : BitVec 24) : (m.trapRegs pc cause addr info).token = m.token := rfl
@[simp] theorem trapRegs_parkDl (m : Strand) (pc : Word) (cause : Cause) (addr : Word) (info : BitVec 24) : (m.trapRegs pc cause addr info).parkDl = m.parkDl := rfl
@[simp] theorem trapRegs_parkDst (m : Strand) (pc : Word) (cause : Cause) (addr : Word) (info : BitVec 24) : (m.trapRegs pc cause addr info).parkDst = m.parkDst := rfl
@[simp] theorem trapRegs_parkCue (m : Strand) (pc : Word) (cause : Cause) (addr : Word) (info : BitVec 24) : (m.trapRegs pc cause addr info).parkCue = m.parkCue := rfl
@[simp] theorem trapRegs_parkAgain (m : Strand) (pc : Word) (cause : Cause) (addr : Word) (info : BitVec 24) : (m.trapRegs pc cause addr info).parkAgain = m.parkAgain := rfl
@[simp] theorem trapRegs_task (m : Strand) (pc : Word) (cause : Cause) (addr : Word) (info : BitVec 24) : (m.trapRegs pc cause addr info).task = m.task := rfl
@[simp] theorem trapRegs_accs (m : Strand) (pc : Word) (cause : Cause) (addr : Word) (info : BitVec 24) : (m.trapRegs pc cause addr info).accs = m.accs := rfl
@[simp] theorem trapRegs_rings (m : Strand) (pc : Word) (cause : Cause) (addr : Word) (info : BitVec 24) : (m.trapRegs pc cause addr info).rings = m.rings := rfl
@[simp] theorem trapRegs_mstat (m : Strand) (pc : Word) (cause : Cause) (addr : Word) (info : BitVec 24) : (m.trapRegs pc cause addr info).mstat = m.mstat := rfl
@[simp] theorem trapRegs_mstatNew (m : Strand) (pc : Word) (cause : Cause) (addr : Word) (info : BitVec 24) : (m.trapRegs pc cause addr info).mstatNew = m.mstatNew := rfl
@[simp] theorem trapRegs_mq (m : Strand) (pc : Word) (cause : Cause) (addr : Word) (info : BitVec 24) : (m.trapRegs pc cause addr info).mq = m.mq := rfl
@[simp] theorem trapRegs_mapped (m : Strand) (pc : Word) (cause : Cause) (addr : Word) (info : BitVec 24) : (m.trapRegs pc cause addr info).mapped = m.mapped := rfl
@[simp] theorem trapRegs_poll (m : Strand) (pc : Word) (cause : Cause) (addr : Word) (info : BitVec 24) : (m.trapRegs pc cause addr info).poll = m.poll := rfl
@[simp] theorem trapRegs_packet (m : Strand) (pc : Word) (cause : Cause) (addr : Word) (info : BitVec 24) : (m.trapRegs pc cause addr info).packet = m.packet := rfl
@[simp] theorem trapRegs_copies (m : Strand) (pc : Word) (cause : Cause) (addr : Word) (info : BitVec 24) : (m.trapRegs pc cause addr info).copies = m.copies := rfl
@[simp] theorem trapRegs_dbg (m : Strand) (pc : Word) (cause : Cause) (addr : Word) (info : BitVec 24) : (m.trapRegs pc cause addr info).dbg = m.dbg := rfl
@[simp] theorem trapRegs_swap (m : Strand) (pc : Word) (cause : Cause) (addr : Word) (info : BitVec 24) : (m.trapRegs pc cause addr info).swap = m.swap := rfl

/-! ### Strand.save -/

@[simp] theorem save_sa (m : Strand) (r : RegName) (v : Word) : (m.save r v).sa = m.sa := by unfold Strand.save; split <;> rfl
@[simp] theorem save_kind (m : Strand) (r : RegName) (v : Word) : (m.save r v).kind = m.kind := by unfold Strand.save; split <;> rfl
@[simp] theorem save_width (m : Strand) (r : RegName) (v : Word) : (m.save r v).width = m.width := by unfold Strand.save; split <;> rfl
@[simp] theorem save_enabled (m : Strand) (r : RegName) (v : Word) : (m.save r v).enabled = m.enabled := by unfold Strand.save; split <;> rfl
@[simp] theorem save_run (m : Strand) (r : RegName) (v : Word) : (m.save r v).run = m.run := by unfold Strand.save; split <;> rfl
@[simp] theorem save_vcid (m : Strand) (r : RegName) (v : Word) : (m.save r v).vcid = m.vcid := by unfold Strand.save; split <;> rfl
@[simp] theorem save_troupe (m : Strand) (r : RegName) (v : Word) : (m.save r v).troupe = m.troupe := by unfold Strand.save; split <;> rfl
@[simp] theorem save_asid (m : Strand) (r : RegName) (v : Word) : (m.save r v).asid = m.asid := by unfold Strand.save; split <;> rfl
@[simp] theorem save_root (m : Strand) (r : RegName) (v : Word) : (m.save r v).root = m.root := by unfold Strand.save; split <;> rfl
@[simp] theorem save_regs (m : Strand) (r : RegName) (v : Word) : (m.save r v).regs = m.regs := by unfold Strand.save; split <;> rfl
@[simp] theorem save_vregs (m : Strand) (r : RegName) (v : Word) : (m.save r v).vregs = m.vregs := by unfold Strand.save; split <;> rfl
@[simp] theorem save_kregs (m : Strand) (r : RegName) (v : Word) : (m.save r v).kregs = m.kregs := by unfold Strand.save; split <;> rfl
@[simp] theorem save_segs (m : Strand) (r : RegName) (v : Word) : (m.save r v).segs = m.segs := by unfold Strand.save; split <;> rfl
@[simp] theorem save_codeSeg (m : Strand) (r : RegName) (v : Word) : (m.save r v).codeSeg = m.codeSeg := by unfold Strand.save; split <;> rfl
@[simp] theorem save_trapSeg (m : Strand) (r : RegName) (v : Word) : (m.save r v).trapSeg = m.trapSeg := by unfold Strand.save; split <;> rfl
@[simp] theorem save_pc (m : Strand) (r : RegName) (v : Word) : (m.save r v).pc = m.pc := by unfold Strand.save; split <;> rfl
@[simp] theorem save_h (m : Strand) (r : RegName) (v : Word) : (m.save r v).h = m.h := by unfold Strand.save; split <;> rfl
@[simp] theorem save_flags (m : Strand) (r : RegName) (v : Word) : (m.save r v).flags = m.flags := by unfold Strand.save; split <;> rfl
@[simp] theorem save_fctl (m : Strand) (r : RegName) (v : Word) : (m.save r v).fctl = m.fctl := by unfold Strand.save; split <;> rfl
@[simp] theorem save_tvec (m : Strand) (r : RegName) (v : Word) : (m.save r v).tvec = m.tvec := by unfold Strand.save; split <;> rfl
@[simp] theorem save_trapPc (m : Strand) (r : RegName) (v : Word) : (m.save r v).trapPc = m.trapPc := by unfold Strand.save; split <;> rfl
@[simp] theorem save_trapCause (m : Strand) (r : RegName) (v : Word) : (m.save r v).trapCause = m.trapCause := by unfold Strand.save; split <;> rfl
@[simp] theorem save_trapAddr (m : Strand) (r : RegName) (v : Word) : (m.save r v).trapAddr = m.trapAddr := by unfold Strand.save; split <;> rfl
@[simp] theorem save_trapInfo (m : Strand) (r : RegName) (v : Word) : (m.save r v).trapInfo = m.trapInfo := by unfold Strand.save; split <;> rfl
@[simp] theorem save_frontLatch (m : Strand) (r : RegName) (v : Word) : (m.save r v).frontLatch = m.frontLatch := by unfold Strand.save; split <;> rfl
@[simp] theorem save_census (m : Strand) (r : RegName) (v : Word) : (m.save r v).census = m.census := by unfold Strand.save; split <;> rfl
@[simp] theorem save_ops (m : Strand) (r : RegName) (v : Word) : (m.save r v).ops = m.ops := by unfold Strand.save; split <;> rfl
@[simp] theorem save_nextQ (m : Strand) (r : RegName) (v : Word) : (m.save r v).nextQ = m.nextQ := by unfold Strand.save; split <;> rfl
@[simp] theorem save_held (m : Strand) (r : RegName) (v : Word) : (m.save r v).held = m.held := by unfold Strand.save; split <;> rfl
@[simp] theorem save_async (m : Strand) (r : RegName) (v : Word) : (m.save r v).async = m.async := by unfold Strand.save; split <;> rfl
@[simp] theorem save_lost (m : Strand) (r : RegName) (v : Word) : (m.save r v).lost = m.lost := by unfold Strand.save; split <;> rfl
@[simp] theorem save_fixed (m : Strand) (r : RegName) (v : Word) : (m.save r v).fixed = m.fixed := by unfold Strand.save; split <;> rfl
@[simp] theorem save_cue (m : Strand) (r : RegName) (v : Word) : (m.save r v).cue = m.cue := by unfold Strand.save; split <;> rfl
@[simp] theorem save_drain (m : Strand) (r : RegName) (v : Word) : (m.save r v).drain = m.drain := by unfold Strand.save; split <;> rfl
@[simp] theorem save_entry (m : Strand) (r : RegName) (v : Word) : (m.save r v).entry = m.entry := by unfold Strand.save; split <;> rfl
@[simp] theorem save_readyAt (m : Strand) (r : RegName) (v : Word) : (m.save r v).readyAt = m.readyAt := by unfold Strand.save; split <;> rfl
@[simp] theorem save_readyCls (m : Strand) (r : RegName) (v : Word) : (m.save r v).readyCls = m.readyCls := by unfold Strand.save; split <;> rfl
@[simp] theorem save_forfeit (m : Strand) (r : RegName) (v : Word) : (m.save r v).forfeit = m.forfeit := by unfold Strand.save; split <;> rfl
@[simp] theorem save_forfeitCls (m : Strand) (r : RegName) (v : Word) : (m.save r v).forfeitCls = m.forfeitCls := by unfold Strand.save; split <;> rfl
@[simp] theorem save_forfeitQ (m : Strand) (r : RegName) (v : Word) : (m.save r v).forfeitQ = m.forfeitQ := by unfold Strand.save; split <;> rfl
@[simp] theorem save_block (m : Strand) (r : RegName) (v : Word) : (m.save r v).block = m.block := by unfold Strand.save; split <;> rfl
@[simp] theorem save_xwait (m : Strand) (r : RegName) (v : Word) : (m.save r v).xwait = m.xwait := by unfold Strand.save; split <;> rfl
@[simp] theorem save_inbox (m : Strand) (r : RegName) (v : Word) : (m.save r v).inbox = m.inbox := by unfold Strand.save; split <;> rfl
@[simp] theorem save_inPorts (m : Strand) (r : RegName) (v : Word) : (m.save r v).inPorts = m.inPorts := by unfold Strand.save; split <;> rfl
@[simp] theorem save_credits (m : Strand) (r : RegName) (v : Word) : (m.save r v).credits = m.credits := by unfold Strand.save; split <;> rfl
@[simp] theorem save_token (m : Strand) (r : RegName) (v : Word) : (m.save r v).token = m.token := by unfold Strand.save; split <;> rfl
@[simp] theorem save_parkDl (m : Strand) (r : RegName) (v : Word) : (m.save r v).parkDl = m.parkDl := by unfold Strand.save; split <;> rfl
@[simp] theorem save_parkDst (m : Strand) (r : RegName) (v : Word) : (m.save r v).parkDst = m.parkDst := by unfold Strand.save; split <;> rfl
@[simp] theorem save_parkCue (m : Strand) (r : RegName) (v : Word) : (m.save r v).parkCue = m.parkCue := by unfold Strand.save; split <;> rfl
@[simp] theorem save_parkAgain (m : Strand) (r : RegName) (v : Word) : (m.save r v).parkAgain = m.parkAgain := by unfold Strand.save; split <;> rfl
@[simp] theorem save_task (m : Strand) (r : RegName) (v : Word) : (m.save r v).task = m.task := by unfold Strand.save; split <;> rfl
@[simp] theorem save_accs (m : Strand) (r : RegName) (v : Word) : (m.save r v).accs = m.accs := by unfold Strand.save; split <;> rfl
@[simp] theorem save_rings (m : Strand) (r : RegName) (v : Word) : (m.save r v).rings = m.rings := by unfold Strand.save; split <;> rfl
@[simp] theorem save_mstat (m : Strand) (r : RegName) (v : Word) : (m.save r v).mstat = m.mstat := by unfold Strand.save; split <;> rfl
@[simp] theorem save_mstatNew (m : Strand) (r : RegName) (v : Word) : (m.save r v).mstatNew = m.mstatNew := by unfold Strand.save; split <;> rfl
@[simp] theorem save_mq (m : Strand) (r : RegName) (v : Word) : (m.save r v).mq = m.mq := by unfold Strand.save; split <;> rfl
@[simp] theorem save_mapped (m : Strand) (r : RegName) (v : Word) : (m.save r v).mapped = m.mapped := by unfold Strand.save; split <;> rfl
@[simp] theorem save_poll (m : Strand) (r : RegName) (v : Word) : (m.save r v).poll = m.poll := by unfold Strand.save; split <;> rfl
@[simp] theorem save_packet (m : Strand) (r : RegName) (v : Word) : (m.save r v).packet = m.packet := by unfold Strand.save; split <;> rfl
@[simp] theorem save_copies (m : Strand) (r : RegName) (v : Word) : (m.save r v).copies = m.copies := by unfold Strand.save; split <;> rfl
@[simp] theorem save_dbg (m : Strand) (r : RegName) (v : Word) : (m.save r v).dbg = m.dbg := by unfold Strand.save; split <;> rfl
@[simp] theorem save_swap (m : Strand) (r : RegName) (v : Word) : (m.save r v).swap = m.swap := by unfold Strand.save; split <;> rfl

/-! ### Strand.pokeS -/

@[simp] theorem pokeS_sa (m : Strand) (r : SReg) (v : Word) : (m.pokeS r v).sa = m.sa := by unfold Strand.pokeS; split <;> rfl
@[simp] theorem pokeS_kind (m : Strand) (r : SReg) (v : Word) : (m.pokeS r v).kind = m.kind := by unfold Strand.pokeS; split <;> rfl
@[simp] theorem pokeS_width (m : Strand) (r : SReg) (v : Word) : (m.pokeS r v).width = m.width := by unfold Strand.pokeS; split <;> rfl
@[simp] theorem pokeS_enabled (m : Strand) (r : SReg) (v : Word) : (m.pokeS r v).enabled = m.enabled := by unfold Strand.pokeS; split <;> rfl
@[simp] theorem pokeS_run (m : Strand) (r : SReg) (v : Word) : (m.pokeS r v).run = m.run := by unfold Strand.pokeS; split <;> rfl
@[simp] theorem pokeS_vcid (m : Strand) (r : SReg) (v : Word) : (m.pokeS r v).vcid = m.vcid := by unfold Strand.pokeS; split <;> rfl
@[simp] theorem pokeS_troupe (m : Strand) (r : SReg) (v : Word) : (m.pokeS r v).troupe = m.troupe := by unfold Strand.pokeS; split <;> rfl
@[simp] theorem pokeS_asid (m : Strand) (r : SReg) (v : Word) : (m.pokeS r v).asid = m.asid := by unfold Strand.pokeS; split <;> rfl
@[simp] theorem pokeS_root (m : Strand) (r : SReg) (v : Word) : (m.pokeS r v).root = m.root := by unfold Strand.pokeS; split <;> rfl
@[simp] theorem pokeS_vregs (m : Strand) (r : SReg) (v : Word) : (m.pokeS r v).vregs = m.vregs := by unfold Strand.pokeS; split <;> rfl
@[simp] theorem pokeS_kregs (m : Strand) (r : SReg) (v : Word) : (m.pokeS r v).kregs = m.kregs := by unfold Strand.pokeS; split <;> rfl
@[simp] theorem pokeS_segs (m : Strand) (r : SReg) (v : Word) : (m.pokeS r v).segs = m.segs := by unfold Strand.pokeS; split <;> rfl
@[simp] theorem pokeS_codeSeg (m : Strand) (r : SReg) (v : Word) : (m.pokeS r v).codeSeg = m.codeSeg := by unfold Strand.pokeS; split <;> rfl
@[simp] theorem pokeS_trapSeg (m : Strand) (r : SReg) (v : Word) : (m.pokeS r v).trapSeg = m.trapSeg := by unfold Strand.pokeS; split <;> rfl
@[simp] theorem pokeS_pc (m : Strand) (r : SReg) (v : Word) : (m.pokeS r v).pc = m.pc := by unfold Strand.pokeS; split <;> rfl
@[simp] theorem pokeS_h (m : Strand) (r : SReg) (v : Word) : (m.pokeS r v).h = m.h := by unfold Strand.pokeS; split <;> rfl
@[simp] theorem pokeS_flags (m : Strand) (r : SReg) (v : Word) : (m.pokeS r v).flags = m.flags := by unfold Strand.pokeS; split <;> rfl
@[simp] theorem pokeS_fctl (m : Strand) (r : SReg) (v : Word) : (m.pokeS r v).fctl = m.fctl := by unfold Strand.pokeS; split <;> rfl
@[simp] theorem pokeS_tvec (m : Strand) (r : SReg) (v : Word) : (m.pokeS r v).tvec = m.tvec := by unfold Strand.pokeS; split <;> rfl
@[simp] theorem pokeS_trapPc (m : Strand) (r : SReg) (v : Word) : (m.pokeS r v).trapPc = m.trapPc := by unfold Strand.pokeS; split <;> rfl
@[simp] theorem pokeS_trapCause (m : Strand) (r : SReg) (v : Word) : (m.pokeS r v).trapCause = m.trapCause := by unfold Strand.pokeS; split <;> rfl
@[simp] theorem pokeS_trapAddr (m : Strand) (r : SReg) (v : Word) : (m.pokeS r v).trapAddr = m.trapAddr := by unfold Strand.pokeS; split <;> rfl
@[simp] theorem pokeS_trapInfo (m : Strand) (r : SReg) (v : Word) : (m.pokeS r v).trapInfo = m.trapInfo := by unfold Strand.pokeS; split <;> rfl
@[simp] theorem pokeS_frontLatch (m : Strand) (r : SReg) (v : Word) : (m.pokeS r v).frontLatch = m.frontLatch := by unfold Strand.pokeS; split <;> rfl
@[simp] theorem pokeS_census (m : Strand) (r : SReg) (v : Word) : (m.pokeS r v).census = m.census := by unfold Strand.pokeS; split <;> rfl
@[simp] theorem pokeS_ops (m : Strand) (r : SReg) (v : Word) : (m.pokeS r v).ops = m.ops := by unfold Strand.pokeS; split <;> rfl
@[simp] theorem pokeS_nextQ (m : Strand) (r : SReg) (v : Word) : (m.pokeS r v).nextQ = m.nextQ := by unfold Strand.pokeS; split <;> rfl
@[simp] theorem pokeS_undo (m : Strand) (r : SReg) (v : Word) : (m.pokeS r v).undo = m.undo := by unfold Strand.pokeS; split <;> rfl
@[simp] theorem pokeS_held (m : Strand) (r : SReg) (v : Word) : (m.pokeS r v).held = m.held := by unfold Strand.pokeS; split <;> rfl
@[simp] theorem pokeS_async (m : Strand) (r : SReg) (v : Word) : (m.pokeS r v).async = m.async := by unfold Strand.pokeS; split <;> rfl
@[simp] theorem pokeS_lost (m : Strand) (r : SReg) (v : Word) : (m.pokeS r v).lost = m.lost := by unfold Strand.pokeS; split <;> rfl
@[simp] theorem pokeS_fixed (m : Strand) (r : SReg) (v : Word) : (m.pokeS r v).fixed = m.fixed := by unfold Strand.pokeS; split <;> rfl
@[simp] theorem pokeS_cue (m : Strand) (r : SReg) (v : Word) : (m.pokeS r v).cue = m.cue := by unfold Strand.pokeS; split <;> rfl
@[simp] theorem pokeS_drain (m : Strand) (r : SReg) (v : Word) : (m.pokeS r v).drain = m.drain := by unfold Strand.pokeS; split <;> rfl
@[simp] theorem pokeS_entry (m : Strand) (r : SReg) (v : Word) : (m.pokeS r v).entry = m.entry := by unfold Strand.pokeS; split <;> rfl
@[simp] theorem pokeS_readyAt (m : Strand) (r : SReg) (v : Word) : (m.pokeS r v).readyAt = m.readyAt := by unfold Strand.pokeS; split <;> rfl
@[simp] theorem pokeS_readyCls (m : Strand) (r : SReg) (v : Word) : (m.pokeS r v).readyCls = m.readyCls := by unfold Strand.pokeS; split <;> rfl
@[simp] theorem pokeS_forfeit (m : Strand) (r : SReg) (v : Word) : (m.pokeS r v).forfeit = m.forfeit := by unfold Strand.pokeS; split <;> rfl
@[simp] theorem pokeS_forfeitCls (m : Strand) (r : SReg) (v : Word) : (m.pokeS r v).forfeitCls = m.forfeitCls := by unfold Strand.pokeS; split <;> rfl
@[simp] theorem pokeS_forfeitQ (m : Strand) (r : SReg) (v : Word) : (m.pokeS r v).forfeitQ = m.forfeitQ := by unfold Strand.pokeS; split <;> rfl
@[simp] theorem pokeS_block (m : Strand) (r : SReg) (v : Word) : (m.pokeS r v).block = m.block := by unfold Strand.pokeS; split <;> rfl
@[simp] theorem pokeS_xwait (m : Strand) (r : SReg) (v : Word) : (m.pokeS r v).xwait = m.xwait := by unfold Strand.pokeS; split <;> rfl
@[simp] theorem pokeS_inbox (m : Strand) (r : SReg) (v : Word) : (m.pokeS r v).inbox = m.inbox := by unfold Strand.pokeS; split <;> rfl
@[simp] theorem pokeS_inPorts (m : Strand) (r : SReg) (v : Word) : (m.pokeS r v).inPorts = m.inPorts := by unfold Strand.pokeS; split <;> rfl
@[simp] theorem pokeS_credits (m : Strand) (r : SReg) (v : Word) : (m.pokeS r v).credits = m.credits := by unfold Strand.pokeS; split <;> rfl
@[simp] theorem pokeS_token (m : Strand) (r : SReg) (v : Word) : (m.pokeS r v).token = m.token := by unfold Strand.pokeS; split <;> rfl
@[simp] theorem pokeS_parkDl (m : Strand) (r : SReg) (v : Word) : (m.pokeS r v).parkDl = m.parkDl := by unfold Strand.pokeS; split <;> rfl
@[simp] theorem pokeS_parkDst (m : Strand) (r : SReg) (v : Word) : (m.pokeS r v).parkDst = m.parkDst := by unfold Strand.pokeS; split <;> rfl
@[simp] theorem pokeS_parkCue (m : Strand) (r : SReg) (v : Word) : (m.pokeS r v).parkCue = m.parkCue := by unfold Strand.pokeS; split <;> rfl
@[simp] theorem pokeS_parkAgain (m : Strand) (r : SReg) (v : Word) : (m.pokeS r v).parkAgain = m.parkAgain := by unfold Strand.pokeS; split <;> rfl
@[simp] theorem pokeS_task (m : Strand) (r : SReg) (v : Word) : (m.pokeS r v).task = m.task := by unfold Strand.pokeS; split <;> rfl
@[simp] theorem pokeS_accs (m : Strand) (r : SReg) (v : Word) : (m.pokeS r v).accs = m.accs := by unfold Strand.pokeS; split <;> rfl
@[simp] theorem pokeS_rings (m : Strand) (r : SReg) (v : Word) : (m.pokeS r v).rings = m.rings := by unfold Strand.pokeS; split <;> rfl
@[simp] theorem pokeS_mstat (m : Strand) (r : SReg) (v : Word) : (m.pokeS r v).mstat = m.mstat := by unfold Strand.pokeS; split <;> rfl
@[simp] theorem pokeS_mstatNew (m : Strand) (r : SReg) (v : Word) : (m.pokeS r v).mstatNew = m.mstatNew := by unfold Strand.pokeS; split <;> rfl
@[simp] theorem pokeS_mq (m : Strand) (r : SReg) (v : Word) : (m.pokeS r v).mq = m.mq := by unfold Strand.pokeS; split <;> rfl
@[simp] theorem pokeS_mapped (m : Strand) (r : SReg) (v : Word) : (m.pokeS r v).mapped = m.mapped := by unfold Strand.pokeS; split <;> rfl
@[simp] theorem pokeS_poll (m : Strand) (r : SReg) (v : Word) : (m.pokeS r v).poll = m.poll := by unfold Strand.pokeS; split <;> rfl
@[simp] theorem pokeS_packet (m : Strand) (r : SReg) (v : Word) : (m.pokeS r v).packet = m.packet := by unfold Strand.pokeS; split <;> rfl
@[simp] theorem pokeS_copies (m : Strand) (r : SReg) (v : Word) : (m.pokeS r v).copies = m.copies := by unfold Strand.pokeS; split <;> rfl
@[simp] theorem pokeS_dbg (m : Strand) (r : SReg) (v : Word) : (m.pokeS r v).dbg = m.dbg := by unfold Strand.pokeS; split <;> rfl
@[simp] theorem pokeS_swap (m : Strand) (r : SReg) (v : Word) : (m.pokeS r v).swap = m.swap := by unfold Strand.pokeS; split <;> rfl

/-! ### Strand.pokeK -/

@[simp] theorem pokeK_sa (m : Strand) (r : KReg) (v : BitVec 16) : (m.pokeK r v).sa = m.sa := by unfold Strand.pokeK; split <;> rfl
@[simp] theorem pokeK_kind (m : Strand) (r : KReg) (v : BitVec 16) : (m.pokeK r v).kind = m.kind := by unfold Strand.pokeK; split <;> rfl
@[simp] theorem pokeK_width (m : Strand) (r : KReg) (v : BitVec 16) : (m.pokeK r v).width = m.width := by unfold Strand.pokeK; split <;> rfl
@[simp] theorem pokeK_enabled (m : Strand) (r : KReg) (v : BitVec 16) : (m.pokeK r v).enabled = m.enabled := by unfold Strand.pokeK; split <;> rfl
@[simp] theorem pokeK_run (m : Strand) (r : KReg) (v : BitVec 16) : (m.pokeK r v).run = m.run := by unfold Strand.pokeK; split <;> rfl
@[simp] theorem pokeK_vcid (m : Strand) (r : KReg) (v : BitVec 16) : (m.pokeK r v).vcid = m.vcid := by unfold Strand.pokeK; split <;> rfl
@[simp] theorem pokeK_troupe (m : Strand) (r : KReg) (v : BitVec 16) : (m.pokeK r v).troupe = m.troupe := by unfold Strand.pokeK; split <;> rfl
@[simp] theorem pokeK_asid (m : Strand) (r : KReg) (v : BitVec 16) : (m.pokeK r v).asid = m.asid := by unfold Strand.pokeK; split <;> rfl
@[simp] theorem pokeK_root (m : Strand) (r : KReg) (v : BitVec 16) : (m.pokeK r v).root = m.root := by unfold Strand.pokeK; split <;> rfl
@[simp] theorem pokeK_regs (m : Strand) (r : KReg) (v : BitVec 16) : (m.pokeK r v).regs = m.regs := by unfold Strand.pokeK; split <;> rfl
@[simp] theorem pokeK_vregs (m : Strand) (r : KReg) (v : BitVec 16) : (m.pokeK r v).vregs = m.vregs := by unfold Strand.pokeK; split <;> rfl
@[simp] theorem pokeK_segs (m : Strand) (r : KReg) (v : BitVec 16) : (m.pokeK r v).segs = m.segs := by unfold Strand.pokeK; split <;> rfl
@[simp] theorem pokeK_codeSeg (m : Strand) (r : KReg) (v : BitVec 16) : (m.pokeK r v).codeSeg = m.codeSeg := by unfold Strand.pokeK; split <;> rfl
@[simp] theorem pokeK_trapSeg (m : Strand) (r : KReg) (v : BitVec 16) : (m.pokeK r v).trapSeg = m.trapSeg := by unfold Strand.pokeK; split <;> rfl
@[simp] theorem pokeK_pc (m : Strand) (r : KReg) (v : BitVec 16) : (m.pokeK r v).pc = m.pc := by unfold Strand.pokeK; split <;> rfl
@[simp] theorem pokeK_h (m : Strand) (r : KReg) (v : BitVec 16) : (m.pokeK r v).h = m.h := by unfold Strand.pokeK; split <;> rfl
@[simp] theorem pokeK_flags (m : Strand) (r : KReg) (v : BitVec 16) : (m.pokeK r v).flags = m.flags := by unfold Strand.pokeK; split <;> rfl
@[simp] theorem pokeK_fctl (m : Strand) (r : KReg) (v : BitVec 16) : (m.pokeK r v).fctl = m.fctl := by unfold Strand.pokeK; split <;> rfl
@[simp] theorem pokeK_tvec (m : Strand) (r : KReg) (v : BitVec 16) : (m.pokeK r v).tvec = m.tvec := by unfold Strand.pokeK; split <;> rfl
@[simp] theorem pokeK_trapPc (m : Strand) (r : KReg) (v : BitVec 16) : (m.pokeK r v).trapPc = m.trapPc := by unfold Strand.pokeK; split <;> rfl
@[simp] theorem pokeK_trapCause (m : Strand) (r : KReg) (v : BitVec 16) : (m.pokeK r v).trapCause = m.trapCause := by unfold Strand.pokeK; split <;> rfl
@[simp] theorem pokeK_trapAddr (m : Strand) (r : KReg) (v : BitVec 16) : (m.pokeK r v).trapAddr = m.trapAddr := by unfold Strand.pokeK; split <;> rfl
@[simp] theorem pokeK_trapInfo (m : Strand) (r : KReg) (v : BitVec 16) : (m.pokeK r v).trapInfo = m.trapInfo := by unfold Strand.pokeK; split <;> rfl
@[simp] theorem pokeK_frontLatch (m : Strand) (r : KReg) (v : BitVec 16) : (m.pokeK r v).frontLatch = m.frontLatch := by unfold Strand.pokeK; split <;> rfl
@[simp] theorem pokeK_census (m : Strand) (r : KReg) (v : BitVec 16) : (m.pokeK r v).census = m.census := by unfold Strand.pokeK; split <;> rfl
@[simp] theorem pokeK_ops (m : Strand) (r : KReg) (v : BitVec 16) : (m.pokeK r v).ops = m.ops := by unfold Strand.pokeK; split <;> rfl
@[simp] theorem pokeK_nextQ (m : Strand) (r : KReg) (v : BitVec 16) : (m.pokeK r v).nextQ = m.nextQ := by unfold Strand.pokeK; split <;> rfl
@[simp] theorem pokeK_undo (m : Strand) (r : KReg) (v : BitVec 16) : (m.pokeK r v).undo = m.undo := by unfold Strand.pokeK; split <;> rfl
@[simp] theorem pokeK_held (m : Strand) (r : KReg) (v : BitVec 16) : (m.pokeK r v).held = m.held := by unfold Strand.pokeK; split <;> rfl
@[simp] theorem pokeK_async (m : Strand) (r : KReg) (v : BitVec 16) : (m.pokeK r v).async = m.async := by unfold Strand.pokeK; split <;> rfl
@[simp] theorem pokeK_lost (m : Strand) (r : KReg) (v : BitVec 16) : (m.pokeK r v).lost = m.lost := by unfold Strand.pokeK; split <;> rfl
@[simp] theorem pokeK_fixed (m : Strand) (r : KReg) (v : BitVec 16) : (m.pokeK r v).fixed = m.fixed := by unfold Strand.pokeK; split <;> rfl
@[simp] theorem pokeK_cue (m : Strand) (r : KReg) (v : BitVec 16) : (m.pokeK r v).cue = m.cue := by unfold Strand.pokeK; split <;> rfl
@[simp] theorem pokeK_drain (m : Strand) (r : KReg) (v : BitVec 16) : (m.pokeK r v).drain = m.drain := by unfold Strand.pokeK; split <;> rfl
@[simp] theorem pokeK_entry (m : Strand) (r : KReg) (v : BitVec 16) : (m.pokeK r v).entry = m.entry := by unfold Strand.pokeK; split <;> rfl
@[simp] theorem pokeK_readyAt (m : Strand) (r : KReg) (v : BitVec 16) : (m.pokeK r v).readyAt = m.readyAt := by unfold Strand.pokeK; split <;> rfl
@[simp] theorem pokeK_readyCls (m : Strand) (r : KReg) (v : BitVec 16) : (m.pokeK r v).readyCls = m.readyCls := by unfold Strand.pokeK; split <;> rfl
@[simp] theorem pokeK_forfeit (m : Strand) (r : KReg) (v : BitVec 16) : (m.pokeK r v).forfeit = m.forfeit := by unfold Strand.pokeK; split <;> rfl
@[simp] theorem pokeK_forfeitCls (m : Strand) (r : KReg) (v : BitVec 16) : (m.pokeK r v).forfeitCls = m.forfeitCls := by unfold Strand.pokeK; split <;> rfl
@[simp] theorem pokeK_forfeitQ (m : Strand) (r : KReg) (v : BitVec 16) : (m.pokeK r v).forfeitQ = m.forfeitQ := by unfold Strand.pokeK; split <;> rfl
@[simp] theorem pokeK_block (m : Strand) (r : KReg) (v : BitVec 16) : (m.pokeK r v).block = m.block := by unfold Strand.pokeK; split <;> rfl
@[simp] theorem pokeK_xwait (m : Strand) (r : KReg) (v : BitVec 16) : (m.pokeK r v).xwait = m.xwait := by unfold Strand.pokeK; split <;> rfl
@[simp] theorem pokeK_inbox (m : Strand) (r : KReg) (v : BitVec 16) : (m.pokeK r v).inbox = m.inbox := by unfold Strand.pokeK; split <;> rfl
@[simp] theorem pokeK_inPorts (m : Strand) (r : KReg) (v : BitVec 16) : (m.pokeK r v).inPorts = m.inPorts := by unfold Strand.pokeK; split <;> rfl
@[simp] theorem pokeK_credits (m : Strand) (r : KReg) (v : BitVec 16) : (m.pokeK r v).credits = m.credits := by unfold Strand.pokeK; split <;> rfl
@[simp] theorem pokeK_token (m : Strand) (r : KReg) (v : BitVec 16) : (m.pokeK r v).token = m.token := by unfold Strand.pokeK; split <;> rfl
@[simp] theorem pokeK_parkDl (m : Strand) (r : KReg) (v : BitVec 16) : (m.pokeK r v).parkDl = m.parkDl := by unfold Strand.pokeK; split <;> rfl
@[simp] theorem pokeK_parkDst (m : Strand) (r : KReg) (v : BitVec 16) : (m.pokeK r v).parkDst = m.parkDst := by unfold Strand.pokeK; split <;> rfl
@[simp] theorem pokeK_parkCue (m : Strand) (r : KReg) (v : BitVec 16) : (m.pokeK r v).parkCue = m.parkCue := by unfold Strand.pokeK; split <;> rfl
@[simp] theorem pokeK_parkAgain (m : Strand) (r : KReg) (v : BitVec 16) : (m.pokeK r v).parkAgain = m.parkAgain := by unfold Strand.pokeK; split <;> rfl
@[simp] theorem pokeK_task (m : Strand) (r : KReg) (v : BitVec 16) : (m.pokeK r v).task = m.task := by unfold Strand.pokeK; split <;> rfl
@[simp] theorem pokeK_accs (m : Strand) (r : KReg) (v : BitVec 16) : (m.pokeK r v).accs = m.accs := by unfold Strand.pokeK; split <;> rfl
@[simp] theorem pokeK_rings (m : Strand) (r : KReg) (v : BitVec 16) : (m.pokeK r v).rings = m.rings := by unfold Strand.pokeK; split <;> rfl
@[simp] theorem pokeK_mstat (m : Strand) (r : KReg) (v : BitVec 16) : (m.pokeK r v).mstat = m.mstat := by unfold Strand.pokeK; split <;> rfl
@[simp] theorem pokeK_mstatNew (m : Strand) (r : KReg) (v : BitVec 16) : (m.pokeK r v).mstatNew = m.mstatNew := by unfold Strand.pokeK; split <;> rfl
@[simp] theorem pokeK_mq (m : Strand) (r : KReg) (v : BitVec 16) : (m.pokeK r v).mq = m.mq := by unfold Strand.pokeK; split <;> rfl
@[simp] theorem pokeK_mapped (m : Strand) (r : KReg) (v : BitVec 16) : (m.pokeK r v).mapped = m.mapped := by unfold Strand.pokeK; split <;> rfl
@[simp] theorem pokeK_poll (m : Strand) (r : KReg) (v : BitVec 16) : (m.pokeK r v).poll = m.poll := by unfold Strand.pokeK; split <;> rfl
@[simp] theorem pokeK_packet (m : Strand) (r : KReg) (v : BitVec 16) : (m.pokeK r v).packet = m.packet := by unfold Strand.pokeK; split <;> rfl
@[simp] theorem pokeK_copies (m : Strand) (r : KReg) (v : BitVec 16) : (m.pokeK r v).copies = m.copies := by unfold Strand.pokeK; split <;> rfl
@[simp] theorem pokeK_dbg (m : Strand) (r : KReg) (v : BitVec 16) : (m.pokeK r v).dbg = m.dbg := by unfold Strand.pokeK; split <;> rfl
@[simp] theorem pokeK_swap (m : Strand) (r : KReg) (v : BitVec 16) : (m.pokeK r v).swap = m.swap := by unfold Strand.pokeK; split <;> rfl

/-! ### Strand.setS -/

@[simp] theorem setS_sa (m : Strand) (r : SReg) (v : Word) : (m.setS r v).sa = m.sa := by unfold Strand.setS; split; rfl; simp
@[simp] theorem setS_kind (m : Strand) (r : SReg) (v : Word) : (m.setS r v).kind = m.kind := by unfold Strand.setS; split; rfl; simp
@[simp] theorem setS_width (m : Strand) (r : SReg) (v : Word) : (m.setS r v).width = m.width := by unfold Strand.setS; split; rfl; simp
@[simp] theorem setS_enabled (m : Strand) (r : SReg) (v : Word) : (m.setS r v).enabled = m.enabled := by unfold Strand.setS; split; rfl; simp
@[simp] theorem setS_run (m : Strand) (r : SReg) (v : Word) : (m.setS r v).run = m.run := by unfold Strand.setS; split; rfl; simp
@[simp] theorem setS_vcid (m : Strand) (r : SReg) (v : Word) : (m.setS r v).vcid = m.vcid := by unfold Strand.setS; split; rfl; simp
@[simp] theorem setS_troupe (m : Strand) (r : SReg) (v : Word) : (m.setS r v).troupe = m.troupe := by unfold Strand.setS; split; rfl; simp
@[simp] theorem setS_asid (m : Strand) (r : SReg) (v : Word) : (m.setS r v).asid = m.asid := by unfold Strand.setS; split; rfl; simp
@[simp] theorem setS_root (m : Strand) (r : SReg) (v : Word) : (m.setS r v).root = m.root := by unfold Strand.setS; split; rfl; simp
@[simp] theorem setS_vregs (m : Strand) (r : SReg) (v : Word) : (m.setS r v).vregs = m.vregs := by unfold Strand.setS; split; rfl; simp
@[simp] theorem setS_kregs (m : Strand) (r : SReg) (v : Word) : (m.setS r v).kregs = m.kregs := by unfold Strand.setS; split; rfl; simp
@[simp] theorem setS_segs (m : Strand) (r : SReg) (v : Word) : (m.setS r v).segs = m.segs := by unfold Strand.setS; split; rfl; simp
@[simp] theorem setS_codeSeg (m : Strand) (r : SReg) (v : Word) : (m.setS r v).codeSeg = m.codeSeg := by unfold Strand.setS; split; rfl; simp
@[simp] theorem setS_trapSeg (m : Strand) (r : SReg) (v : Word) : (m.setS r v).trapSeg = m.trapSeg := by unfold Strand.setS; split; rfl; simp
@[simp] theorem setS_pc (m : Strand) (r : SReg) (v : Word) : (m.setS r v).pc = m.pc := by unfold Strand.setS; split; rfl; simp
@[simp] theorem setS_h (m : Strand) (r : SReg) (v : Word) : (m.setS r v).h = m.h := by unfold Strand.setS; split; rfl; simp
@[simp] theorem setS_flags (m : Strand) (r : SReg) (v : Word) : (m.setS r v).flags = m.flags := by unfold Strand.setS; split; rfl; simp
@[simp] theorem setS_fctl (m : Strand) (r : SReg) (v : Word) : (m.setS r v).fctl = m.fctl := by unfold Strand.setS; split; rfl; simp
@[simp] theorem setS_tvec (m : Strand) (r : SReg) (v : Word) : (m.setS r v).tvec = m.tvec := by unfold Strand.setS; split; rfl; simp
@[simp] theorem setS_trapPc (m : Strand) (r : SReg) (v : Word) : (m.setS r v).trapPc = m.trapPc := by unfold Strand.setS; split; rfl; simp
@[simp] theorem setS_trapCause (m : Strand) (r : SReg) (v : Word) : (m.setS r v).trapCause = m.trapCause := by unfold Strand.setS; split; rfl; simp
@[simp] theorem setS_trapAddr (m : Strand) (r : SReg) (v : Word) : (m.setS r v).trapAddr = m.trapAddr := by unfold Strand.setS; split; rfl; simp
@[simp] theorem setS_trapInfo (m : Strand) (r : SReg) (v : Word) : (m.setS r v).trapInfo = m.trapInfo := by unfold Strand.setS; split; rfl; simp
@[simp] theorem setS_frontLatch (m : Strand) (r : SReg) (v : Word) : (m.setS r v).frontLatch = m.frontLatch := by unfold Strand.setS; split; rfl; simp
@[simp] theorem setS_census (m : Strand) (r : SReg) (v : Word) : (m.setS r v).census = m.census := by unfold Strand.setS; split; rfl; simp
@[simp] theorem setS_ops (m : Strand) (r : SReg) (v : Word) : (m.setS r v).ops = m.ops := by unfold Strand.setS; split; rfl; simp
@[simp] theorem setS_nextQ (m : Strand) (r : SReg) (v : Word) : (m.setS r v).nextQ = m.nextQ := by unfold Strand.setS; split; rfl; simp
@[simp] theorem setS_held (m : Strand) (r : SReg) (v : Word) : (m.setS r v).held = m.held := by unfold Strand.setS; split; rfl; simp
@[simp] theorem setS_async (m : Strand) (r : SReg) (v : Word) : (m.setS r v).async = m.async := by unfold Strand.setS; split; rfl; simp
@[simp] theorem setS_lost (m : Strand) (r : SReg) (v : Word) : (m.setS r v).lost = m.lost := by unfold Strand.setS; split; rfl; simp
@[simp] theorem setS_fixed (m : Strand) (r : SReg) (v : Word) : (m.setS r v).fixed = m.fixed := by unfold Strand.setS; split; rfl; simp
@[simp] theorem setS_cue (m : Strand) (r : SReg) (v : Word) : (m.setS r v).cue = m.cue := by unfold Strand.setS; split; rfl; simp
@[simp] theorem setS_drain (m : Strand) (r : SReg) (v : Word) : (m.setS r v).drain = m.drain := by unfold Strand.setS; split; rfl; simp
@[simp] theorem setS_entry (m : Strand) (r : SReg) (v : Word) : (m.setS r v).entry = m.entry := by unfold Strand.setS; split; rfl; simp
@[simp] theorem setS_readyAt (m : Strand) (r : SReg) (v : Word) : (m.setS r v).readyAt = m.readyAt := by unfold Strand.setS; split; rfl; simp
@[simp] theorem setS_readyCls (m : Strand) (r : SReg) (v : Word) : (m.setS r v).readyCls = m.readyCls := by unfold Strand.setS; split; rfl; simp
@[simp] theorem setS_forfeit (m : Strand) (r : SReg) (v : Word) : (m.setS r v).forfeit = m.forfeit := by unfold Strand.setS; split; rfl; simp
@[simp] theorem setS_forfeitCls (m : Strand) (r : SReg) (v : Word) : (m.setS r v).forfeitCls = m.forfeitCls := by unfold Strand.setS; split; rfl; simp
@[simp] theorem setS_forfeitQ (m : Strand) (r : SReg) (v : Word) : (m.setS r v).forfeitQ = m.forfeitQ := by unfold Strand.setS; split; rfl; simp
@[simp] theorem setS_block (m : Strand) (r : SReg) (v : Word) : (m.setS r v).block = m.block := by unfold Strand.setS; split; rfl; simp
@[simp] theorem setS_xwait (m : Strand) (r : SReg) (v : Word) : (m.setS r v).xwait = m.xwait := by unfold Strand.setS; split; rfl; simp
@[simp] theorem setS_inbox (m : Strand) (r : SReg) (v : Word) : (m.setS r v).inbox = m.inbox := by unfold Strand.setS; split; rfl; simp
@[simp] theorem setS_inPorts (m : Strand) (r : SReg) (v : Word) : (m.setS r v).inPorts = m.inPorts := by unfold Strand.setS; split; rfl; simp
@[simp] theorem setS_credits (m : Strand) (r : SReg) (v : Word) : (m.setS r v).credits = m.credits := by unfold Strand.setS; split; rfl; simp
@[simp] theorem setS_token (m : Strand) (r : SReg) (v : Word) : (m.setS r v).token = m.token := by unfold Strand.setS; split; rfl; simp
@[simp] theorem setS_parkDl (m : Strand) (r : SReg) (v : Word) : (m.setS r v).parkDl = m.parkDl := by unfold Strand.setS; split; rfl; simp
@[simp] theorem setS_parkDst (m : Strand) (r : SReg) (v : Word) : (m.setS r v).parkDst = m.parkDst := by unfold Strand.setS; split; rfl; simp
@[simp] theorem setS_parkCue (m : Strand) (r : SReg) (v : Word) : (m.setS r v).parkCue = m.parkCue := by unfold Strand.setS; split; rfl; simp
@[simp] theorem setS_parkAgain (m : Strand) (r : SReg) (v : Word) : (m.setS r v).parkAgain = m.parkAgain := by unfold Strand.setS; split; rfl; simp
@[simp] theorem setS_task (m : Strand) (r : SReg) (v : Word) : (m.setS r v).task = m.task := by unfold Strand.setS; split; rfl; simp
@[simp] theorem setS_accs (m : Strand) (r : SReg) (v : Word) : (m.setS r v).accs = m.accs := by unfold Strand.setS; split; rfl; simp
@[simp] theorem setS_rings (m : Strand) (r : SReg) (v : Word) : (m.setS r v).rings = m.rings := by unfold Strand.setS; split; rfl; simp
@[simp] theorem setS_mstat (m : Strand) (r : SReg) (v : Word) : (m.setS r v).mstat = m.mstat := by unfold Strand.setS; split; rfl; simp
@[simp] theorem setS_mstatNew (m : Strand) (r : SReg) (v : Word) : (m.setS r v).mstatNew = m.mstatNew := by unfold Strand.setS; split; rfl; simp
@[simp] theorem setS_mq (m : Strand) (r : SReg) (v : Word) : (m.setS r v).mq = m.mq := by unfold Strand.setS; split; rfl; simp
@[simp] theorem setS_mapped (m : Strand) (r : SReg) (v : Word) : (m.setS r v).mapped = m.mapped := by unfold Strand.setS; split; rfl; simp
@[simp] theorem setS_poll (m : Strand) (r : SReg) (v : Word) : (m.setS r v).poll = m.poll := by unfold Strand.setS; split; rfl; simp
@[simp] theorem setS_packet (m : Strand) (r : SReg) (v : Word) : (m.setS r v).packet = m.packet := by unfold Strand.setS; split; rfl; simp
@[simp] theorem setS_copies (m : Strand) (r : SReg) (v : Word) : (m.setS r v).copies = m.copies := by unfold Strand.setS; split; rfl; simp
@[simp] theorem setS_dbg (m : Strand) (r : SReg) (v : Word) : (m.setS r v).dbg = m.dbg := by unfold Strand.setS; split; rfl; simp
@[simp] theorem setS_swap (m : Strand) (r : SReg) (v : Word) : (m.setS r v).swap = m.swap := by unfold Strand.setS; split; rfl; simp

/-! ### Strand.setK -/

@[simp] theorem setK_sa (m : Strand) (r : KReg) (v : BitVec 16) : (m.setK r v).sa = m.sa := by unfold Strand.setK; split; rfl; simp
@[simp] theorem setK_kind (m : Strand) (r : KReg) (v : BitVec 16) : (m.setK r v).kind = m.kind := by unfold Strand.setK; split; rfl; simp
@[simp] theorem setK_width (m : Strand) (r : KReg) (v : BitVec 16) : (m.setK r v).width = m.width := by unfold Strand.setK; split; rfl; simp
@[simp] theorem setK_enabled (m : Strand) (r : KReg) (v : BitVec 16) : (m.setK r v).enabled = m.enabled := by unfold Strand.setK; split; rfl; simp
@[simp] theorem setK_run (m : Strand) (r : KReg) (v : BitVec 16) : (m.setK r v).run = m.run := by unfold Strand.setK; split; rfl; simp
@[simp] theorem setK_vcid (m : Strand) (r : KReg) (v : BitVec 16) : (m.setK r v).vcid = m.vcid := by unfold Strand.setK; split; rfl; simp
@[simp] theorem setK_troupe (m : Strand) (r : KReg) (v : BitVec 16) : (m.setK r v).troupe = m.troupe := by unfold Strand.setK; split; rfl; simp
@[simp] theorem setK_asid (m : Strand) (r : KReg) (v : BitVec 16) : (m.setK r v).asid = m.asid := by unfold Strand.setK; split; rfl; simp
@[simp] theorem setK_root (m : Strand) (r : KReg) (v : BitVec 16) : (m.setK r v).root = m.root := by unfold Strand.setK; split; rfl; simp
@[simp] theorem setK_regs (m : Strand) (r : KReg) (v : BitVec 16) : (m.setK r v).regs = m.regs := by unfold Strand.setK; split; rfl; simp
@[simp] theorem setK_vregs (m : Strand) (r : KReg) (v : BitVec 16) : (m.setK r v).vregs = m.vregs := by unfold Strand.setK; split; rfl; simp
@[simp] theorem setK_segs (m : Strand) (r : KReg) (v : BitVec 16) : (m.setK r v).segs = m.segs := by unfold Strand.setK; split; rfl; simp
@[simp] theorem setK_codeSeg (m : Strand) (r : KReg) (v : BitVec 16) : (m.setK r v).codeSeg = m.codeSeg := by unfold Strand.setK; split; rfl; simp
@[simp] theorem setK_trapSeg (m : Strand) (r : KReg) (v : BitVec 16) : (m.setK r v).trapSeg = m.trapSeg := by unfold Strand.setK; split; rfl; simp
@[simp] theorem setK_pc (m : Strand) (r : KReg) (v : BitVec 16) : (m.setK r v).pc = m.pc := by unfold Strand.setK; split; rfl; simp
@[simp] theorem setK_h (m : Strand) (r : KReg) (v : BitVec 16) : (m.setK r v).h = m.h := by unfold Strand.setK; split; rfl; simp
@[simp] theorem setK_flags (m : Strand) (r : KReg) (v : BitVec 16) : (m.setK r v).flags = m.flags := by unfold Strand.setK; split; rfl; simp
@[simp] theorem setK_fctl (m : Strand) (r : KReg) (v : BitVec 16) : (m.setK r v).fctl = m.fctl := by unfold Strand.setK; split; rfl; simp
@[simp] theorem setK_tvec (m : Strand) (r : KReg) (v : BitVec 16) : (m.setK r v).tvec = m.tvec := by unfold Strand.setK; split; rfl; simp
@[simp] theorem setK_trapPc (m : Strand) (r : KReg) (v : BitVec 16) : (m.setK r v).trapPc = m.trapPc := by unfold Strand.setK; split; rfl; simp
@[simp] theorem setK_trapCause (m : Strand) (r : KReg) (v : BitVec 16) : (m.setK r v).trapCause = m.trapCause := by unfold Strand.setK; split; rfl; simp
@[simp] theorem setK_trapAddr (m : Strand) (r : KReg) (v : BitVec 16) : (m.setK r v).trapAddr = m.trapAddr := by unfold Strand.setK; split; rfl; simp
@[simp] theorem setK_trapInfo (m : Strand) (r : KReg) (v : BitVec 16) : (m.setK r v).trapInfo = m.trapInfo := by unfold Strand.setK; split; rfl; simp
@[simp] theorem setK_frontLatch (m : Strand) (r : KReg) (v : BitVec 16) : (m.setK r v).frontLatch = m.frontLatch := by unfold Strand.setK; split; rfl; simp
@[simp] theorem setK_census (m : Strand) (r : KReg) (v : BitVec 16) : (m.setK r v).census = m.census := by unfold Strand.setK; split; rfl; simp
@[simp] theorem setK_ops (m : Strand) (r : KReg) (v : BitVec 16) : (m.setK r v).ops = m.ops := by unfold Strand.setK; split; rfl; simp
@[simp] theorem setK_nextQ (m : Strand) (r : KReg) (v : BitVec 16) : (m.setK r v).nextQ = m.nextQ := by unfold Strand.setK; split; rfl; simp
@[simp] theorem setK_held (m : Strand) (r : KReg) (v : BitVec 16) : (m.setK r v).held = m.held := by unfold Strand.setK; split; rfl; simp
@[simp] theorem setK_async (m : Strand) (r : KReg) (v : BitVec 16) : (m.setK r v).async = m.async := by unfold Strand.setK; split; rfl; simp
@[simp] theorem setK_lost (m : Strand) (r : KReg) (v : BitVec 16) : (m.setK r v).lost = m.lost := by unfold Strand.setK; split; rfl; simp
@[simp] theorem setK_fixed (m : Strand) (r : KReg) (v : BitVec 16) : (m.setK r v).fixed = m.fixed := by unfold Strand.setK; split; rfl; simp
@[simp] theorem setK_cue (m : Strand) (r : KReg) (v : BitVec 16) : (m.setK r v).cue = m.cue := by unfold Strand.setK; split; rfl; simp
@[simp] theorem setK_drain (m : Strand) (r : KReg) (v : BitVec 16) : (m.setK r v).drain = m.drain := by unfold Strand.setK; split; rfl; simp
@[simp] theorem setK_entry (m : Strand) (r : KReg) (v : BitVec 16) : (m.setK r v).entry = m.entry := by unfold Strand.setK; split; rfl; simp
@[simp] theorem setK_readyAt (m : Strand) (r : KReg) (v : BitVec 16) : (m.setK r v).readyAt = m.readyAt := by unfold Strand.setK; split; rfl; simp
@[simp] theorem setK_readyCls (m : Strand) (r : KReg) (v : BitVec 16) : (m.setK r v).readyCls = m.readyCls := by unfold Strand.setK; split; rfl; simp
@[simp] theorem setK_forfeit (m : Strand) (r : KReg) (v : BitVec 16) : (m.setK r v).forfeit = m.forfeit := by unfold Strand.setK; split; rfl; simp
@[simp] theorem setK_forfeitCls (m : Strand) (r : KReg) (v : BitVec 16) : (m.setK r v).forfeitCls = m.forfeitCls := by unfold Strand.setK; split; rfl; simp
@[simp] theorem setK_forfeitQ (m : Strand) (r : KReg) (v : BitVec 16) : (m.setK r v).forfeitQ = m.forfeitQ := by unfold Strand.setK; split; rfl; simp
@[simp] theorem setK_block (m : Strand) (r : KReg) (v : BitVec 16) : (m.setK r v).block = m.block := by unfold Strand.setK; split; rfl; simp
@[simp] theorem setK_xwait (m : Strand) (r : KReg) (v : BitVec 16) : (m.setK r v).xwait = m.xwait := by unfold Strand.setK; split; rfl; simp
@[simp] theorem setK_inbox (m : Strand) (r : KReg) (v : BitVec 16) : (m.setK r v).inbox = m.inbox := by unfold Strand.setK; split; rfl; simp
@[simp] theorem setK_inPorts (m : Strand) (r : KReg) (v : BitVec 16) : (m.setK r v).inPorts = m.inPorts := by unfold Strand.setK; split; rfl; simp
@[simp] theorem setK_credits (m : Strand) (r : KReg) (v : BitVec 16) : (m.setK r v).credits = m.credits := by unfold Strand.setK; split; rfl; simp
@[simp] theorem setK_token (m : Strand) (r : KReg) (v : BitVec 16) : (m.setK r v).token = m.token := by unfold Strand.setK; split; rfl; simp
@[simp] theorem setK_parkDl (m : Strand) (r : KReg) (v : BitVec 16) : (m.setK r v).parkDl = m.parkDl := by unfold Strand.setK; split; rfl; simp
@[simp] theorem setK_parkDst (m : Strand) (r : KReg) (v : BitVec 16) : (m.setK r v).parkDst = m.parkDst := by unfold Strand.setK; split; rfl; simp
@[simp] theorem setK_parkCue (m : Strand) (r : KReg) (v : BitVec 16) : (m.setK r v).parkCue = m.parkCue := by unfold Strand.setK; split; rfl; simp
@[simp] theorem setK_parkAgain (m : Strand) (r : KReg) (v : BitVec 16) : (m.setK r v).parkAgain = m.parkAgain := by unfold Strand.setK; split; rfl; simp
@[simp] theorem setK_task (m : Strand) (r : KReg) (v : BitVec 16) : (m.setK r v).task = m.task := by unfold Strand.setK; split; rfl; simp
@[simp] theorem setK_accs (m : Strand) (r : KReg) (v : BitVec 16) : (m.setK r v).accs = m.accs := by unfold Strand.setK; split; rfl; simp
@[simp] theorem setK_rings (m : Strand) (r : KReg) (v : BitVec 16) : (m.setK r v).rings = m.rings := by unfold Strand.setK; split; rfl; simp
@[simp] theorem setK_mstat (m : Strand) (r : KReg) (v : BitVec 16) : (m.setK r v).mstat = m.mstat := by unfold Strand.setK; split; rfl; simp
@[simp] theorem setK_mstatNew (m : Strand) (r : KReg) (v : BitVec 16) : (m.setK r v).mstatNew = m.mstatNew := by unfold Strand.setK; split; rfl; simp
@[simp] theorem setK_mq (m : Strand) (r : KReg) (v : BitVec 16) : (m.setK r v).mq = m.mq := by unfold Strand.setK; split; rfl; simp
@[simp] theorem setK_mapped (m : Strand) (r : KReg) (v : BitVec 16) : (m.setK r v).mapped = m.mapped := by unfold Strand.setK; split; rfl; simp
@[simp] theorem setK_poll (m : Strand) (r : KReg) (v : BitVec 16) : (m.setK r v).poll = m.poll := by unfold Strand.setK; split; rfl; simp
@[simp] theorem setK_packet (m : Strand) (r : KReg) (v : BitVec 16) : (m.setK r v).packet = m.packet := by unfold Strand.setK; split; rfl; simp
@[simp] theorem setK_copies (m : Strand) (r : KReg) (v : BitVec 16) : (m.setK r v).copies = m.copies := by unfold Strand.setK; split; rfl; simp
@[simp] theorem setK_dbg (m : Strand) (r : KReg) (v : BitVec 16) : (m.setK r v).dbg = m.dbg := by unfold Strand.setK; split; rfl; simp
@[simp] theorem setK_swap (m : Strand) (r : KReg) (v : BitVec 16) : (m.setK r v).swap = m.swap := by unfold Strand.setK; split; rfl; simp

end Sys2Proof.Laws
end

