-- ==== Sys2Proof/Laws/Table.lean ====
section
/-! SUPPORT. What a table holds after a change of it. -/

namespace Sys2Proof.Laws

open Machine

variable {α : Type}

/-- After a value is set at a key, that key holds it and every other key what it held. -/
theorem get_put (t : Tab α) (k j : Nat) (v : α) : Tab.get? (Tab.put t k v) j = if j = k then some v else Tab.get? t j := by
  induction t with
  | nil => by_cases h : j = k
           · subst h; simp [Tab.put, Tab.get?]
           · simp [Tab.put, Tab.get?, h, Ne.symm h]
  | cons p r ih =>
    obtain ⟨a, u⟩ := p
    simp only [Tab.put]
    by_cases h1 : k < a
    · rw [if_pos h1]
      by_cases h : j = k
      · subst h; simp [Tab.get?]
      · rw [if_neg h]; simp [Tab.get?, Ne.symm h]
    · rw [if_neg h1]
      by_cases h2 : k = a
      · subst h2
        rw [if_pos rfl]
        by_cases h : j = k
        · subst h; simp [Tab.get?]
        · rw [if_neg h]; simp [Tab.get?, Ne.symm h]
      · rw [if_neg h2]
        by_cases h3 : a = j
        · subst h3; rw [if_neg (Ne.symm h2)]; simp [Tab.get?]
        · simp only [Tab.get?, if_neg h3, ih]

/-- The same of a table read with a default. -/
theorem getD_put (t : Tab α) (k j : Nat) (v d : α) : Tab.getD (Tab.put t k v) j d = if j = k then v else Tab.getD t j d := by
  unfold Tab.getD; rw [get_put]; split <;> rfl

/-- A value changed at a key. -/
theorem get_upd (t : Tab α) (k j : Nat) (f : α → α) : Tab.get? (Tab.upd t k f) j = if j = k then (Tab.get? t j).map f else Tab.get? t j := by
  induction t with
  | nil => simp [Tab.upd, Tab.get?]
  | cons p r ih =>
    obtain ⟨a, u⟩ := p
    unfold Tab.upd at ih ⊢
    simp only [List.map_cons]
    by_cases h : a = k
    · subst h
      rw [if_pos rfl]
      by_cases h2 : j = a
      · subst h2; simp [Tab.get?]
      · simp only [Tab.get?, if_neg (Ne.symm h2), ih, if_neg h2]
    · rw [if_neg h]
      by_cases h3 : a = j
      · subst h3; simp [Tab.get?, h]
      · simp only [Tab.get?, if_neg h3, ih]

/-- A removed key holds nothing. -/
theorem get_del (t : Tab α) (k j : Nat) : Tab.get? (Tab.del t k) j = if j = k then none else Tab.get? t j := by
  induction t with
  | nil => simp [Tab.del, Tab.get?]
  | cons p r ih =>
    obtain ⟨a, u⟩ := p
    unfold Tab.del at ih ⊢
    by_cases h : a = k
    · subst h
      rw [List.filter_cons_of_neg (by simp)]
      by_cases h2 : j = a
      · subst h2; rw [if_pos rfl] at ih; rw [if_pos rfl, ih]
      · rw [ih, if_neg h2, if_neg h2, Tab.get?, if_neg (Ne.symm h2)]
    · rw [List.filter_cons_of_pos (by simp [h])]
      by_cases h3 : a = j
      · subst h3; simp [Tab.get?, h]
      · simp only [Tab.get?, if_neg h3, ih]

/-- A table whose keys rise keeps them rising. -/
theorem sorted_put (t : Tab α) (k : Nat) (v : α) (h : Tab.sorted t = true) : Tab.sorted (Tab.put t k v) = true := by
  induction t with
  | nil => rfl
  | cons p r ih =>
    obtain ⟨a, u⟩ := p
    simp only [Tab.put]
    by_cases h1 : k < a
    · rw [if_pos h1]; simp [Tab.sorted, h1, h]
    · rw [if_neg h1]
      by_cases h2 : k = a
      · subst h2; rw [if_pos rfl]
        cases r with
        | nil => rfl
        | cons q r => obtain ⟨b, w⟩ := q; simpa [Tab.sorted] using h
      · rw [if_neg h2]
        have hk : a < k := by omega
        cases r with
        | nil => simp [Tab.put, Tab.sorted, hk]
        | cons q r =>
          obtain ⟨b, w⟩ := q
          simp only [Tab.sorted, Bool.and_eq_true, decide_eq_true_eq] at h
          have ih2 := ih h.2
          simp only [Tab.put] at ih2 ⊢
          by_cases h3 : k < b
          · rw [if_pos h3] at ih2 ⊢; simp [Tab.sorted] at ih2 ⊢; exact ⟨hk, ih2⟩
          · rw [if_neg h3] at ih2 ⊢
            by_cases h4 : k = b
            · rw [if_pos h4] at ih2 ⊢; simp only [Tab.sorted, Bool.and_eq_true, decide_eq_true_eq]; exact ⟨hk, ih2⟩
            · rw [if_neg h4] at ih2 ⊢; simp only [Tab.sorted, Bool.and_eq_true, decide_eq_true_eq]; exact ⟨h.1, ih2⟩

end Sys2Proof.Laws
end

