-- ==== Sys2Proof/Laws/Ops.lean ====
section
/-! SUPPORT. The shared operations: what each can do, said once. -/

namespace Sys2Proof.Laws

open Machine

/-! ### Order -/

/-- Sorting keeps the entries. -/
theorem insertBy_perm (le : α → α → Bool) (x : α) (l : List α) : (insertBy le x l).Perm (x :: l) := by
  induction l with
  | nil => simp [insertBy]
  | cons y l ih =>
    simp only [insertBy]
    split
    · exact List.Perm.refl _
    · exact (ih.cons y).trans (List.Perm.swap x y l)
theorem sortBy_perm (le : α → α → Bool) (l : List α) : (sortBy le l).Perm l := by
  induction l with
  | nil => exact List.Perm.refl _
  | cons x l ih => exact (insertBy_perm le x _).trans (ih.cons x)
@[simp] theorem mem_sortBy (le : α → α → Bool) (x : α) (l : List α) : x ∈ sortBy le l ↔ x ∈ l := (sortBy_perm le l).mem_iff
@[simp] theorem length_sortBy (le : α → α → Bool) (l : List α) : (sortBy le l).length = l.length := (sortBy_perm le l).length_eq

/-! ### The agenda -/

/-- An event put on the agenda is on it. -/
theorem mem_insertEvent (due : Nat) (e : Instr) (l : List (Nat × Instr)) (x : Nat × Instr) :
    x ∈ insertEvent due e l ↔ x = (due, e) ∨ x ∈ l := by
  induction l with
  | nil => simp [insertEvent]
  | cons p r ih =>
    obtain ⟨d, y⟩ := p
    simp only [insertEvent]
    split
    · simp
    · simp only [List.mem_cons, ih]
      constructor
      · rintro (h | h | h)
        · exact Or.inr (Or.inl h)
        · exact Or.inl h
        · exact Or.inr (Or.inr h)
      · rintro (h | h | h)
        · exact Or.inr (Or.inl h)
        · exact Or.inl h
        · exact Or.inr (Or.inr h)

theorem mem_after (s : State) (n : Nat) (e : Instr) (x : Nat × Instr) : x ∈ (s.after n e).agenda ↔ x = (s.cycle + n, e) ∨ x ∈ s.agenda :=
  mem_insertEvent ..

theorem mem_atCycle (s : State) (c : Nat) (e : Instr) (h : s.cycle ≤ c) (x : Nat × Instr) :
    x ∈ (s.atCycle c e).agenda ↔ x = (c, e) ∨ x ∈ s.agenda := by
  rw [atCycle_agenda, if_neg (by omega)]; exact mem_insertEvent ..

/-! ### Privilege and traps (R41, R71, R201) -/

theorem gate_pass (s : State) (w : Word) (sys : Bool) (ok : Kind → Bool) (body : Out) (h1 : sys = false ∨ s.me.system = true)
    (h2 : ok s.me.kind = true) : s.gate w sys ok body = body := by
  unfold State.gate
  rw [if_neg (by rcases h1 with h | h <;> simp [h]), if_neg (by simp [h2])]

theorem gate_privileged (s : State) (w : Word) (ok : Kind → Bool) (body : Out) (h : s.me.system = false) :
    s.gate w true ok body = .next (s.raise .privileged w) := by
  unfold State.gate; rw [if_pos (by simp [h])]; rfl

theorem gate_illegal (s : State) (w : Word) (sys : Bool) (ok : Kind → Bool) (body : Out) (h1 : sys = false ∨ s.me.system = true)
    (h2 : ok s.me.kind = false) : s.gate w sys ok body = .next (s.raise .illegal w) := by
  unfold State.gate
  rw [if_neg (by rcases h1 with h | h <;> simp [h]), if_pos (by simp [h2])]; rfl

theorem trap_eq (s : State) (cause : Cause) (addr : Word) : s.trap cause addr = .next (s.raise cause addr) := rfl

/-! ### What a sequence of changes keeps -/

/-- A field that every step of a fold keeps is kept by the fold. -/
theorem foldl_keeps {α β : Type} (g : State → β) (f : State → α → State) (h : ∀ t x, g (f t x) = g t) (l : List α) (s : State) :
    g (l.foldl f s) = g s := by
  induction l generalizing s with
  | nil => rfl
  | cons x r ih => rw [List.foldl_cons, ih, h]

/-! ### Operations that leave memory, the caches and CYCLE alone -/

/-- Memory, the caches and CYCLE are as they were. -/
def Keeps (s t : State) : Prop := t.mem = s.mem ∧ t.cycle = s.cycle ∧ t.l1d = s.l1d ∧ t.l2 = s.l2

theorem Keeps.refl (s : State) : Keeps s s := ⟨rfl, rfl, rfl, rfl⟩
theorem Keeps.trans {s t u : State} (h : Keeps s t) (g : Keeps t u) : Keeps s u :=
  ⟨g.1.trans h.1, g.2.1.trans h.2.1, g.2.2.1.trans h.2.2.1, g.2.2.2.trans h.2.2.2⟩

theorem keeps_foldl {α : Type} (f : State → α → State) (h : ∀ t x, Keeps t (f t x)) (l : List α) (s : State) : Keeps s (l.foldl f s) :=
  ⟨foldl_keeps State.mem f (fun t x => (h t x).1) l s, foldl_keeps State.cycle f (fun t x => (h t x).2.1) l s,
    foldl_keeps State.l1d f (fun t x => (h t x).2.2.1) l s, foldl_keeps State.l2 f (fun t x => (h t x).2.2.2) l s⟩

theorem keeps_modStrand (s : State) (sa : Nat) (f : Strand → Strand) : Keeps s (s.modStrand sa f) := ⟨by simp, by simp, by simp, by simp⟩
theorem keeps_putStrand (s : State) (m : Strand) : Keeps s (s.putStrand m) := ⟨by simp, by simp, by simp, by simp⟩
theorem keeps_modCluster (s : State) (p : Nat) (f : Cluster → Cluster) : Keeps s (s.modCluster p f) := ⟨rfl, rfl, rfl, rfl⟩
theorem keeps_modDie (s : State) (p : Nat) (f : Die → Die) : Keeps s (s.modDie p f) := ⟨rfl, rfl, rfl, rfl⟩
theorem keeps_modPort (s : State) (p : Nat) (f : Port → Port) : Keeps s (s.modPort p f) := ⟨rfl, rfl, rfl, rfl⟩
theorem keeps_modTroupe (s : State) (p : Nat) (f : Troupe → Troupe) : Keeps s (s.modTroupe p f) := ⟨rfl, rfl, rfl, rfl⟩
theorem keeps_after (s : State) (n : Nat) (e : Instr) : Keeps s (s.after n e) := ⟨rfl, rfl, rfl, rfl⟩
theorem keeps_atCycle (s : State) (n : Nat) (e : Instr) : Keeps s (s.atCycle n e) := ⟨rfl, rfl, rfl, rfl⟩
theorem keeps_bump (s : State) (n : Nat) : Keeps s (s.bump n) := ⟨rfl, rfl, rfl, rfl⟩
theorem keeps_interrupt (s : State) (a b c : Nat) : Keeps s (s.interrupt a b c) := ⟨by simp, by simp, by simp, by simp⟩
theorem keeps_modTask (s : State) (tr id : Nat) (f : Task → Task) : Keeps s (s.modTask tr id f) := ⟨rfl, rfl, rfl, rfl⟩
theorem keeps_dropSc (s : State) (sa : Nat) : Keeps s (s.dropSc sa) := ⟨rfl, rfl, rfl, rfl⟩
theorem keeps_packetDone (s : State) (p : Packet) : Keeps s (s.packetDone p) := by
  unfold State.packetDone; split
  · exact keeps_interrupt ..
  · exact .refl s
theorem keeps_stir (s : State) (tr : Nat) : Keeps s (s.stir tr) := ⟨rfl, rfl, rfl, rfl⟩
theorem keeps_post (s : State) (n tr vcid : Nat) (w : Word) : Keeps s (s.post n tr vcid w) := ⟨rfl, rfl, rfl, rfl⟩

theorem keeps_fatal (s : State) (sa : Nat) (r : FaultRec) : Keeps s (s.fatal sa r) := by
  unfold State.fatal
  split
  · exact .refl s
  · split
    · exact (keeps_modStrand ..).trans ((keeps_modDie ..).trans (keeps_interrupt ..))
    · split
      · exact keeps_modStrand ..
      · exact (keeps_modStrand ..).trans ((keeps_modTroupe ..).trans (keeps_after ..))

/-- R201 leaves memory alone. -/
theorem keeps_vector (s : State) (sa : Nat) (pc : Word) (cause : Cause) (addr : Word) (info : BitVec 24) (lost : Bool) :
    Keeps s (s.vector sa pc cause addr info lost) := by
  unfold State.vector
  split
  · exact .refl s
  · dsimp only; split
    · exact (keeps_modStrand ..).trans (keeps_fatal ..)
    · exact (keeps_modPort ..).trans (keeps_modStrand ..)

theorem keeps_squash (s : State) (m : Strand) (q : Nat) : Keeps s (s.squash m q) := by
  unfold State.squash
  refine keeps_foldl _ (fun t o => ?_) _ _
  split
  · split
    · exact keeps_after ..
    · exact .refl t
  · exact .refl t

theorem keeps_undo (s : State) (m : Strand) (q : Nat) (f : Flags) : Keeps s (s.undo m q f) := by
  have h := (keeps_squash s m q).trans (keeps_modStrand (s.squash m q) m.sa (fun x => x.rollback q f))
  exact h

theorem keeps_stopTask (s : State) (sa id tr : Nat) : Keeps s (s.stopTask sa id tr) :=
  (keeps_modTask ..).trans ((keeps_modStrand ..).trans ((keeps_dropSc ..).trans (keeps_after ..)))

theorem keeps_takePrecise (s : State) (m : Strand) (pc : Word) (cause : Cause) (addr : Word) (info : BitVec 24) :
    Keeps s (s.takePrecise m pc cause addr info) := by
  unfold State.takePrecise
  split
  · split
    · exact keeps_stopTask ..
    · exact keeps_vector ..
  · exact keeps_vector ..

/-- An exception delivered leaves memory alone (R71). -/
theorem keeps_deliver (s : State) (sa : Nat) : Keeps s (s.deliver sa) := by
  unfold State.deliver
  split
  · exact .refl s
  · split
    · exact .refl s
    · split
      · exact keeps_undo ..
      · exact (keeps_undo ..).trans (keeps_takePrecise ..)

theorem keeps_except (s : State) (sa : Nat) (h : Held) : Keeps s (s.except sa h) := (keeps_modStrand ..).trans (keeps_deliver ..)
/-- A trap leaves memory alone. -/
theorem keeps_raise (s : State) (cause : Cause) (addr : Word) : Keeps s (s.raise cause addr) := keeps_except ..

/-- R201, where a handler takes the trap of the strand: what the trap registers and the strand hold. -/
theorem vector_me (s : State) (pc : Word) (cause : Cause) (addr : Word) (info : BitVec 24) (h1 : s.me.tvec ≠ 0) (h2 : s.me.h = false) :
    (s.vector s.me.sa pc cause addr info false).me = { s.me with
      trapPc := pc, trapCause := cause.code, trapAddr := addr, trapInfo := info, dbg := s.me.dbg.unclaim, h := true, pc := s.me.tvec, block := none, forfeit := 0
      xwait := none, poll := none, nextQ := s.me.nextQ + 1, readyAt := s.cycle + 4, readyCls := .xlate, run := s.me.run.unparked, parkAgain := false } := by
  have hm : s.strand? s.me.sa = some s.me := if_pos rfl
  have hc : ¬ (s.me.tvec = 0 ∨ s.me.h = true ∨ false = true) := by
    rintro (h | h | h)
    · exact h1 h
    · rw [h2] at h; cases h
    · cases h
  unfold State.vector
  rw [hm]; dsimp only; rw [if_neg hc]
  exact modStrand_me (s.modPort s.me.port _) _

/-! ### After an operation completes (R69 to R71, R176, R185, R234) -/

theorem keeps_poke (s : State) (sa : Nat) : Keeps s (s.poke sa) := by
  unfold State.poke
  split
  · exact .refl s
  · split
    · exact keeps_after ..
    · exact .refl s

theorem keeps_creditBack (s : State) (m : Strand) (p : Nat) : Keeps s (s.creditBack m p) := by
  unfold State.creditBack
  split
  · exact .refl s
  · exact keeps_after ..

theorem keeps_modBar (s : State) (tr n : Nat) (f : Barrier → Barrier) : Keeps s (s.modBar tr n f) := ⟨rfl, rfl, rfl, rfl⟩

theorem keeps_sendArrivals (s : State) (sa : Nat) : Keeps s (s.sendArrivals sa) := by
  unfold State.sendArrivals
  split
  · exact .refl s
  · refine keeps_foldl _ (fun t o => ?_) _ _
    split
    · split
      · exact .refl t
      · split
        · dsimp only; split
          · exact (keeps_modStrand ..).trans ((keeps_modBar ..).trans (keeps_after ..))
          · exact (keeps_modStrand ..).trans ((keeps_modBar ..).trans ((keeps_after ..).trans (keeps_after ..)))
        · exact .refl t
    · exact .refl t

theorem keeps_pokeMail (s : State) (tr vcid : Nat) : Keeps s (s.pokeMail tr vcid) := by
  unfold State.pokeMail
  split
  · dsimp only; split
    · exact ⟨rfl, rfl, rfl, rfl⟩
    · exact .refl s
  · exact .refl s

theorem keeps_removeTaken (s : State) (sa : Nat) : Keeps s (s.removeTaken sa) := by
  unfold State.removeTaken
  split
  · exact .refl s
  · rename_i m _
    extract_lets s1 freed s2
    have h1 : Keeps s s1 := keeps_foldl _ (fun t p => keeps_foldl _ (fun u _ => keeps_creditBack u m p) _ t) _ s
    have h2 : Keeps s s2 := h1.trans (keeps_modStrand ..)
    split
    · exact h2.trans ((keeps_foldl _ (fun t c => keeps_packetDone ..) _ _).trans (keeps_modStrand ..))
    · exact h2.trans (keeps_foldl _ (fun _ _ => keeps_pokeMail ..) _ _)

/-- What follows a completion or a confirmation leaves memory alone. -/
theorem keeps_settle (s : State) (sa : Nat) : Keeps s (s.settle sa) :=
  ((((keeps_modStrand ..).trans (keeps_removeTaken ..)).trans (keeps_sendArrivals ..)).trans (keeps_deliver ..)).trans (keeps_poke ..)

theorem keeps_confirm (s : State) (sa q : Nat) : Keeps s (s.confirm sa q) := (keeps_modStrand ..).trans (keeps_settle ..)

/-- An operation that completes leaves memory alone. -/
theorem keeps_complete (s : State) (sa q : Nat) (p : OpWhat → Bool) : Keeps s (s.complete sa q p) := by
  have h : ∀ t : State, Keeps t (((t.modStrand sa (fun m => m.dropOp q p)).settle sa).stir (match s.strand? sa with | some m => m.troupe | none => 0)) :=
    fun t => (keeps_modStrand ..).trans ((keeps_settle ..).trans (keeps_stir ..))
  exact h { s with scOps := s.scOps.filter (fun o => !(o.sa == sa && o.q == q)) }

/-! ### Watches, walks and queues -/

theorem keeps_watchOne (s : State) (d k : Nat) (w : Watch) (hit : Option Nat) (size : Nat) (rd wr : Bool) (region : Region) (reach : Reach)
    (a b c e : Nat) : Keeps s (s.watchOne d k w hit size rd wr region reach a b c e) := by
  unfold State.watchOne
  split
  · exact .refl s
  · split
    · exact .refl s
    · extract_lets sure seen s1
      have h1 : Keeps s s1 := by
        by_cases h : sure.isSome = true
        · rw [show s1 = s from if_pos h]; exact .refl s
        · rw [show s1 = s.bump 1 from if_neg h]; exact keeps_bump ..
      split
      · exact h1
      · exact h1.trans ((keeps_modDie ..).trans (keeps_atCycle ..))

theorem keeps_watchSet (s : State) (l : List (Nat × Nat)) (size : Nat) (rd wr : Bool) (region : Region) (reach : Reach) (a b c e : Nat) :
    Keeps s (s.watchSet l size rd wr region reach a b c e) :=
  keeps_foldl _ (fun t _ => keeps_foldl _ (fun _ _ => keeps_watchOne ..) _ t) _ s

theorem keeps_watchAll (s : State) (pa size : Nat) (rd wr : Bool) (region : Region) (reach : Reach) (a b c : Nat) :
    Keeps s (s.watchAll pa size rd wr region reach a b c) := keeps_watchSet ..

theorem keeps_watchGranule (s : State) (loc : Nat) (mask : BitVec 64) (a b : Nat) : Keeps s (s.watchGranule loc mask a b) := keeps_watchSet ..

theorem keeps_beginWalk (s : State) (port : Nat) (w : Walk) : Keeps s (s.beginWalk port w) := ⟨rfl, rfl, rfl, rfl⟩

theorem keeps_nextWalkOf (s : State) (port : Nat) : Keeps s (s.nextWalkOf port) := by
  unfold State.nextWalkOf
  dsimp only; split
  · exact .refl s
  · split
    · exact .refl s
    · exact keeps_beginWalk ..

theorem keeps_startWalk (s : State) (port : Nat) (who : WalkFor) (acc : AccKind) (asid root va : Nat) : Keeps s (s.startWalk port who acc asid root va) :=
  (keeps_modPort ..).trans (keeps_nextWalkOf ..)

theorem keeps_wakeOwner (s : State) (w : Walk) : Keeps s (s.wakeOwner w) := by
  unfold State.wakeOwner
  split
  · exact .refl s
  · split
    · exact keeps_after ..
    · exact keeps_after ..
    · exact keeps_after ..
    · exact keeps_after ..
    · exact .refl s

theorem keeps_endWalk (s : State) (port : Nat) (w : Walk) (l : Option Leaf) : Keeps s (s.endWalk port w l) :=
  (keeps_modPort ..).trans ((keeps_wakeOwner ..).trans (keeps_nextWalkOf ..))

theorem keeps_insertQueue (s : State) (q : Nat) : Keeps s (s.insertQueue q) := ⟨rfl, rfl, rfl, rfl⟩

theorem keeps_leaveBoard (s : State) (q : Nat) : Keeps s (s.leaveBoard q) := by
  unfold State.leaveBoard
  dsimp only; split
  · exact keeps_modDie ..
  · split
    · exact (keeps_modDie ..).trans ((keeps_modDie ..).trans (keeps_insertQueue ..))
    · exact keeps_modDie ..

theorem length_natBytes (n v : Nat) : (natBytes n v).length = n := by
  induction n generalizing v with
  | zero => rfl
  | succ n ih => rw [natBytes, List.length_cons, ih]
/-- A queue descriptor takes 64 bytes (R332). -/
theorem length_queueBytes (q : Queue) : q.bytes.length = 64 := by
  unfold Queue.bytes; simp only [List.length_append, length_natBytes]
/-- The queue table takes at most these. -/
theorem length_tableBytes (s : State) (q : Nat) (x : Queue) : (s.tableBytes q x).length ≤ 64 := by
  unfold State.tableBytes; split
  · exact Nat.le_of_eq (length_queueBytes x)
  · exact Nat.zero_le _

/-- A change of a queue descriptor keeps memory's canonical form and CYCLE, and touches nothing outside its 64 bytes of the queue table. -/
theorem modQueue_keeps (s : State) (q : Nat) (f : Queue → Queue) (h : Memory.wf s.mem = true) :
    Memory.wf (s.modQueue q f).mem = true ∧ (s.modQueue q f).cycle = s.cycle ∧
      ∀ a, a < s.queueAddr q ∨ s.queueAddr q + 64 ≤ a → memGet (s.modQueue q f).mem a = memGet s.mem a := by
  rw [modQueue_mem, modQueue_cycle]
  refine ⟨wf_memPutBytes _ _ _ h, rfl, fun a ha => ?_⟩
  have := length_tableBytes s q (f (s.queue q))
  rw [memGet_memPutBytes _ _ _ _ h, if_neg (by omega)]

theorem faultQueue_keeps (s : State) (q reason : Nat) (detail : Word) (h : Memory.wf s.mem = true) :
    Memory.wf (s.faultQueue q reason detail).mem = true ∧ (s.faultQueue q reason detail).cycle = s.cycle := by
  have g := modQueue_keeps s q (fun x => { x with state := .faulted, freason := BitVec.ofNat 8 reason, fdetail := detail }) h
  unfold State.faultQueue
  generalize s.modQueue q (fun x => { x with state := .faulted, freason := BitVec.ofNat 8 reason, fdetail := detail }) = u at g ⊢
  have k := fun a b c n t v w => (keeps_leaveBoard u q).trans ((keeps_interrupt (u.leaveBoard q) a b c).trans (keeps_post _ n t v w))
  exact ⟨(k ..).1 ▸ g.1, (k ..).2.1.trans g.2.1⟩

/-- The turn's counting and passing on leave memory alone. -/
theorem keeps_countTurn (s : State) : Keeps s s.countTurn := by
  unfold State.countTurn; split <;> exact ⟨rfl, rfl, rfl, rfl⟩

theorem keeps_focus (s : State) (m : Strand) : Keeps s (s.focus m) := ⟨rfl, rfl, rfl, rfl⟩

end Sys2Proof.Laws
end

