-- ==== Sys2Proof/Laws/Private.lean ====
section
/-! SUPPORT. Private lines: what the caches' operations can touch, and what a core reads after them (R151, R158, R180). -/

namespace Sys2Proof.Laws

open Machine

/-! ### What they touch -/

/-- Only memory, the caches, the poison marks and the counter of free values differ, and memory keeps its canonical form. -/
def Moved (s t : State) : Prop :=
  t = { s with mem := t.mem, l1d := t.l1d, l2 := t.l2, poison := t.poison, freeCtr := t.freeCtr } ∧ (Memory.wf s.mem = true → Memory.wf t.mem = true)

theorem Moved.refl (s : State) : Moved s s := ⟨rfl, id⟩
theorem Moved.trans {s t u : State} (h : Moved s t) (g : Moved t u) : Moved s u :=
  ⟨by rw [g.1, h.1], fun w => g.2 (h.2 w)⟩
theorem moved_foldl {α : Type} (f : State → α → State) (h : ∀ t x, Moved t (f t x)) (l : List α) (s : State) : Moved s (l.foldl f s) := by
  induction l generalizing s with
  | nil => exact .refl s
  | cons x r ih => exact (h s x).trans (ih _)

theorem wf_puts (l : List (Nat × Byte)) (m : List Host.Cell) (h : Memory.wf m = true) :
    Memory.wf (l.foldl (fun m p => memPut m p.1 p.2) m) = true := by
  induction l generalizing m with
  | nil => exact h
  | cons p r ih => exact ih _ (wf_memPut _ _ _ h)

theorem moved_writeBack (s : State) (x : Line) : Moved s (s.writeBack x) := ⟨rfl, wf_puts _ _⟩
theorem moved_putL2 (s : State) (die : Nat) (x : Line) : Moved s (s.putL2 die x) := ⟨rfl, id⟩
theorem moved_putL1 (s : State) (sa : Nat) (x : Line) : Moved s (s.putL1 sa x) := ⟨rfl, id⟩
theorem moved_bump (s : State) (n : Nat) : Moved s (s.bump n) := ⟨rfl, id⟩
theorem moved_evictL2 (s : State) (die n : Nat) : Moved s (s.evictL2 die n) := by
  unfold State.evictL2; split
  · exact .refl s
  · exact (moved_writeBack s _).trans ⟨rfl, id⟩
theorem moved_passDown (s : State) (sa : Nat) (x : Line) : Moved s (s.passDown sa x) := by
  unfold State.passDown; split
  · exact .refl s
  · exact moved_putL2 ..
theorem moved_evictL1 (s : State) (sa n : Nat) : Moved s (s.evictL1 sa n) := by
  unfold State.evictL1; split
  · exact .refl s
  · exact Moved.trans (t := { s with l1d := _ }) ⟨rfl, id⟩ (moved_passDown ..)
theorem moved_fillL2 (s : State) (die n : Nat) : Moved s (s.fillL2 die n) := moved_putL2 ..
theorem moved_fillL1 (s : State) (sa n : Nat) : Moved s (s.fillL1 sa n) := by
  unfold State.fillL1; split
  · exact moved_putL1 ..
  · exact (moved_fillL2 ..).trans ((moved_bump ..).trans (moved_putL1 ..))
theorem moved_flushLine (s : State) (sa n : Nat) : Moved s (s.flushLine sa n) := by
  unfold State.flushLine
  extract_lets s1
  have h : Moved s s1 := by
    simp only [s1]; split
    · exact (moved_passDown ..).trans (moved_putL1 ..)
    · exact .refl s
  split
  · exact h.trans ((moved_writeBack ..).trans (moved_putL2 ..))
  · exact h
theorem moved_dropLine (s : State) (sa n : Nat) : Moved s (s.dropLine sa n) := (moved_evictL1 ..).trans (moved_evictL2 ..)
theorem moved_fetchLines (s : State) (sa : Nat) (priv : Bool) (loc n : Nat) : Moved s (s.fetchLines sa priv loc n) := by
  unfold State.fetchLines; split
  · exact moved_foldl _ (fun _ _ => moved_fillL1 ..) _ s
  · exact .refl s
theorem moved_recall (s : State) (sa : Nat) (priv : Bool) (loc n : Nat) : Moved s (s.recall sa priv loc n) := by
  unfold State.recall; split
  · exact moved_foldl _ (fun _ _ => moved_evictL1 ..) _ s
  · exact .refl s
theorem moved_write (s : State) (loc n v : Nat) : Moved s (s.write loc n v) := ⟨rfl, wf_memWrite _ _ _ _⟩
theorem moved_unpoison (s : State) (loc n : Nat) : Moved s (s.unpoison loc n) := ⟨rfl, id⟩
theorem moved_putByteL1 (s : State) (sa loc : Nat) (b : Byte) : Moved s (s.putByteL1 sa loc b) := by
  unfold State.putByteL1
  dsimp only; split
  · exact (moved_fillL1 ..).trans (moved_putL1 ..)
  · exact moved_fillL1 ..
theorem moved_putValueL1 (s : State) (sa loc n v : Nat) : Moved s (s.putValueL1 sa loc n v) := by
  induction n generalizing s loc v with
  | zero => exact .refl s
  | succ n ih => exact (moved_putByteL1 ..).trans (ih ..)
theorem moved_putValueL2 (s : State) (die loc n v : Nat) : Moved s (s.putValueL2 die loc n v) := by
  induction n generalizing s loc v with
  | zero => exact .refl s
  | succ n ih => exact (moved_putL2 ..).trans (ih ..)
theorem moved_store (s : State) (sa : Nat) (priv : Bool) (loc n v : Nat) : Moved s (s.store sa priv loc n v) := by
  unfold State.store; split
  · exact (moved_putValueL1 ..).trans (moved_unpoison ..)
  · exact moved_write ..
theorem moved_writeBelow (s : State) (sa : Nat) (priv : Bool) (loc n v : Nat) : Moved s (s.writeBelow sa priv loc n v) := by
  unfold State.writeBelow; split
  · exact (moved_recall ..).trans ((moved_putValueL2 ..).trans (moved_unpoison ..))
  · exact moved_write ..
theorem moved_evictions (s : State) : Moved s s.evictions :=
  (moved_foldl _ (fun _ _ => moved_evictL1 ..) _ s).trans ((moved_bump ..).trans ((moved_foldl _ (fun _ _ => moved_evictL2 ..) _ _).trans (moved_bump ..)))
theorem moved_flushAll (s : State) : Moved s s.flushAll :=
  (moved_foldl _ (fun _ _ => moved_evictL1 ..) _ s).trans (moved_foldl _ (fun _ _ => moved_evictL2 ..) _ _)

/-- Where no private line is held nothing is replaced. -/
theorem evictions_none (s : State) (h1 : s.l1d = []) (h2 : s.l2 = []) : s.evictions = s := by
  have a : (heldLines s.l1d) = [] := by rw [h1]; rfl
  have b : (heldLines s.l2) = [] := by rw [h2]; rfl
  simp [State.evictions, leaving, a, b, State.bump]

/-! ### Lines -/

/-- A byte written into a line reads back, and every other byte of it as before. -/
theorem byte_put (x : Line) (loc y : Nat) (b : Byte) : (x.put loc b).byte y = if y % 128 = loc % 128 then b else x.byte y := by
  unfold Line.put Line.byte
  apply BitVec.eq_of_getLsbD_eq
  intro i hi
  have hy : y % 128 < 128 := Nat.mod_lt _ (by decide)
  have hl : loc % 128 < 128 := Nat.mod_lt _ (by decide)
  simp only [BitVec.getLsbD_extractLsb', hi, decide_true, Bool.true_and, BitVec.getLsbD_or, BitVec.getLsbD_and, BitVec.getLsbD_not,
    BitVec.getLsbD_shiftLeft, BitVec.getLsbD_setWidth, BitVec.getLsbD_allOnes]
  have h3 : 8 * (y % 128) + i < 1024 := by omega
  by_cases he : y % 128 = loc % 128
  · rw [if_pos he, he]
    have h4 : ¬ (8 * (loc % 128) + i < 8 * (loc % 128)) := by omega
    have h5 : 8 * (loc % 128) + i - 8 * (loc % 128) = i := by omega
    simp [h4, h5, hi, show 8 * (loc % 128) + i < 1024 by omega, show i < 1024 by omega]
  · rw [if_neg he]
    by_cases h4 : 8 * (y % 128) + i < 8 * (loc % 128)
    · simp [h3, h4, hi]
    · have h6 : ¬ (8 * (y % 128) + i - 8 * (loc % 128) < 8) := by omega
      have h7 : b.getLsbD (8 * (y % 128) + i - 8 * (loc % 128)) = false := BitVec.getLsbD_of_ge _ _ (by omega)
      simp [h3, h4, h6, h7, hi]

theorem put_num (x : Line) (loc : Nat) (b : Byte) : (x.put loc b).num = x.num := rfl
theorem lineIn_num {ls : List Line} {n : Nat} {x : Line} (h : lineIn ls n = some x) : x.num = n := by
  simpa using List.find?_some h
theorem lineIn_cons (x : Line) (ls : List Line) (n : Nat) : lineIn (x :: lineDrop ls x.num) n = if x.num = n then some x else lineIn ls n := by
  unfold lineIn lineDrop
  by_cases h : x.num = n
  · rw [if_pos h]; exact List.find?_cons_of_pos (by simpa using h)
  · rw [if_neg h, List.find?_cons_of_neg (by simpa using h), List.find?_filter]
    congr 1; funext y
    by_cases g : y.num = n
    · subst g; simp [Ne.symm h]
    · simp [g]
theorem lineIn_drop (ls : List Line) (n k : Nat) : lineIn (lineDrop ls n) k = if k = n then none else lineIn ls k := by
  unfold lineIn lineDrop
  rw [List.find?_filter]
  by_cases h : k = n
  · subst h; rw [if_pos rfl, List.find?_eq_none]; intro y _; simp
  · rw [if_neg h]; congr 1; funext y
    by_cases g : y.num = k
    · subst g; simp [h]
    · simp [g]

/-! ### What a core reads -/

theorem inL1_putL1 (s : State) (sa sb n : Nat) (x : Line) :
    (s.putL1 sa x).inL1 sb n = if coreOf sb = coreOf sa ∧ x.num = n then some x else s.inL1 sb n := by
  unfold State.inL1 State.putL1
  dsimp only
  rw [getD_put]
  by_cases h : coreOf sb = coreOf sa
  · rw [if_pos h, lineIn_cons, h]; by_cases g : x.num = n
    · rw [if_pos g, if_pos ⟨rfl, g⟩]
    · rw [if_neg g, if_neg (fun k => g k.2)]
  · rw [if_neg h, if_neg (fun k => h k.1)]
@[simp] theorem inL2_putL1 (s : State) (sa die n : Nat) (x : Line) : (s.putL1 sa x).inL2 die n = s.inL2 die n := rfl
theorem inL2_putL2 (s : State) (die d n : Nat) (x : Line) :
    (s.putL2 die x).inL2 d n = if d = die ∧ x.num = n then some x else s.inL2 d n := by
  unfold State.inL2 State.putL2
  dsimp only
  rw [getD_put]
  by_cases h : d = die
  · subst h; rw [if_pos rfl, lineIn_cons]; by_cases g : x.num = n
    · rw [if_pos g, if_pos ⟨rfl, g⟩]
    · rw [if_neg g, if_neg (fun k => g k.2)]
  · rw [if_neg h, if_neg (fun k => h k.1)]
@[simp] theorem inL1_putL2 (s : State) (sa die n : Nat) (x : Line) : (s.putL2 die x).inL1 sa n = s.inL1 sa n := rfl
theorem below_num (s : State) (die n : Nat) : (s.below die n).num = n := by
  unfold State.below
  cases h : s.inL2 die n with
  | none => rfl
  | some y => exact lineIn_num h
theorem below_putL2 (s : State) (die d n : Nat) (x : Line) :
    (s.putL2 die x).below d n = if d = die ∧ x.num = n then x else s.below d n := by
  unfold State.below
  rw [inL2_putL2]; split
  · rfl
  · rfl

/-- After a line is brought in, the core's L1D holds it: the copy it had, else that of the die's L2 or, past a clean copy, of the LLC. -/
theorem inL1_fillL1 (s : State) (sa n : Nat) : ∃ x, (s.fillL1 sa n).inL1 sa n = some x ∧ x.num = n ∧
    (∀ y, s.inL1 sa n = some y → x = y) ∧ (s.inL1 sa n = none → x = (s.below (saDie sa) n).clean ∨
      ((∃ y, s.inL2 (saDie sa) n = some y ∧ y.dirty = 0) ∧ x = memLine s.mem n)) := by
  unfold State.fillL1
  cases h : s.inL1 sa n with
  | some x =>
    have hn := lineIn_num h
    exact ⟨x, by rw [inL1_putL1, if_pos ⟨rfl, hn⟩], hn, fun y hy => by cases hy; rfl, fun hy => by cases hy⟩
  | none =>
    dsimp only
    by_cases hp : ((s.inL2 (saDie sa) n).any (fun y => y.dirty == 0) && Config.freeBool s.freeCtr) = true
    · rw [if_pos hp]
      refine ⟨(memLine s.mem n).clean, ?_, ?_, ?_, ?_⟩
      · rw [inL1_putL1, if_pos ⟨rfl, rfl⟩]
      · rfl
      · intro y hy; cases hy
      · intro _
        refine Or.inr ⟨?_, rfl⟩
        cases h2 : s.inL2 (saDie sa) n with
        | none => rw [h2] at hp; simp at hp
        | some y => rw [h2] at hp; simp at hp; exact ⟨y, rfl, hp.1⟩
    · rw [if_neg hp]
      refine ⟨(s.below (saDie sa) n).clean, ?_, below_num s _ n, ?_, fun _ => Or.inl rfl⟩
      · rw [inL1_putL1, if_pos ⟨rfl, below_num s _ n⟩]
      · intro y hy; cases hy

/-- The low `n` bytes of a value written into a line. -/
theorem putValueL1_line (s : State) (sa k loc n v : Nat) (x : Line) (h : s.inL1 sa k = some x) (h1 : loc / 128 = k) (h2 : loc % 128 + n ≤ 128) :
    ∃ y, (s.putValueL1 sa loc n v).inL1 sa k = some y ∧
      ∀ a, y.byte a = if loc % 128 ≤ a % 128 ∧ a % 128 < loc % 128 + n then BitVec.ofNat 8 (v / 2 ^ (8 * (a % 128 - loc % 128))) else x.byte a := by
  induction n generalizing s loc v x with
  | zero => exact ⟨x, h, fun a => by rw [if_neg (by omega)]⟩
  | succ n ih =>
    unfold State.putValueL1
    have hn := lineIn_num h
    have e : (s.putByteL1 sa loc (BitVec.ofNat 8 (v % 256))).inL1 sa k = some (x.put loc (BitVec.ofNat 8 (v % 256))) := by
      unfold State.putByteL1 State.fillL1
      rw [h1, h]
      dsimp only
      rw [inL1_putL1, if_pos ⟨rfl, hn⟩]
      dsimp only
      rw [inL1_putL1, if_pos ⟨rfl, hn⟩]
    by_cases hz : n = 0
    · subst hz
      refine ⟨_, e, fun a => ?_⟩
      rw [byte_put]
      by_cases ha : a % 128 = loc % 128
      · rw [if_pos ha, if_pos (by omega), ha]
        apply BitVec.eq_of_toNat_eq; simp
      · rw [if_neg ha, if_neg (by omega)]
    · obtain ⟨y, hy, hb⟩ := ih _ (loc + 1) (v / 256) _ e (by omega) (by omega)
      refine ⟨y, hy, fun a => ?_⟩
      rw [hb a, byte_put]
      have hm : (loc + 1) % 128 = loc % 128 + 1 := by omega
      rw [hm]
      by_cases h3 : loc % 128 + 1 ≤ a % 128 ∧ a % 128 < loc % 128 + 1 + n
      · rw [if_pos h3, if_pos (by omega), Nat.div_div_eq_div_mul]
        congr 2
        rw [show 8 * (a % 128 - loc % 128) = 8 + 8 * (a % 128 - (loc % 128 + 1)) by omega, Nat.pow_add]
      · rw [if_neg h3]
        by_cases h4 : a % 128 = loc % 128
        · rw [if_pos h4, if_pos (by omega), h4]
          apply BitVec.eq_of_toNat_eq; simp
        · rw [if_neg h4, if_neg (by omega)]

end Sys2Proof.Laws
end

