-- ==== Sys2Proof/Laws/Wrote.lean ====
section
/-! SUPPORT. What the ends of instructions leave (State.finS, State.fin, Strand.goto), said once in the words of the statements. -/

namespace Sys2Proof.Laws

open Machine

theorem same_memory_of_eq {s t : State} (h : t.mem = s.mem) (h1 : t.l1d = s.l1d) (h2 : t.l2 = s.l2) : SameMemory s t := ⟨fun a => by rw [h], h1, h2⟩

theorem getS_zero (m : Strand) : m.getS 0 = 0 := rfl

theorem sreg_toNat_lt (r : SReg) : r.toNat < 32 := r.isLt

theorem pokeS_zero (m : Strand) (v : Word) : m.pokeS 0 v = m := rfl
theorem setS_zero (m : Strand) (v : Word) : m.setS 0 v = m := rfl
theorem pokeS_ne {d : SReg} (h : d ≠ 0) (m : Strand) (v : Word) : m.pokeS d v = { m with regs := m.regs.set d.toNat v } := if_neg h
theorem setS_ne {d : SReg} (h : d ≠ 0) (m : Strand) (v : Word) : m.setS d v = (m.save (.s d) (m.getS d)).pokeS d v := if_neg h
theorem getS_ne {r : SReg} (h : r ≠ 0) (m : Strand) : m.getS r = m.regs[r.toNat] := if_neg h

theorem getS_save (m : Strand) (n : RegName) (v : Word) (r : SReg) : (m.save n v).getS r = m.getS r := by
  unfold Strand.save; split <;> rfl

theorem getS_pokeS (m : Strand) (d r : SReg) (v : Word) :
    (m.pokeS d v).getS r = if r = d ∧ d ≠ 0 then v else m.getS r := by
  by_cases hd : d = 0
  · subst hd; rw [pokeS_zero, if_neg (fun h => h.2 rfl)]
  rw [pokeS_ne hd]
  by_cases h0 : r = 0
  · subst h0; rw [if_neg (fun h => hd h.1.symm)]; rfl
  rw [getS_ne h0, getS_ne h0]
  by_cases hr : r = d
  · subst hr; rw [if_pos ⟨rfl, hd⟩]; exact Vector.getElem_set_self ..
  · rw [if_neg (fun h => hr h.1)]
    exact Vector.getElem_set_ne d.isLt r.isLt (fun e => hr (BitVec.eq_of_toNat_eq e.symm))

theorem getS_setS (m : Strand) (d r : SReg) (v : Word) : (m.setS d v).getS r = if r = d ∧ d ≠ 0 then v else m.getS r := by
  by_cases hd : d = 0
  · subst hd; rw [setS_zero, if_neg (fun h => h.2 rfl)]
  · rw [setS_ne hd, getS_pokeS, getS_save]

theorem setS_undo (m : Strand) (d : SReg) (v : Word) :
    (m.setS d v).undo = if d ≠ 0 ∧ m.window then { q := m.nextQ, reg := .s d, old := m.getS d } :: m.undo else m.undo := by
  by_cases hd : d = 0
  · subst hd; rw [setS_zero, if_neg (fun h => h.1 rfl)]
  · rw [setS_ne hd, pokeS_ne hd]
    by_cases hw : m.window = true
    · rw [if_pos ⟨hd, hw⟩]; unfold Strand.save; rw [if_pos hw]
    · rw [if_neg (fun h => hw h.2)]; unfold Strand.save; rw [if_neg hw]

/-- A write of s[d] changes nothing but the registers and the undo window. -/
theorem setS_rest (m : Strand) (d : SReg) (v : Word) : m.setS d v = { m with regs := (m.setS d v).regs, undo := (m.setS d v).undo } := by
  by_cases hd : d = 0
  · subst hd; rfl
  · rw [setS_ne hd, pokeS_ne hd]; unfold Strand.save; split <;> rfl

theorem wroteS_finS (s : State) (d : SReg) (v : Word) (n : Nat) (c : Bool) : WroteS s d v n c (.next (s.finS d v n c)) := by
  refine ⟨s.finS d v n c, rfl, ?_, ?_, same_memory_of_eq rfl rfl rfl, ?_, ?_⟩
  · show (s.me.setS d v).getS d = _
    rw [getS_setS]
    by_cases hd : d = 0
    · subst hd; rfl
    · rw [if_pos ⟨rfl, hd⟩, if_neg hd]
  · intro r hr
    show (s.me.setS d v).getS r = _
    rw [getS_setS, if_neg (fun h => hr h.1)]
  · exact congrArg (fun m => { s with me := Strand.retire m n c }) (setS_rest s.me d v)
  · exact setS_undo s.me d v

/-- A result stated with another value of the same meaning. -/
theorem wroteS_of_eq {s : State} {d : SReg} {v w : Word} {n : Nat} {c : Bool} (h : w = v) : WroteS s d v n c (.next (s.finS d w n c)) :=
  h ▸ wroteS_finS s d w n c

theorem passed_fin (s : State) (n : Nat) (c : Bool) : Passed s n c (.next (s.fin n c)) := rfl

theorem jumped_goto (s : State) (t : Word) (c : Bool) : Jumped s t none c (.next (s.mod (fun m => m.goto s.cycle t c))) := by
  refine ⟨s.mod (fun m => m.goto s.cycle t c), rfl, rfl, rfl, same_memory_of_eq rfl rfl rfl, fun _ => rfl, ?_, rfl⟩
  show (match s.me.kind with | .heavy => s.cycle + 4 | _ => s.me.readyAt) = _
  cases h : s.me.kind <;> simp

theorem jumped_link (s : State) (d : SReg) (v t : Word) (c : Bool) :
    Jumped s t (some (d, v)) c (.next (s.mod (fun m => (m.setS d v).goto s.cycle t c))) := by
  refine ⟨s.mod (fun m => (m.setS d v).goto s.cycle t c), rfl, rfl, rfl, same_memory_of_eq rfl rfl rfl, ?_, ?_, ?_⟩
  · exact fun r => getS_setS s.me d r v
  · show (match (s.me.setS d v).kind with | .heavy => s.cycle + 4 | _ => (s.me.setS d v).readyAt) = _
    rw [setS_rest s.me d v]
    cases h : s.me.kind <;> simp
  · have e : s.mod (fun m => (m.setS d v).goto s.cycle t c) = { s with me := (s.me.setS d v).goto s.cycle t c } := rfl
    rw [e, setS_rest s.me d v]
    rfl

theorem jumped_of_eq {s : State} {t u : Word} {c : Bool} (h : u = t) :
    Jumped s t none c (.next (s.mod (fun m => m.goto s.cycle u c))) := h ▸ jumped_goto s u c

theorem jumped_link_of_eq {s : State} {d : SReg} {v w t u : Word} {c : Bool} (hv : w = v) (ht : u = t) :
    Jumped s t (some (d, v)) c (.next (s.mod (fun m => (m.setS d w).goto s.cycle u c))) := hv ▸ ht ▸ jumped_link s d w u c

end Sys2Proof.Laws
end

