-- ==== Sys2Proof/Tests/Slice0.lean ====
section
/-! SUPPORT. Tests of the model: ill-formed terms, words written from the spec's encoding tables, worked examples of the spec, and witnesses
for the hypotheses of the statements. -/

namespace Sys2Proof.Tests

open Sys2Proof Sys2Proof.Machine

set_option Elab.async false

/-! ### Ill-formed terms (R40): one for each check, or for each part of a check -/

theorem test_illformed_scalar : ([
    .getsr 1 0x008 false, .setsr 1 0x000 false, .setsr 1 0x00F false, .fadd 1 2 3 3 0 false, .fsub 1 2 3 0 6 false, .fmul 1 2 3 3 0 false,
    .fmin 1 2 3 3 false, .fmax 1 2 3 3 false, .fabs 1 2 3 false, .fneg 1 2 3 false, .fsgnj 1 2 3 3 false, .feq 1 2 3 3 false, .flt 1 2 3 3 false,
    .fle 1 2 3 3 false, .fclass 1 2 3 false, .frcpe 1 2 3 false, .frsqe 1 2 3 false, .fmadd 1 2 3 0 6 false, .fmsub 1 2 3 3 0 false,
    .fnmadd 1 2 3 0 6 false, .fnmsub 1 2 3 3 0 false, .fcvt 1 2 0x00 0 false, .fcvt 1 2 0x02 1 false, .fcvt 1 2 0x10 6 false,
    .fcvt 1 2 0x07 0 false, .fcvt 1 2 0x50 0 false] : List Instr).all (fun i => !i.wf) = true := by decide +kernel

theorem test_illformed_memory : ([
    .ld 1 2 3 2 0 0 false, .ld 1 2 3 0 7 0 false, .st 1 2 3 1 0 0 false, .st 1 2 3 0 4 0 false, .fence 5 0 false, .pref 3 1 0 0 false,
    .vld 1 2 0 0 0 2 false, .vst 1 2 0 0 0 1 false, .vlds 1 2 3 0 0 2 false, .vsts 1 2 3 0 0 1 false, .vgather 1 2 3 0 0 2 false,
    .vscatter 1 2 3 0 0 1 false, .tryrecv 5 5 0 false, .barArrive 1 0 5 false, .barWait 1 2 0 5 false, .barSync 1 0 5 false,
    .cpy 1 2 3 0 false 1 0 0 false, .cpy2d 1 2 3 0 true 1 0 0 false, .cpy2d 1 2 0 0 true 1 0 0 false, .cpyg 1 2 4 0 true 1 1 0 0 false,
    .cpyg 1 2 4 0 true 1 9 0 0 false, .cpys 1 2 4 0 true 1 9 0 0 false, .cpys 1 2 3 0 true 1 2 0 0 false, .cpyred 1 2 3 0 true 1 3 0 0 false,
    .cpyring 1 2 3 0 false 1 0 0 false, .cpyfill 1 2 3 0 false 1 0 0 false, .cpyrem 1 2 3 0 false 1 false 0 0 false,
    .wcas128 3 2 0 0 4 false, .wcas128 0 2 0 0 4 false, .wswap128 2 2 0 0 3 false] : List Instr).all (fun i => !i.wf) = true := by decide +kernel

theorem test_illformed_tasks_and_matrix : ([
    .tspawn 1 2 3 4 0 false, .tspawn 1 2 3 0 0 false, .tspawn 1 2 30 3 0 false, .tspawn 1 2 3 1 2 false, .tkey 1 7 false,
    .mma 0 1 2 11 false false false false, .mma 1 1 2 10 false false false false, .mma 0 1 1 0 false true false false,
    .mmag 0 1 2 11 0 1 false false false, .mmag 1 1 2 10 0 1 false false false, .maccst 0 1 2 0 0 6 false, .maccst 1 1 2 0 0 5 false,
    .maccld 0 1 2 0 6 false, .maccld 1 1 2 0 5 false, .mwait 9 false] : List Instr).all (fun i => !i.wf) = true := by decide +kernel

theorem test_illformed_vector : ([
    .vadd 1 2 3 true 0 0 true false, .vadd 1 2 16 false 1 0 false false, .vadd 1 2 3 true 1 3 false false, .vsub 1 2 3 true 1 3 false false,
    .vmul 1 2 3 true 1 3 false false, .vaddsI 1 2 3 true 1 3 false false, .vaddsN 1 2 16 false 1 0 false false, .vsubsI 1 2 3 true 0 0 true false,
    .vsubsN 1 2 3 true 1 3 false false, .vminI 1 2 3 true 1 3 false false, .vminN 1 2 3 true 1 3 false false, .vmaxI 1 2 3 true 1 3 false false,
    .vmaxN 1 2 3 true 1 3 false false, .vand 1 2 3 true 1 3 false false, .vor 1 2 3 true 1 3 false false, .vxor 1 2 3 true 1 3 false false,
    .vandn 1 2 3 true 1 3 false false, .vsll 1 2 3 true 1 3 false false, .vsrl 1 2 3 true 1 3 false false, .vsra 1 2 3 true 1 3 false false,
    .vcmpeqB32 1 2 3 true 0 true false, .vcmpltI32 1 2 16 false 1 false false, .vcmpltN32 1 2 16 false 1 false false, .vabss 1 2 1 3 false false,
    .vaddFp 1 2 3 true 1 3 false false, .vsubFp 1 2 3 true 1 3 false false, .vmulFp 1 2 3 true 1 3 false false, .vminFp 1 2 3 true 1 3 false false,
    .vmaxFp 1 2 3 true 1 3 false false, .vabs 1 2 1 3 false false, .vneg 1 2 1 3 false false, .vsgnj 1 2 3 true 1 3 false false,
    .vcmpeqS 1 2 16 false 1 false false, .vcmpltS 1 2 16 false 1 false false, .vcmpleS 1 2 16 false 1 false false,
    .vmadd 1 2 3 true 1 3 false false, .vmsub 1 2 3 true 1 3 false false, .vnmadd 1 2 3 true 1 3 false false, .vnmsub 1 2 3 true 1 3 false false,
    .vcvt 1 2 0 1 0x00 false false, .vcvt 1 2 2 1 0x02 false false, .vcvt 1 2 1 1 0x01 false false, .vcvt 1 2 0 1 0x03 false false] : List Instr).all
      (fun i => !i.wf) = true := by decide +kernel

theorem test_illformed_vector_rest : ([
    .vmov 1 2 0 true false, .vbcast 1 2 0 true false, .vshuf 1 2 16 false 1 false false, .vslide 1 2 3 0 true false, .vcompress 1 2 0 true false,
    .vexpand 1 2 0 true false, .vdot4I8 1 2 16 false 1 false false, .vdot4N8 1 2 16 false 1 false false, .vdot2hH 1 2 16 false 1 false false,
    .vdot2hBf 1 2 16 false 1 false false, .vunpk3 1 2 0 true false, .vdott 1 2 16 1 false false, .vdecq 1 2 3 0 true false,
    .dadd 1 2 3 6 false, .dsub 1 2 3 6 false, .dmul 1 2 3 6 false, .ddiv 1 2 3 6 false, .dsqrt 1 2 6 false, .dfma 1 2 3 6 false,
    .fdiv 1 2 3 6 false, .fsqrt 1 2 6 false, .dcvt 1 2 3 0 false, .dcvt 1 2 7 0 false, .dcvt 1 2 0 1 false, .dcvt 1 2 9 6 false,
    .vdadd 1 2 16 false 1 false false, .vdsub 1 2 16 false 1 false false, .vdmul 1 2 16 false 1 false false, .vddiv 1 2 16 false 1 false false,
    .vdsqrt 1 2 0 true false, .vdfma 1 2 3 0 true false, .vdmin 1 2 16 false 1 false false, .vdmax 1 2 16 false 1 false false,
    .vdcvtDS 1 2 false 0 true false, .vdcvtSD 1 2 false 0 true false, .vfdiv 1 2 16 false 1 false false, .vfsqrt 1 2 0 true false,
    .vfexp2 1 2 0 true false, .vflog2 1 2 0 true false, .vfsin 1 2 0 true false, .vfcos 1 2 0 true false, .vftanh 1 2 0 true false,
    .vfsigm 1 2 0 true false, .vfrcp 1 2 0 true false, .vfrsqrt 1 2 0 true false] : List Instr).all (fun i => !i.wf) = true := by decide +kernel

/-- Words of reserved encodings decode to nothing: major 0x3F, a non-zero word of major 0x00, a reserved minor of INT-A, an unassigned state
register, a reserved field and a reserved op of SHIFT-I (R39, R40). -/
theorem test_reserved_words : ([0xFC000000, 0x00000002, 0x04000090, 0x3C000012, 0x18008000, 0x18004000] : List Nat).all
    (fun w => (decode w 0).isNone) = true := by decide +kernel

/-! ### Words written out from the encodings of the spec (R29 to R37 and the opcode tables), and what they decode to -/

/-- Words that stand in the spec's text and examples. -/
theorem test_words_of_the_spec : ([
    (0x18630094, 0, .srli 3 3 10 false),
    (0x08C0FFFE, 0, .addi 6 0 (-1) false),
    (0x04633220, 0, .minn 3 3 6 false),
    (0x05491820, 0, .mul 10 9 3 false),
    (0x4D226BFD, 0, .ld 9 2 3 1 3 (-2) true),
    (0x388A0FF8, 0, .dbnz 5 (-4) false),
    (0x2C2A0020, 0, .beq 21 0 16 false),
    (0x30000020, 0, .jmp 16 false),
    (0xF8600000, 0x12345678, .li 3 0x12345678 false),
    (0x24C00200, 0, .lui 6 0 0x100 false),
    (0x3C200042, 0, .getsr 1 0x021 false),
    (0x3C012042, 0, .setsr 1 0x021 false),
    (0x3C004001, 0, .nop true),
    (0x00000001, 0, .ill true),
    (0x4022180E, 0, .fadd 1 2 3 0 7 false),
    (0x48A6030A, 0, .fcvt 5 6 0x30 5 false),
    (0x5020E300, 0, .st 1 0 7 0 3 0 false),
    (0x99044214, 0, .vdott 4 1 2 1 false false),
    (0x98C40612, 0, .vunpk3 3 1 3 true false),
    (0x9410F200, 0, .vredaddI32 4 7 1 false),
    (0x84853282, 0, .vcmpeqS 2 1 9 true 1 true false),
    (0x9C44600C, 0, .kandn 1 1 3 false),
    (0x9CC1701C, 0, .kset 3 11 false),
    (0x91001004, 0, .vbcast 4 0 0 false false),
    (0x9018F018, 0, .vextr 0 6 7 false),
    (0x9184D01C, 0, .vins 6 1 6 false),
    (0x99A1401C, 0, .vdotq 6 4 5 false),
    (0x9884B018, 0, .vdecq 2 1 5 0 false false),
    (0xA1402000, 0, .vld 5 0 2 0 0 0 false),
    (0xA0443044, 0, .vlds 1 2 3 0 1 0 false),
    (0x5C030000, 0, .send 3 0 false),
    (0x5C200020, 0, .recv 1 0 false),
    (0x61200020, 0, .barSync 9 0 0 false),
    (0x60800022, 0, .barSync 4 0 1 false),
    (0x64400000, 0, .inboxWait 2 false),
    (0x68A63800, 0x20018, .cpy 5 6 7 2 false 0 3 0 false),
    (0x68821850, 0x18000, .cpyring 4 2 3 1 true 0 0 0 false),
    (0x6DEC6804, 0x0C, .tspawn 15 12 13 2 0x0C false),
    (0x6C000010, 0, .tdone false),
    (0xC10A580E, 0, .dadd 8 10 11 7 false),
    (0xC8C4400C, 0, .vddiv 3 1 2 false 0 false false),
    (0xCC8D000C, 0, .wcas128 4 13 0 0 6 false),
    (0xD0400860, 0x20, .mma 2 0 1 6 true false false false),
    (0xD0442A16, 7, .maccst 2 4 5 3 7 0 false),
    (0xD0011A30, 0, .mringcfgSet 1 3 false),
    (0xD1200240, 0, .mstat 9 0 false),
    (0xE0000090, 0, .halt false),
    (0xE400000A, 0, .trap 5 false),
    (0xE4002000, 0, .brk 0 false),
    (0xE4004000, 0, .tret false),
    (0xE802180A, 0, .codesync 2 3 5 false),
    (0xE8000012, 0, .xlatinvAll false),
    (0xE8040020, 0, .xlatpre 4 false),
    (0xEC221830, 0, .qsignal 1 2 3 false false),
    (0xECA60040, 0, .launch 5 6 false),
    (0xEC220070, 0, .rankset 1 2 false),
    (0xF0A21800, 0, .wpset 5 2 3 0 false),
    (0xF0250020, 0, .wpclr 1 5 false),
    (0xF0071830, 0, .tracemark 7 3 false)] : List (Nat × Nat × Instr)).all
      (fun p => decide (decode p.1 p.2.1 = some p.2.2)) = true := by decide +kernel

theorem test_decode_major_00 : ([
    (0x00000000, 0x0, .ill false)] : List (Nat × Nat × Instr)).all
      (fun p => decide (decode p.1 p.2.1 = some p.2.2)) = true := by decide +kernel

theorem test_decode_major_01_1 : ([
    (0x06722801, 0x0, .add 19 18 5 true), (0x07D48010, 0x0, .sub 30 20 16 false), (0x0681F021, 0x0, .mul 20 1 30 true),
    (0x05324030, 0x0, .mulh 9 18 8 false), (0x06F09041, 0x0, .mulhn 23 16 18 true), (0x05B5E050, 0x0, .div 13 21 28 false),
    (0x05152861, 0x0, .divn 8 21 5 true), (0x0701B070, 0x0, .rem 24 1 22 false), (0x04D9F880, 0x0, .remn 6 25 31 false),
    (0x05590901, 0x0, .and 10 25 1 true), (0x0614C111, 0x0, .or 16 20 24 true), (0x06FAF121, 0x0, .xor 23 26 30 true),
    (0x05B8D131, 0x0, .andn 13 24 26 true), (0x07FE2941, 0x0, .orn 31 30 5 true), (0x04822981, 0x0, .sll 4 2 5 true),
    (0x04E9F991, 0x0, .srl 7 9 31 true), (0x0735E1A1, 0x0, .sra 25 21 28 true), (0x05D1D9B1, 0x0, .rol 14 17 27 true),
    (0x066C91C1, 0x0, .ror 19 12 18 true), (0x0668EA01, 0x0, .min 19 8 29 true)] : List (Nat × Nat × Instr)).all
      (fun p => decide (decode p.1 p.2.1 = some p.2.2)) = true := by decide +kernel

theorem test_decode_major_01_2 : ([
    (0x06DEF210, 0x0, .max 22 30 30 false), (0x0789A220, 0x0, .minn 28 9 20 false), (0x06FC5A30, 0x0, .maxn 23 28 11 false),
    (0x06F53A81, 0x0, .slt 23 21 7 true), (0x05441A91, 0x0, .sltn 10 4 3 true), (0x079582A0, 0x0, .seq 28 21 16 false),
    (0x059A1AB1, 0x0, .sne 12 26 3 true), (0x07A50300, 0x0, .clz 29 5 false), (0x054E0311, 0x0, .ctz 10 14 true),
    (0x07840320, 0x0, .popc 28 4 false), (0x06940330, 0x0, .brev 20 20 false), (0x05B70341, 0x0, .bswap 13 23 true),
    (0x065DF381, 0x0, .ext 18 29 30 true), (0x06281391, 0x0, .extn 17 8 2 true), (0x042323A0, 0x0, .dep 1 3 4 false),
    (0x07E773B1, 0x0, .sel 31 7 14 true)] : List (Nat × Nat × Instr)).all
      (fun p => decide (decode p.1 p.2.1 = some p.2.2)) = true := by decide +kernel

theorem test_decode_major_02 : ([
    (0x0A8927FE, 0x0, .addi 20 9 5119 false)] : List (Nat × Nat × Instr)).all
      (fun p => decide (decode p.1 p.2.1 = some p.2.2)) = true := by decide +kernel

theorem test_decode_major_03 : ([
    (0x0F8B5059, 0x0, .andi 28 11 10284 true)] : List (Nat × Nat × Instr)).all
      (fun p => decide (decode p.1 p.2.1 = some p.2.2)) = true := by decide +kernel

theorem test_decode_major_04 : ([
    (0x13E5E58D, 0x0, .ori 31 5 29382 true)] : List (Nat × Nat × Instr)).all
      (fun p => decide (decode p.1 p.2.1 = some p.2.2)) = true := by decide +kernel

theorem test_decode_major_05 : ([
    (0x15AFDEB3, 0x0, .xori 13 15 28505 true)] : List (Nat × Nat × Instr)).all
      (fun p => decide (decode p.1 p.2.1 = some p.2.2)) = true := by decide +kernel

theorem test_decode_major_06 : ([
    (0x1ABC004E, 0x0, .slli 21 28 39 false), (0x1A9F00E9, 0x0, .srli 20 31 52 true), (0x19D5015E, 0x0, .srai 14 21 47 false)] : List (Nat × Nat × Instr)).all
      (fun p => decide (decode p.1 p.2.1 = some p.2.2)) = true := by decide +kernel

theorem test_decode_major_07 : ([
    (0x1FCA3801, 0x0, .slti 30 10 7168 true), (0x1E2AC635, 0x0, .sltni 17 10 8986 true)] : List (Nat × Nat × Instr)).all
      (fun p => decide (decode p.1 p.2.1 = some p.2.2)) = true := by decide +kernel

theorem test_decode_major_08 : ([
    (0x203A6A4D, 0x0, .muli 1 26 13606 true)] : List (Nat × Nat × Instr)).all
      (fun p => decide (decode p.1 p.2.1 = some p.2.2)) = true := by decide +kernel

theorem test_decode_major_09 : ([
    (0x242D9DA6, 0x0, .lui 1 13 20179 false)] : List (Nat × Nat × Instr)).all
      (fun p => decide (decode p.1 p.2.1 = some p.2.2)) = true := by decide +kernel

theorem test_decode_major_0a : ([
    (0x2855A807, 0x0, .lea 2 21 21 3 true), (0x2996F017, 0x0, .addx 12 22 30 3 true)] : List (Nat × Nat × Instr)).all
      (fun p => decide (decode p.1 p.2.1 = some p.2.2)) = true := by decide +kernel

theorem test_decode_major_0b : ([
    (0x2C31005C, 0x0, .beq 24 16 46 false), (0x2C7F6059, 0x0, .bne 31 22 44 true), (0x2C93574F, 0x0, .blt 9 21 935 true),
    (0x2CE74520, 0x0, .bge 19 20 656 false), (0x2D186503, 0x0, .bltn 12 6 641 true), (0x2D79443B, 0x0, .bgen 28 20 541 true)] : List (Nat × Nat × Instr)).all
      (fun p => decide (decode p.1 p.2.1 = some p.2.2)) = true := by decide +kernel

theorem test_decode_major_0c : ([
    (0x3326327B, 0x0, .jmp 26417469 true)] : List (Nat × Nat × Instr)).all
      (fun p => decide (decode p.1 p.2.1 = some p.2.2)) = true := by decide +kernel

theorem test_decode_major_0d : ([
    (0x346B6380, 0x0, .call 3518912 false)] : List (Nat × Nat × Instr)).all
      (fun p => decide (decode p.1 p.2.1 = some p.2.2)) = true := by decide +kernel

theorem test_decode_major_0e : ([
    (0x38260000, 0x0, .jr 19 false), (0x38540000, 0x0, .callr 10 false), (0x38AA0CDF, 0x0, .dbnz 21 1647 true)] : List (Nat × Nat × Instr)).all
      (fun p => decide (decode p.1 p.2.1 = some p.2.2)) = true := by decide +kernel

theorem test_decode_major_0f : ([
    (0x3C004000, 0x0, .nop false), (0x3C00733B, 0x0, .pause 2461 true), (0x3C200042, 0x0, .getsr 1 0x021 false),
    (0x3C012042, 0x0, .setsr 1 0x021 false)] : List (Nat × Nat × Instr)).all
      (fun p => decide (decode p.1 p.2.1 = some p.2.2)) = true := by decide +kernel

theorem test_decode_major_10 : ([
    (0x43EBB018, 0x0, .fadd 31 11 22 1 4 false), (0x4222706E, 0x0, .fsub 17 2 14 2 7 false), (0x4128D092, 0x0, .fmul 9 8 26 1 1 false),
    (0x430438D1, 0x0, .fmin 24 4 7 1 true), (0x423DF120, 0x0, .fmax 17 29 30 2 false), (0x43540160, 0x0, .fabs 26 20 2 false),
    (0x420501A1, 0x0, .fneg 16 5 2 true), (0x41ECA9E1, 0x0, .fsgnj 15 12 21 2 true), (0x41D37211, 0x0, .feq 14 19 14 1 true),
    (0x40A70A61, 0x0, .flt 5 7 1 2 true), (0x408EB291, 0x0, .fle 4 14 22 1 true), (0x405802E1, 0x0, .fclass 2 24 2 true),
    (0x424B0310, 0x0, .frcpe 18 11 1 false), (0x43930360, 0x0, .frsqe 28 19 2 false)] : List (Nat × Nat × Instr)).all
      (fun p => decide (decode p.1 p.2.1 = some p.2.2)) = true := by decide +kernel

theorem test_decode_major_11 : ([
    (0x4748101E, 0x0, .fmadd 26 8 2 1 7 false), (0x47BDE86A, 0x0, .fmsub 29 29 29 2 5 false),
    (0x4430C095, 0x0, .fnmadd 1 16 24 1 2 true), (0x4605E8E6, 0x0, .fnmsub 16 5 29 2 3 false)] : List (Nat × Nat × Instr)).all
      (fun p => decide (decode p.1 p.2.1 = some p.2.2)) = true := by decide +kernel

theorem test_decode_major_12 : ([
    (0x485F075A, 0x0, .fcvt 2 31 117 5 false)] : List (Nat × Nat × Instr)).all
      (fun p => decide (decode p.1 p.2.1 = some p.2.2)) = true := by decide +kernel

theorem test_decode_major_13 : ([
    (0x4D657CD0, 0x0, .ld 11 5 3 3 4 104 false)] : List (Nat × Nat × Instr)).all
      (fun p => decide (decode p.1 p.2.1 = some p.2.2)) = true := by decide +kernel

theorem test_decode_major_14 : ([
    (0x509B5970, 0x0, .st 4 27 2 3 1 56 false)] : List (Nat × Nat × Instr)).all
      (fun p => decide (decode p.1 p.2.1 = some p.2.2)) = true := by decide +kernel

theorem test_decode_major_15 : ([
    (0x54C8F036, 0x0, .amoadd 6 8 7 2 false 27 false), (0x5615B073, 0x0, .amoswap 16 21 5 2 false 25 true),
    (0x5509B985, 0x0, .amocas 8 9 5 3 true 2 true), (0x5579E8F2, 0x0, .amoand 11 25 7 1 false 25 false),
    (0x54442B04, 0x0, .amoor 2 4 1 1 true 2 false), (0x56319256, 0x0, .amoxor 17 17 4 2 false 11 false),
    (0x558DD399, 0x0, .amomin 12 13 6 2 true 12 true), (0x54EB8AE4, 0x0, .amomax 7 11 4 1 false 18 false),
    (0x56F88C05, 0x0, .amominn 23 24 4 1 false 2 true), (0x55F4DD6A, 0x0, .amomaxn 15 20 6 3 true 21 false),
    (0x569D8C99, 0x0, .amofadd 20 29 4 1 12 true)] : List (Nat × Nat × Instr)).all
      (fun p => decide (decode p.1 p.2.1 = some p.2.2)) = true := by decide +kernel

theorem test_decode_major_16 : ([
    (0x5800001B, 0x0, .fence 3 1 true), (0x58014239, 0x0, .flushl 1 2 28 true), (0x5817A315, 0x0, .invl 23 5 10 true)] : List (Nat × Nat × Instr)).all
      (fun p => decide (decode p.1 p.2.1 = some p.2.2)) = true := by decide +kernel

theorem test_decode_major_17 : ([
    (0x5C082000, 0x0, .send 8 4 false), (0x5C0F0811, 0x0, .sendv 15 1 true), (0x5D802821, 0x0, .recv 12 5 true),
    (0x5C402030, 0x0, .recvv 2 4 false), (0x5FFB3041, 0x0, .tryrecv 31 27 6 true), (0x5EC00851, 0x0, .chstatIn 22 1 true),
    (0x5E602852, 0x0, .chstatOut 19 5 false)] : List (Nat × Nat × Instr)).all
      (fun p => decide (decode p.1 p.2.1 = some p.2.2)) = true := by decide +kernel

theorem test_decode_major_18 : ([
    (0x61602809, 0x0, .barArrive 11 5 4 true), (0x60452017, 0x0, .barWait 2 5 4 3 true), (0x60402822, 0x0, .barSync 2 5 1 false),
    (0x62C02030, 0x0, .barStat 22 4 false)] : List (Nat × Nat × Instr)).all
      (fun p => decide (decode p.1 p.2.1 = some p.2.2)) = true := by decide +kernel

theorem test_decode_major_19 : ([
    (0x67600000, 0x0, .inboxWait 27 false), (0x65600010, 0x0, .inboxPoll 11 false)] : List (Nat × Nat × Instr)).all
      (fun p => decide (decode p.1 p.2.1 = some p.2.2)) = true := by decide +kernel

theorem test_decode_major_20_1 : ([
    (0x838E1409, 0x0, .vadd 14 3 16 true 2 2 false true), (0x82AFF818, 0x0, .vsub 10 11 31 true 4 2 false false),
    (0x81D61628, 0x0, .vmul 7 5 16 true 3 2 false false), (0x82D1F63B, 0x0, .vaddsI 11 4 15 true 3 2 true true),
    (0x80A3B247, 0x0, .vaddsN 2 8 29 true 1 1 true true), (0x82D11E5A, 0x0, .vsubsI 11 4 8 true 7 2 true false),
    (0x80A56664, 0x0, .vsubsN 2 9 11 false 3 1 false false), (0x82D5F277, 0x0, .vminI 11 5 15 true 1 1 true true),
    (0x81DCC684, 0x0, .vminN 7 7 6 false 3 1 false false), (0x8068DA9A, 0x0, .vmaxI 1 10 6 true 5 2 true false),
    (0x83D146AA, 0x0, .vmaxN 15 4 10 false 3 2 true false), (0x80E986B9, 0x0, .vand 3 10 12 false 3 2 false true),
    (0x8058B4C7, 0x0, .vor 1 6 5 true 2 1 true true), (0x80B398D7, 0x0, .vxor 2 12 28 true 4 1 true true),
    (0x829DF8E7, 0x0, .vandn 10 7 15 true 4 1 true true), (0x83950EF8, 0x0, .vsll 14 5 8 false 7 2 false false),
    (0x81FA370A, 0x0, .vsrl 7 14 17 true 3 2 true false), (0x80DC6317, 0x0, .vsra 3 7 3 false 1 1 true true),
    (0x8059F329, 0x0, .vcmpeqB32 1 6 15 true 1 false true), (0x80DDB339, 0x0, .vcmpltI32 3 7 13 true 1 false true)] : List (Nat × Nat × Instr)).all
      (fun p => decide (decode p.1 p.2.1 = some p.2.2)) = true := by decide +kernel

theorem test_decode_major_20_2 : ([
    (0x810E534A, 0x0, .vcmpltN32 4 3 18 true 1 true false), (0x82DC035A, 0x0, .vabss 11 7 1 2 true false)] : List (Nat × Nat × Instr)).all
      (fun p => decide (decode p.1 p.2.1 = some p.2.2)) = true := by decide +kernel

theorem test_decode_major_21 : ([
    (0x86719E0B, 0x0, .vaddFp 9 12 12 true 7 2 true true), (0x87069C14, 0x0, .vsubFp 12 1 20 true 6 1 false false),
    (0x84685A24, 0x0, .vmulFp 1 10 2 true 5 1 false false), (0x84DBB235, 0x0, .vminFp 3 6 29 true 1 1 false true),
    (0x86F2BA49, 0x0, .vmaxFp 11 12 21 true 5 2 false true), (0x86140E54, 0x0, .vabs 8 5 7 1 false false),
    (0x84F8026B, 0x0, .vneg 3 14 1 2 true true), (0x84953275, 0x0, .vsgnj 2 5 9 true 1 1 false true),
    (0x85551683, 0x0, .vcmpeqS 5 5 8 true 3 true true), (0x84625690, 0x0, .vcmpltS 1 8 18 true 3 false false),
    (0x84E23CA3, 0x0, .vcmpleS 3 8 17 true 6 true true)] : List (Nat × Nat × Instr)).all
      (fun p => decide (decode p.1 p.2.1 = some p.2.2)) = true := by decide +kernel

theorem test_decode_major_22 : ([
    (0x89896407, 0x0, .vmadd 6 2 11 false 2 1 true true), (0x8AA8BE14, 0x0, .vmsub 10 10 5 true 7 1 false false),
    (0x89393E29, 0x0, .vnmadd 4 14 9 true 7 2 false true), (0x8BBDF836, 0x0, .vnmsub 14 15 15 true 4 1 true false)] : List (Nat × Nat × Instr)).all
      (fun p => decide (decode p.1 p.2.1 = some p.2.2)) = true := by decide +kernel

theorem test_decode_major_23 : ([
    (0x8D482812, 0x0, .vcvt 5 2 1 4 4 true false)] : List (Nat × Nat × Instr)).all
      (fun p => decide (decode p.1 p.2.1 = some p.2.2)) = true := by decide +kernel

theorem test_decode_major_24 : ([
    (0x92900C00, 0x0, .vmov 10 4 6 false false), (0x93433C05, 0x0, .vbcast 13 25 6 false true),
    (0x90E6B408, 0x0, .vshuf 3 9 21 true 2 false false), (0x907A3C0E, 0x0, .vslide 1 14 17 6 true false),
    (0x92940C10, 0x0, .vcompress 10 5 6 false false), (0x92340214, 0x0, .vexpand 8 13 1 false false),
    (0x91A91018, 0x0, .vextr 6 10 8 false), (0x9224301D, 0x0, .vins 8 9 1 true)] : List (Nat × Nat × Instr)).all
      (fun p => decide (decode p.1 p.2.1 = some p.2.2)) = true := by decide +kernel

theorem test_decode_major_25 : ([
    (0x94197E01, 0x0, .vredaddI32 6 11 7 true), (0x9432F404, 0x0, .vredaddN32 12 23 2 false),
    (0x943B7A08, 0x0, .vredmaxI32 14 27 5 false), (0x94307C0D, 0x0, .vredmaxN32 12 3 6 true),
    (0x9434F210, 0x0, .vredminI32 13 7 1 false), (0x941EFE14, 0x0, .vredminN32 7 23 7 false), (0x94217218, 0x0, .vredfadd 8 11 1 false),
    (0x941C7E1C, 0x0, .vredmaxS 7 3 7 false), (0x9430D821, 0x0, .vredminS 12 6 4 true)] : List (Nat × Nat × Instr)).all
      (fun p => decide (decode p.1 p.2.1 = some p.2.2)) = true := by decide +kernel

theorem test_decode_major_26 : ([
    (0x9A307403, 0x0, .vdot4I8 8 12 3 true 2 true true), (0x9861F805, 0x0, .vdot4N8 1 8 15 true 4 false true),
    (0x9BC7160B, 0x0, .vdot2hH 15 1 24 true 3 true true), (0x9A5A940C, 0x0, .vdot2hBf 9 6 20 true 2 false false),
    (0x99740611, 0x0, .vunpk3 5 13 3 false true), (0x9A50C414, 0x0, .vdott 9 4 6 2 false false),
    (0x9A9E3418, 0x0, .vdecq 10 7 17 2 false false), (0x98A8801D, 0x0, .vdotq 2 5 2 true)] : List (Nat × Nat × Instr)).all
      (fun p => decide (decode p.1 p.2.1 = some p.2.2)) = true := by decide +kernel

theorem test_decode_major_27 : ([
    (0x9D082000, 0x0, .kand 4 2 1 false), (0x9D106005, 0x0, .kor 4 4 3 true), (0x9C58C008, 0x0, .kxor 1 6 6 false),
    (0x9C90200D, 0x0, .kandn 2 4 1 true), (0x9D040010, 0x0, .knot 4 1 false), (0x9C089015, 0x0, .kpopc 2 4 true),
    (0x9C10F018, 0x0, .kfirst 4 7 false), (0x9CC2901C, 0x0, .kset 3 20 false), (0x9C0FD020, 0x0, .kget 3 30 false)] : List (Nat × Nat × Instr)).all
      (fun p => decide (decode p.1 p.2.1 = some p.2.2)) = true := by decide +kernel

theorem test_decode_major_28 : ([
    (0xA0E0BBD1, 0x0, .vld 3 16 11 5 7 1 true), (0xA2843933, 0x0, .vst 10 2 3 4 4 3 true), (0xA051C914, 0x0, .vlds 1 8 28 4 4 1 false),
    (0xA06CE376, 0x0, .vsts 1 22 14 1 5 3 false), (0xA082B258, 0x0, .vgather 2 1 11 1 1 1 false),
    (0xA2044D6A, 0x0, .vscatter 8 2 4 6 5 2 false)] : List (Nat × Nat × Instr)).all
      (fun p => decide (decode p.1 p.2.1 = some p.2.2)) = true := by decide +kernel

theorem test_decode_major_30 : ([
    (0xC3B98007, 0x0, .dadd 29 25 16 3 true), (0xC1913813, 0x0, .dsub 12 17 7 1 true), (0xC1AAC82B, 0x0, .dmul 13 10 25 5 true),
    (0xC07F5035, 0x0, .ddiv 3 31 10 2 true), (0xC0910049, 0x0, .dsqrt 4 17 4 true), (0xC256C858, 0x0, .dfma 18 22 25 4 false),
    (0xC378E061, 0x0, .dmin 27 24 28 true), (0xC37F9071, 0x0, .dmax 27 31 18 true), (0xC3C66081, 0x0, .dcmpEq 30 6 12 true),
    (0xC1E87891, 0x0, .dcmpLt 15 8 15 true), (0xC189D8A0, 0x0, .dcmpLe 12 9 27 false), (0xC23800B1, 0x0, .dclass 17 24 true),
    (0xC3F01104, 0x0, .fdiv 31 16 2 2 false), (0xC2F90113, 0x0, .fsqrt 23 25 1 true), (0xC34E0257, 0x0, .dcvt 26 14 5 3 true)] : List (Nat × Nat × Instr)).all
      (fun p => decide (decode p.1 p.2.1 = some p.2.2)) = true := by decide +kernel

theorem test_decode_major_31 : ([
    (0xC5680000, 0x0, .fexp2 11 8 false), (0xC7B40010, 0x0, .flog2 29 20 false), (0xC5EF0021, 0x0, .fsin 15 15 true),
    (0xC5810030, 0x0, .fcos 12 1 false), (0xC4ED0040, 0x0, .ftanh 7 13 false), (0xC5730051, 0x0, .fsigm 11 19 true),
    (0xC48F0060, 0x0, .frcp 4 15 false), (0xC7750070, 0x0, .frsqrt 27 21 false)] : List (Nat × Nat × Instr)).all
      (fun p => decide (decode p.1 p.2.1 = some p.2.2)) = true := by decide +kernel

theorem test_decode_major_32 : ([
    (0xC9304C00, 0x0, .vdadd 4 12 2 false 6 false false), (0xC8914407, 0x0, .vdsub 2 4 10 false 2 true true),
    (0xCB25860B, 0x0, .vdmul 12 9 12 false 3 true true), (0xC9E18A0E, 0x0, .vddiv 7 8 12 false 5 true false),
    (0xC93C0610, 0x0, .vdsqrt 4 15 3 false false), (0xCA1D1E15, 0x0, .vdfma 8 7 8 7 false true),
    (0xCB6F981A, 0x0, .vdmin 13 11 28 true 4 true false), (0xC97BFE1E, 0x0, .vdmax 5 14 31 true 7 true false),
    (0xC8A40822, 0x0, .vdcvtDS 2 9 false 4 true false), (0xC9980825, 0x0, .vdcvtSD 6 6 false 4 false true),
    (0xC9903240, 0x0, .vfdiv 6 4 1 true 1 false false), (0xC9B80246, 0x0, .vfsqrt 6 14 1 true false),
    (0xC9E0024A, 0x0, .vfexp2 7 8 1 true false), (0xC98C0C4C, 0x0, .vflog2 6 3 6 false false),
    (0xCBBC0C53, 0x0, .vfsin 14 15 6 true true), (0xC9900A57, 0x0, .vfcos 6 4 5 true true),
    (0xCBF4085A, 0x0, .vftanh 15 13 4 true false), (0xC97C025C, 0x0, .vfsigm 5 15 1 false false),
    (0xC8700462, 0x0, .vfrcp 1 12 2 true false), (0xCAE00264, 0x0, .vfrsqrt 11 8 1 false false)] : List (Nat × Nat × Instr)).all
      (fun p => decide (decode p.1 p.2.1 = some p.2.2)) = true := by decide +kernel

theorem test_decode_major_33 : ([
    (0xCFC19825, 0x0, .wcas128 30 1 4 3 18 true), (0xCD0D7110, 0x0, .wswap128 8 13 3 2 8 false),
    (0xCDEA9206, 0x0, .wamofadd 15 10 4 2 3 false), (0xCCB0FB15, 0x0, .wamomin 5 16 7 3 10 true),
    (0xCF5DD43E, 0x0, .wamomax 26 29 6 2 31 false)] : List (Nat × Nat × Instr)).all
      (fun p => decide (decode p.1 p.2.1 = some p.2.2)) = true := by decide +kernel

theorem test_decode_major_38 : ([
    (0xE00E5009, 0x0, .setseg 14 10 4 true), (0xE2200017, 0x0, .getseg 17 false 3 true), (0xE00A0821, 0x0, .tlbinvPage 10 1 true),
    (0xE0006023, 0x0, .tlbinvSpace 12 true), (0xE0000025, 0x0, .tlbinvAll true), (0xE3080030, 0x0, .park 24 8 false),
    (0xE0010040, 0x0, .wake 1 false), (0xE0150042, 0x0, .wakeStrand 21 false), (0xE2413052, 0x0, .ctxsave 18 1 6 1 false),
    (0xE0F9D069, 0x0, .ctxload 7 25 26 4 true), (0xE3FA6070, 0x0, .slotswap 31 26 12 false), (0xE2064080, 0x0, .slotctl 16 6 8 false),
    (0xE0000091, 0x0, .halt true)] : List (Nat × Nat × Instr)).all
      (fun p => decide (decode p.1 p.2.1 = some p.2.2)) = true := by decide +kernel

theorem test_decode_major_39 : ([
    (0xE4000DD7, 0x0, .trap 1771 true), (0xE4003ABE, 0x0, .brk 3423 false), (0xE4004000, 0x0, .tret false)] : List (Nat × Nat × Instr)).all
      (fun p => decide (decode p.1 p.2.1 = some p.2.2)) = true := by decide +kernel

theorem test_decode_major_3a : ([
    (0xE80F5006, 0x0, .codesync 15 10 3 false), (0xE816D011, 0x0, .xlatinvRange 22 26 true), (0xE8000013, 0x0, .xlatinvAll true),
    (0xE8180021, 0x0, .xlatpre 24 true)] : List (Nat × Nat × Instr)).all
      (fun p => decide (decode p.1 p.2.1 = some p.2.2)) = true := by decide +kernel

theorem test_decode_major_3b : ([
    (0xED600000, 0x0, .qwait 11 false), (0xEC200011, 0x0, .qpop 1 true), (0xEC550020, 0x0, .qpush 2 21 false),
    (0xEFD9D030, 0x0, .qsignal 30 25 26 false false), (0xEF19D837, 0x0, .qsignalAdd 24 25 27 true true),
    (0xEE450041, 0x0, .launch 18 5 true), (0xEC260042, 0x0, .launchTry 1 6 false), (0xEC200051, 0x0, .wqmap 1 true),
    (0xEEA20053, 0x0, .wqmapQ 21 2 true), (0xEDE00061, 0x0, .wqunmap 15 true), (0xED910070, 0x0, .rankset 12 17 false)] : List (Nat × Nat × Instr)).all
      (fun p => decide (decode p.1 p.2.1 = some p.2.2)) = true := by decide +kernel

theorem test_decode_major_3c : ([
    (0xF146180C, 0x0, .wpset 10 6 3 6 false), (0xF3722011, 0x0, .wpsetPhys 27 18 4 true), (0xF32C0021, 0x0, .wpclr 25 12 true),
    (0xF00F4831, 0x0, .tracemark 15 9 true)] : List (Nat × Nat × Instr)).all
      (fun p => decide (decode p.1 p.2.1 = some p.2.2)) = true := by decide +kernel


/-- The prompter's rows of assigned words agree with the decoder on words of each kind: an instruction, a reserved field, a reserved minor and an
unassigned major. -/
theorem test_assigned : [(0x18630094, 0), (0x4D226BFD, 0), (0xF8600000, 0x12345678), (0x6DEC6804, 0x0C), (0x18630095, 0), (0x5C200021, 0), (0x00000001, 0),
    (0xFC000000, 0), (0x3C200042, 0), (0xE8000012, 0), (0xE800001E, 0)].all (fun p => assigned p.1 p.2 == (decode p.1 p.2).isSome) = true := by decide +kernel
/-! ### Small states -/

/-- A segment of 64 KiB at base 0 that may be read and written, of a kind. -/
def seg (kind : Nat) : Seg := { base := 0, desc := BitVec.ofNat 64 (kind * 2 ^ 44 + 2 ^ 42 + 2 ^ 41 + 2 ^ 16) }
/-- An active strand of a kind in system code, with a handler at 0x100 and segments of KIND 0 to 4. -/
def strand (k : Kind) : Strand := { Strand.fresh (fetchSlot k 0) k (fetchWidth k) with
  run := .active, tvec := 0x100, codeSeg := fetchSeg, trapSeg := fetchSeg
  segs := #v[seg 0, seg 1, seg 2, seg 3, seg 4, seg 1, seg 1, seg 1]
  regs := (Vector.range 32).map (fun i => BitVec.ofNat 64 i) }
/-- The module with one strand. -/
def st (m : Strand) : State := { State.reset with me := m }
/-- A lean strand, a heavy one and a stage manager's, in system code; and a lean one in plain code. -/
def sL : State := st (strand .lean)
def sH : State := st (strand .heavy)
def sM : State := st (strand .sm)
def plainSeg : Seg := { fetchSeg with desc := fetchSeg.desc &&& ~~~((1 : Word) <<< 48) }
def sU : State := st { strand .lean with codeSeg := plainSeg }
/-- A change of the current strand. -/
def on' (s : State) (f : Strand → Strand) : State := { s with me := f s.me }
/-- An access at a location, and an operation with its accesses, the first of its strand. -/
def acc (va size : Nat) (loc : Option Nat) : Access := { lane := 0, va := va, size := size, loc := loc, region := .priv, data := 5 }
def op (what : OpWhat) (stage : Stage) (accs : List Access) : Op :=
  { q := 0, pc := 0, what := what, dsts := [], accs := accs, ord := 0, kind := 1, stage := stage, trappable := stage == .unconfirmed
    flags := { fflags := 0, vstat := 0, srseed := 1 }, issued := 0 }
/-- A strand's state with that operation outstanding, its instruction being the next. -/
def with' (s : State) (o : Op) : State := on' s (fun m => { m with ops := [o], nextQ := 1, pc := 4 })
/-- A launch descriptor of one cluster with one lean core of one slot, dump area at 0x100000 of 8 KiB, spill area, and completion record;
`flags` is FLAGS. -/
def desc (flags : Nat) : List Byte :=
  setBytes (setBytes (setBytes (setBytes (setBytes (setBytes (setBytes (setBytes (List.replicate 512 0)
    0x000 4 0x48434E4C) 0x004 2 1) 0x006 1 flags) 0x00A 6 0x000404010101) 0x0F0 16 (0x100000 + 0x2000 * 2 ^ 64)) 0x100 8 0x200000) 0x130 8 0x300000)
    0x128 8 0x10000
/-- A request for it, and its troupe: vcore 0 on slot 0, launched by the stage manager of die 0. -/
def request (flags : Nat) : PlaceReq :=
  { sa := mkSa 0 15 63 0, q := 0, desc := desc flags, queue := 0, notify := false, once := false, arrives := 0, due := none, waiting := false, carried := false }
def troupe (flags : Nat) : Troupe := State.reset.newTroupe (request flags) (0, 0, [0]) 0
/-- The lean strand holds vcore 0 of troupe 1. -/
def sT (t : Troupe) : State := { on' sL (fun m => { m with troupe := 1 }) with troupes := [(1, t)] }
/-- A task of that troupe. -/
def task (state : TaskState) (worker : Option Nat) : Task :=
  { t := 5, parent := 0, entry := 0x40, args := [7], retries := 0, rerun := false, state := state, unit := 0, worker := worker, buffer := [], sig := 0
    front := false, doomed := false, ending := none, slot := none, usedCores := [], committing := false, spawner := none }
/-- The lean strand runs that task. -/
def sK (k : Task) (t : Troupe) : State := on' (sT { t with tasks := [(9, k)] }) (fun m => { m with task := some 9 })

/-! ### Witnesses: a state and operands that meet the hypotheses of each statement, and of each clause (integer, control, traps) -/

theorem witness_Division : sL.me.getS 3 ≠ 0 ∧ (sL.me.getS 0 = 0 ∧ sL.me.fctl.getLsbD 9 = false) ∧
    (on' sL (fun m => { m with fctl := 0x200 })).me.fctl.getLsbD 9 = true := by decide +kernel
theorem witness_ControlTransfer : (sL.me.getS 4).extractLsb' 0 2 = 0 ∧ (sL.me.getS 5).extractLsb' 0 2 ≠ 0 := by decide +kernel
theorem witness_ReadStateRegister : sL.me.task = none ∧
    (sK (task .running (some 0)) (troupe 1)).taskOf (sK (task .running (some 0)) (troupe 1)).me = some (9, task .running (some 0)) ∧
    sH.me.kind = .heavy ∧ sL.me.kind ≠ .heavy := by decide +kernel
theorem witness_ReadStateRegister_unassigned : (0x008 : BitVec 12) ∉ (srValues sL).map (·.1) ∧ (0x008 : BitVec 12) ∉ [0x030, 0x032, 0x033, 0x040, 0x041] := by
  simp [srValues]
theorem witness_WriteStateRegister : sL.me.system = true ∧ sU.me.system = false ∧ (sH.me.system = true ∧ sH.me.kind = .heavy) ∧ sL.me.kind ≠ .heavy ∧
    (0x000 : BitVec 12) ∉ (srWrites sL.me 0).map (·.1) ∧ (0x000 : BitVec 12) ∉ 0x040 :: (srSystemWrites sL.me 0).map (·.1) := by decide +kernel
theorem witness_NopPauseIll : sL.me.kind ≠ .heavy ∧ sH.me.kind = .heavy := by decide +kernel
theorem witness_TrapEntry : Settled sL ∧ sL.me.tvec ≠ 0 ∧ sL.me.h = false := by unfold Settled; decide +kernel
/-- The state of a fatal trap: no handler address, or already in the handler, in a live troupe. -/
def sF (h : Bool) : State := on' (sT (troupe 0)) (fun m => { m with tvec := if h then 0x100 else 0, h := h })
theorem witness_FatalTrap : Settled (sF false) ∧ (sF false).me.kind ≠ .sm ∧ (sF false).me.tvec = 0 ∧ Settled (sF true) ∧ (sF true).me.h = true ∧
    Cause.illegal ≠ .machineCheck ∧ (sF true).troupe? (sF true).me.troupe = some (troupe 0) := by unfold Settled; decide +kernel
theorem witness_TrapHeld : (with' sL (op (.load 1 true) .unconfirmed [])).me.held = [] ∧
    ∃ o ∈ (with' sL (op (.load 1 true) .unconfirmed [])).me.ops, o.trappable = true ∧ o.q < (with' sL (op (.load 1 true) .unconfirmed [])).me.nextQ := by
  decide +kernel
theorem witness_TrapAndReturn : sL.me.dbg.claimed = false ∧ (on' sL (fun m => { m with dbg := { m.dbg with claimed := true } })).me.dbg.claimed = true ∧
    (sL.me.system = true ∧ sL.me.h = false) ∧ (on' sL (fun m => { m with h := true })).me.system = true ∧ sU.me.system = false := by decide +kernel
/-- A held exception, and a strand that holds it or an asynchronous cause. -/
def heldOne : Held := { q := 0, pc := 8, cause := .illegal, addr := 3, info := 0, flags := { fflags := 0, vstat := 0, srseed := 1 } }
theorem witness_TrapDelivery : (let s := on' sL (fun m => { m with held := [heldOne] });
      s.me.ops = [] ∧ s.me.undo = [] ∧ s.me.held = [heldOne] ∧ s.me.task = none ∧ s.me.tvec ≠ 0 ∧ s.me.h = false) ∧
    (let s := on' sL (fun m => { m with async := [(.watchpoint, 7)] });
      s.me.ops = [] ∧ s.me.held = [] ∧ s.me.async = [(.watchpoint, 7)] ∧ s.me.tvec ≠ 0 ∧ s.me.h = false) := by decide +kernel

/-! ### Witnesses: floating point and vectors -/

theorem witness_RoundingFaithful : fp32 ∈ [fp64, fp32, fp16, bf16, e5m2, e4m3] ∧ 0 < 3 ∧ fp32.emin ≤ (Nat.log2 3 : Int) + 0 ∧ (Nat.log2 3 : Int) + 0 < fp32.bias := by
  decide +kernel
/-- The vector statements ask for a strand that is no stage manager's; the element width is 8, 16 or 32 bits. -/
theorem witness_vectors : sL.me.kind ≠ .sm ∧ sH.me.kind ≠ .sm ∧ (2 : BitVec 2) ≠ 3 := by decide +kernel
theorem witness_VectorConvert : (0 : Fin 5) ≠ 3 ∧ (1 : BitVec 2).toNat < 32 / min 8 32 ∧ 16 / min 16 16 ≤ (1 : BitVec 2).toNat := by decide +kernel

/-! ### Witnesses: memory -/

theorem witness_SegmentCheck : (seg 0).kind = 0 ∧
    (segCheck sL.me (seg 2) true false 0x10000 4 4 = .bad .segLimit 0x10000) ∧ (segCheck sL.me (seg 2) true false 2 4 4 = .bad .misaligned 2) ∧
    (segCheck sL.me (seg 2) true false 8 4 4 = .ok 8) ∧ (segCheck sL.me (seg 0) true false 8 4 4 = .bad .segRights 8) := by decide +kernel
theorem witness_ScalarMemoryIssue : InOrder sL ∧ InOrder (with' sL (op (.load 1 true) .unconfirmed [])) := by unfold InOrder; decide +kernel
/-- No lane, all lanes on 64-byte alignment or not, and lanes that fail at offset 0xFFFC + 4. -/
theorem witness_VectorMemoryIssue : InOrder sL ∧ sL.me.kind ≠ .sm ∧ (List.range 16).filter (on sL 1 32) = [] ∧ (List.range 16).filter (on sL 0 32) ≠ [] ∧
    ((seg 1).base + 4).toNat % 64 ≠ 0 ∧ ((seg 1).base + 64).toNat % 64 = 0 ∧
    (∀ j ∈ List.range 16, segCheck sL.me (seg 1) true false (BitVec.ofNat 64 (4 * j)) 4 4 = .ok (4 * j)) ∧
    segCheck sL.me (seg 1) true false 0x10000 4 4 = .bad .segLimit 0x10000 := by unfold InOrder; decide +kernel
/-- A leaf that may be read and written, and a module whose port 0 knows it for page 0. -/
def leafRw : Leaf := { pa := 0x50000, large := false, x := false, w := true, rd := true, region := .coherent, cmask := BitVec.allOnes 12, dmask := BitVec.allOnes 8 }
def known (s : State) (l : Leaf) : State := { s with ports := [(0, { Port.fresh with base := [{ asid := 0, vpn := 0, leaf := l }] })] }
/-- The same leaf in the private region; an access to a coherent page; and a core whose L1D has not written back the byte at 0x50008 of a line, nor its
die's L2 the byte behind it. -/
def leafPriv : Leaf := { leafRw with region := .priv }
def accC (va size : Nat) (loc : Option Nat) : Access := { acc va size loc with region := .coherent }
def dirtyLine (loc v : Nat) : Line := ({ num := loc / 128, data := 0, dirty := 0 } : Line).put loc (BitVec.ofNat 8 v)
def cached (s : State) : State := { s with l1d := [(0, [dirtyLine 0x50008 5])], l2 := [(0, [dirtyLine 0x50009 6])] }
def opSt : Op := op .store .unconfirmed [acc 8 8 none]
def opLd : Op := op (.load 1 true) .unconfirmed [acc 8 8 none]
theorem witness_FenceAndLines : InOrder (with' sL (op (.load 1 true) .away [])) ∧ segCheck sL.me (seg 1) true false 128 1 1 = .ok 128 ∧
    segCheck sL.me (seg 2) true false 128 1 1 = .ok 128 ∧ segCheck sL.me (seg 1) true false 0x20000 1 1 = .bad .segLimit 0x20000 ∧
    (((known sL leafPriv).port 0).find 0 128 = some leafPriv ∧ ((known sL leafRw).port 0).find 0 128 = some leafRw ∧ leafPriv.region = .priv ∧ leafRw.region ≠ .priv) ∧
    ((seg 1).desc.extractLsb' 44 4).toNat = 1 ∧ ((seg 2).desc.extractLsb' 44 4).toNat ≠ 1 := by unfold InOrder; decide +kernel
theorem witness_TranslationConfirm : Calm (with' sL opSt) ∧ Calm (known (with' sL opLd) leafRw) ∧ (known (with' sL opSt) leafRw).me.ops = [opSt] ∧
    opSt.stage = .unconfirmed ∧ opSt.accs = [acc 8 8 none] ∧ opSt.what = .store ∧ opLd.what = .load 1 true ∧
    ((known (with' sL opSt) leafRw).port 0).find 0 8 = some leafRw ∧ leafRw.check 0 (some 0) false true = none ∧
    ((known (with' sL opSt) { leafRw with w := false }).port 0).find 0 8 = some { leafRw with w := false } ∧
    ({ leafRw with w := false } : Leaf).check 0 (some 0) false true = some .pageRights ∧
    ((with' sL opSt).port 0).find 0 8 = none ∧ (∀ w ∈ ((with' sL opSt).port 0).walks, w.failed = false) ∧ sL.me.tvec ≠ 0 ∧ sL.me.h = false := by
  unfold Calm; decide +kernel
theorem witness_PageChecks : leafRw.dmask.getLsbD 0 = true ∧ leafRw.cmask.getLsbD 3 = true ∧ ({ leafRw with dmask := 0 } : Leaf).dmask.getLsbD 0 = false ∧
    ({ leafRw with rd := false } : Leaf).rd = false ∧ ({ leafRw with region := .remote } : Leaf).region = .remote ∧
    leafRw.region ≠ .remote ∧ leafRw.region ≠ .readShared := by decide +kernel
theorem witness_LoadReturns : (let o := op (.load 1 true) .away [acc 8 8 (some 0x50008)];
      Calm (with' sL o) ∧ (with' sL o).me.ops = [o] ∧ o.stage = .away ∧ o.what = .load 1 true ∧ o.accs = [acc 8 8 (some 0x50008)] ∧
      (acc 8 8 (some 0x50008)).loc = some 0x50008 ∧ (acc 8 8 (some 0x50008)).size ∈ [1, 2, 4, 8] ∧
      (o.kind = 1 ∧ (acc 8 8 (some 0x50008)).region = .priv ∧ 0x50008 % 8 = 0) ∧
      (known (with' sL o) leafPriv).aliased 0x50008 8 .priv = false ∧ (known (with' sL o) leafRw).aliased 0x50008 8 .priv = true) ∧
    (let o := op (.load 1 true) .away [accC 8 8 (some 0x50008)]; Calm (with' sL o) ∧ o.accs = [accC 8 8 (some 0x50008)] ∧ (accC 8 8 (some 0x50008)).region ≠ .priv ∧
      (accC 8 8 (some 0x50008)).loc = some 0x50008 ∧ (accC 8 8 (some 0x50008)).size = 8) := by
  unfold Calm; decide +kernel
theorem witness_StorePerforms : (∀ a ∈ [acc 8 8 (some 0x50008), accC 8 8 (some 0x50008)], let o := op .store .waiting [a];
      Calm (with' sL o) ∧ Memory.wf (with' sL o).mem = true ∧ (with' sL o).me.ops = [o] ∧ o.accs = [a] ∧ a.loc = some 0x50008 ∧ a.size = 8 ∧
      (with' sL o).ringWait (with' sL o).me o = false ∧ o.stage = .waiting ∧ o.trappable = false ∧
      Calm (with' sL { o with stage := .away }) ∧ (with' sL { o with stage := .away }).ringWait (with' sL { o with stage := .away }).me { o with stage := .away } = false) ∧
    (op .store .waiting []).kind = 1 ∧ (acc 8 8 (some 0x50008)).region = .priv ∧ 0x50008 % 128 + 8 ≤ 128 ∧ 0 < 8 ∧ (accC 8 8 (some 0x50008)).region ≠ .priv := by
  unfold Calm; decide +kernel
theorem witness_LinePerforms : (∀ drop : Bool, ∀ a ∈ [acc 8 1 (some 0x50008), accC 8 1 (some 0x50008)], let o := op (.line drop) .away [a]
      let s := cached (with' sL o)
      Calm s ∧ Memory.wf s.mem = true ∧ s.me.ops = [o] ∧ o.what = .line drop ∧ o.accs = [a] ∧ a.loc = some 0x50008 ∧ s.ringWait s.me o = false ∧ o.stage = .away ∧
      (s.inL1 s.me.sa (0x50008 / 128)).isSome = true ∧ unwrittenAt s s.me.sa 0x50008 = some 5 ∧ unwrittenAt s s.me.sa 0x50009 = some 6 ∧
      unwrittenAt s s.me.sa 0x5000A = none) ∧
    (acc 8 1 (some 0x50008)).region = .priv ∧ (accC 8 1 (some 0x50008)).region ≠ .priv := by unfold Calm; decide +kernel
theorem witness_AtomicPerforms : (∀ a ∈ [acc 8 4 (some 0x50008), accC 8 4 (some 0x50008)],
      let o := op (.amo 1 .fadd 0 false) .away [a];
      Calm (with' sL o) ∧ Memory.wf (with' sL o).mem = true ∧ (with' sL o).me.ops = [o] ∧ o.what = .amo 1 .fadd 0 false ∧ o.accs = [a] ∧ a.loc = some 0x50008 ∧
      a.size ∈ [4, 8] ∧ a.data < 2 ^ (8 * a.size) ∧ 0 < 2 ^ (8 * a.size) ∧ a.size = 4 ∧ (with' sL o).ringWait (with' sL o).me o = false) ∧
    (op .store .away []).kind = 1 ∧ (acc 8 4 (some 0x50008)).region = .priv ∧ 0x50008 % 4 = 0 ∧ (accC 8 4 (some 0x50008)).region ≠ .priv := by unfold Calm; decide +kernel
theorem witness_FencesEnd : Calm (with' sL (op .marker .waiting [])) ∧ (op .marker .waiting []).what = .marker ∧
    Calm (with' sL (op .scFence .waiting [])) ∧ (op .scFence .waiting []).stage = .waiting := by unfold Calm; decide +kernel
/-- A walk of port 0 for the lean strand, reading a table at level 0, with an answer or without. -/
def walk0 (got : Option (Nat × Nat)) (running : Bool) : Walk :=
  { id := 4, who := .strand 0, acc := .read, asid := 0, root := 0x70000, va := 0x18, level := 0, table := 0x80000, running := running, restart := false
    req := none, failed := false, got := got }
def walking (w : Walk) : State := { on' sL (fun m => { m with xwait := some (0, 0) }) with ports := [(0, { Port.fresh with walks := [w] })] }
/-- The entry and companion word of a base-page leaf with R and W. -/
def leafWords : Nat × Nat := (0x5001B, 0xFFFFF)
theorem witness_WalkSteps : OnlyWalk (walking (walk0 none true)) 0 (walk0 none true) ∧ OnlyWalk (walking (walk0 (some leafWords) true)) 0 (walk0 (some leafWords) true) ∧
    (walk0 none true).running = true ∧ (walk0 none true).failed = false ∧ (walking (walk0 none true)).me.xwait = some (0, 0x18 / 2 ^ 16) ∧
    0x80000 + 8 * vaIndex 0 0x18 + 8 + 0x10000 ≤ 0xC000000000 ∧ 0xC000000000 < 0xC000000000 + 8 * vaIndex 0 0x18 + 8 ∧
    (match classify 0 leafWords.1 leafWords.2 with | .leaf l => !l.large | _ => false) = true ∧ classify 0 0 0 = .unmapped := by
  unfold OnlyWalk; decide +kernel
/-- The other ends of a walk: a table entry, one with the SVC bit, and one outside memory. -/
theorem witness_WalkEndCompletes : (∀ w ∈ ((walking (walk0 none true)).port 0).walks, ¬ (w.id = 5 ∧ w.running = true)) ∧
    EntryThere (walking (walk0 none true)) 0 0 0x80000 0x18 ∧ ¬ EntryThere (walking (walk0 none true)) 0 0 0xC000000000 0x18 ∧
    (let w := { walk0 (some (0x90001, 0)) true with level := 2 }
     OnlyWalk (walking w) 0 w ∧ classify 2 0x90001 0 = .table 0x90000 ∧ EntryThere (walking w) 0 1 0x90000 0x18) ∧
    classify 0 4 0 = .service ∧ (∀ pa, classify 0 4 0 ≠ .table pa) ∧ { walk0 (some (4, 0)) true with restart := true }.restart = true := by
  have h : classify 0 4 0 = .service := by decide +kernel
  refine ⟨?_, ?_, ?_, ?_, h, fun pa e => ?_, rfl⟩
  · decide +kernel
  · unfold EntryThere; decide +kernel
  · unfold EntryThere; decide +kernel
  · unfold EntryThere OnlyWalk; decide +kernel
  · rw [h] at e; cases e
theorem witness_PageEntries : (0 : BitVec 64).getLsbD 0 = false ∧ (4 : BitVec 64).getLsbD 2 = true ∧
    ((0x41 : BitVec 64).getLsbD 0 = true ∧ (0x41 : BitVec 64).extractLsb' 6 10 ≠ 0) ∧ ((0x50001 : BitVec 64).getLsbD 1 = false ∧ (0x50001 : BitVec 64).extractLsb' 48 16 = 0) ∧
    (0x5001B : BitVec 64).getLsbD 1 = true ∧ (match classify 0 leafWords.1 leafWords.2 with | .leaf _ => true | _ => false) = true := by decide +kernel
theorem witness_FaultServiceAndInvalidate : (let w := walk0 none false;
      let r : Req := { id := 2, entry := 0x80000, asid := 0, va := 0x18, acc := .read, joined := [(0, 4)] };
      let s := { walking w with dies := [(0, { Die.fresh with reqs := [r] })] };
      OnlyWalk s 0 w ∧ (s.die 0).reqs = [r] ∧ r.joined = [(0, w.id)] ∧ w.running = false ∧ w.failed = false ∧ w.who = .strand s.me.sa ∧
      s.me.xwait = some (w.asid, w.va / 2 ^ 16)) := by unfold OnlyWalk; decide +kernel

/-! ### Witnesses: channels, barriers and mail -/

/-- A troupe whose vcore 0 sends on port 1 to its own port 2, with a barrier 3 of vcores 0 and 1, its arrivals counted or not. -/
def tC (arrived : List Nat) (target : Tab (BitVec 16)) : Troupe := { troupe 0 with
  binds := [{ src := 0, srcPort := 1, dst := 0, dstPort := 2 }]
  bars := [(3, { members := [0, 1], gen := 0, arrived := arrived, target := target, seen := [] })] }
def barOf (arrived : List Nat) (target : Tab (BitVec 16)) : Barrier := { members := [0, 1], gen := 0, arrived := arrived, target := target, seen := [] }
def entry : PortEntry := { vec := false, data := 3, taken := none }
theorem witness_ChannelSend : (let s := sT (tC [] []);
      s.me.kind ≠ .sm ∧ s.outBind s.me 1 = some { src := 0, srcPort := 1, dst := 0, dstPort := 2 } ∧ s.me.credits[1] ≠ 0 ∧
      (on' s (fun m => { m with credits := Vector.replicate 8 0 })).me.credits[1] = 0 ∧ s.outBind s.me 4 = none) := by decide +kernel
theorem witness_ChannelReceive : (let s := on' (sT (tC [] [])) (fun m => { m with inPorts := m.inPorts.set 2 [entry] });
      s.me.kind ≠ .sm ∧ s.me.ops = [] ∧ (∀ e ∈ s.me.inbox, e.taken = none) ∧ (∀ i : Fin 8, ∀ e ∈ s.me.inPorts[i], e.taken = none) ∧
      s.inBind s.me 2 = some { src := 0, srcPort := 1, dst := 0, dstPort := 2 } ∧ s.me.inPorts[2] = [entry] ∧
      (sT (tC [] [])).me.inPorts[2] = [] ∧ (sT (tC [] [])).inBind (sT (tC [] [])).me 2 = s.inBind s.me 2) := by decide +kernel
theorem witness_ChannelStatusAndInbox : (let s := sT (tC [] []);
      s.me.ops = [] ∧ (∀ e ∈ s.me.inbox, e.taken = none) ∧ (∀ i : Fin 8, ∀ e ∈ s.me.inPorts[i], e.taken = none) ∧ s.me.kind ≠ .sm ∧ s.inBind s.me 5 = none ∧
      s.barrier? s.me.troupe 5 = none ∧ s.barrier? s.me.troupe 3 = some (barOf [] []) ∧ (barOf [] []).genAt 0 - 0 = (0 : BitVec 16) ∧
      2 ^ 15 ≤ ((barOf [] []).genAt 0 - (1 : BitVec 16)).toNat ∧ s.troupe? s.me.troupe = some (tC [] []) ∧ (tC [] []).barHome (barOf [] []) = saPkg s.me.sa ∧
      s.me.inbox = [] ∧ (on' s (fun m => { m with inbox := [{ data := 1, taken := none }] })).me.inbox = [{ data := 1, taken := none }]) := by decide +kernel
theorem witness_StageManagerIllegal : sM.me.kind = .sm := by decide +kernel
/-- The home is cluster 0 where the members sit; seen from cluster 1 it is another cluster. -/
theorem witness_BarrierArrive : (let s := sT (tC [] []);
      s.me.kind ≠ .sm ∧ s.me.ops = [] ∧ s.troupe? s.me.troupe = some (tC [] []) ∧ s.barrier? s.me.troupe 3 = some (barOf [] []) ∧ s.me.vcid ∈ (barOf [] []).members ∧
      (barOf [] []).mustWait 0 0 = false ∧ (barOf [0] [(0, 1)]).mustWait 0 0 = true ∧
      (sT (tC [0] [(0, 1)])).barrier? (sT (tC [0] [(0, 1)])).me.troupe 3 = some (barOf [0] [(0, 1)]) ∧
      (tC [] []).barHome (barOf [] []) ≠ saPkg (on' s (fun m => { m with sa := mkSa 0 1 0 0 })).me.sa) := by decide +kernel
theorem witness_BarrierEvents : Calm (with' sL (op (.barArrive 1 3 false 1) .away [])) ∧ Calm (with' (sT (tC [] [])) (op (.barStat 1 3 0) .away [])) ∧
    (with' (sT (tC [] [])) (op (.barStat 1 3 0) .waiting [])).barrier? 1 3 = some (barOf [] []) ∧
    (sT (tC [] [])).troupe? 1 = some (tC [] []) ∧ Tab.get? (tC [] []).bars 3 = some (barOf [] []) ∧ (barOf [] []).members ≠ [] ∧ 0 ∈ (barOf [] []).members ∧
    0 ∉ (barOf [] []).arrived ∧ (barOf [] []).arrived.length + 1 < (barOf [] []).members.length ∧
    0 ∉ (barOf [1] []).arrived ∧ (barOf [1] []).members.length ≤ (barOf [1] []).arrived.length + 1 := by unfold Calm; decide +kernel
theorem witness_MailArrivals : (let s := sT (troupe 0);
      Seated s (troupe 0) ∧ 0 < s.me.troupe ∧ s.me.inbox.length < 16 ∧ memRead s.mem ((troupe 0).spill 0) 8 = memRead s.mem ((troupe 0).spill 0 + 8) 8 ∧
      memRead (memWrite s.mem ((troupe 0).spill 0 + 8) 8 1) ((troupe 0).spill 0) 8 ≠ memRead (memWrite s.mem ((troupe 0).spill 0 + 8) 8 1) ((troupe 0).spill 0 + 8) 8 ∧
      Memory.wf (memWrite s.mem ((troupe 0).spill 0 + 8) 8 1) = true ∧ (troupe 0).live 7 = false ∧ 1 ≠ s.me.sa ∧
      memRead s.mem ((troupe 0).spill 0 + 0x10 + 7) 1 = 0 ∧ s.ringFull (troupe 0) s.me.troupe s.me.vcid = false ∧ s.portsSpilled ((troupe 0).spill 0) = false ∧
      memRead (memWrite s.mem ((troupe 0).spill 0 + 0x10 + 7) 1 7) ((troupe 0).spill 0 + 0x10 + 7) 1 = 7) := by unfold Seated; decide +kernel


/-! ### Witnesses: system instructions, contexts and fatal faults -/

theorem witness_PrivilegeGate : sU.me.system = false ∧ (sM.me.system = true ∧ sM.me.kind = .sm) ∧ (sH.me.system = true ∧ sH.me.kind ≠ .sm) := by decide +kernel
/-- Registers with values. -/
def rs (s : State) (l : List (Nat × Nat)) : State := on' s (fun m => { m with regs := l.foldl (fun v p => v.set! p.1 (BitVec.ofNat 64 p.2)) m.regs })
/-- The base and descriptor words of a SETSEG, and a strand of another troupe whose segment lies over the core's bytes. -/
def pairOf (s : State) (base desc : Nat) : State := rs s [(1, base), (2, desc)]
def lodged (s : State) : State := { on' s (fun m => { m with troupe := 1 }) with
  others := [(1, { strand .lean with sa := 1, troupe := 2 })]
  troupes := [(1, { troupe 0 with homes := [(0, 0)] }), (2, { troupe 0 with place := [(0, 1)], homes := [(0, 0)] })] }
/-- A reserved bit, KIND 5, the last byte of shared memory and one byte more, and a range that another troupe holds or does not. -/
theorem witness_SegmentRegisters : sL.me.system = true ∧ ((pairOf sL 0 (2 ^ 50)).me.getS 2).extractLsb' 49 15 ≠ 0 ∧
    4 < (((pairOf sL 0 (5 * 2 ^ 44)).me.getS 2).extractLsb' 44 4).toNat ∧
    (let s := pairOf sL 0x1FFFF (2 * 2 ^ 44 + 2); (s.me.getS 2).extractLsb' 49 15 = 0 ∧ 128 * 1024 < (s.me.getS 1).toNat + ((s.me.getS 2).extractLsb' 0 41).toNat) ∧
    (let s := lodged (pairOf sL 0x100 (2 * 2 ^ 44 + 16)); s.rangeClash 0 1 (kind2 [{ base := s.me.getS 1, desc := s.me.getS 2 }]) = true) ∧
    (let s := lodged (pairOf sL 0x10000 (2 * 2 ^ 44 + 16)); s.rangeClash 0 1 (kind2 [{ base := s.me.getS 1, desc := s.me.getS 2 }]) = false ∧
      s.homeOf s.me = 0 ∧ s.me.sa - saSlot s.me.sa = 0) := by decide +kernel
theorem witness_TlbInvalidate : sL.me.system = true ∧ Calm (with' sL (op (.tlbinv .all) .away [])) ∧ (op (.tlbinv .all) .away []).what = .tlbinv .all := by
  unfold Calm; decide +kernel
/-- A parked strand of troupe 1 with a deadline. -/
def parked (dl : Nat) : State := { on' (sT (troupe 0)) (fun m => { m with run := .parked, parkDl := dl, parkDst := 3 }) with cycle := 90 }
theorem witness_ParkAndWake : sL.me.system = true ∧ sL.me.kind ≠ .sm ∧ (sL.me.token = false ∧ sL.me.parkAgain = false) ∧
    (on' sL (fun m => { m with token := true })).me.token = true ∧ (sL.cycle ≤ (sL.me.getS 1).toNat ∧ sL.me.getS 1 ≠ 0) ∧
    ((parked 90).me.run = .parked ∧ (parked 90).me.parkDl ≠ 0 ∧ (parked 90).me.parkDl ≤ (parked 90).cycle) ∧
    (Seated (parked 0) (troupe 0) ∧ (parked 0).earlierEvent (parked 0).me = false ∧ (parked 0).me.swap = none) ∧
    (Seated (sT (troupe 0)) (troupe 0) ∧ (sT (troupe 0)).me.run ≠ .parked) ∧
    (let s := on' (parked 0) (fun m => { m with dbg := { m.dbg with claimed := true, stopReq := some 1 } }); Seated s (troupe 0) ∧ s.earlierEvent s.me = true) ∧
    (Tab.get? (troupe 0).place 1 = none ∧ Tab.get? (troupe 0).place 0 ≠ none ∧ (sT (troupe 0)).me.getS 1 = 1 ∧ (sT (troupe 0)).me.getS 0 = 0) := by
  unfold Seated; decide +kernel
/-- The stage manager of die 0, with or without the lean strand 0 beside it. -/
def sMd : State := on' sM (fun m => { m with sa := mkSa 0 15 63 0 })
def sMv (m : Strand) : State := { sMd with others := [(0, m)], troupes := [(1, troupe 0)] }
theorem witness_ParkAndWake_strand : sMd.me.system = true ∧ sMd.me.kind = .sm ∧ sMd.strand? 0 = none ∧
    (sMv { strand .lean with run := .vacant }).strand? 0 = some { strand .lean with run := .vacant } ∧
    (sMv (strand .lean)).strand? 0 = some (strand .lean) ∧ (strand .lean).run ≠ .vacant ∧ (strand .lean).kind ≠ .sm ∧ sMd.me.getS 0 = 0 := by decide +kernel
theorem witness_ContextInstructions : sMd.me.system = true ∧ sMd.me.kind = .sm ∧
    segCheck sMd.me (seg 1) true false 64 1536 1 = .ok 64 ∧ (64 : Nat) % 64 = 0 ∧ segCheck sMd.me (seg 1) true false 3 1536 1 = .ok 3 ∧ (3 : Nat) % 64 ≠ 0 ∧
    segCheck sMd.me (seg 1) true false 0xFA01 1536 1 = .bad .segLimit 0xFA01 ∧ ((seg 1).desc.extractLsb' 44 4).toNat = 1 ∧
    ((seg 4).desc.extractLsb' 44 4).toNat ≠ 1 ∧ sMd.slotAt (2 ^ 18) = none ∧
    (sMv (strand .lean)).slotAt 0 = some (strand .lean) ∧ (strand .lean).occupied = true ∧ (strand .lean).sa = 0 ∧ 0 ≠ sMd.me.sa ∧
    (sMv { strand .lean with run := .vacant }).slotAt 0 = some { strand .lean with run := .vacant } ∧ ({ strand .lean with run := .vacant } : Strand).occupied = false := by
  decide +kernel
/-- A transfer of the context of vcore 0 of troupe 1 at its memory, the context being resident, unknown, switched out, or named by the image. -/
def ctxOp (load : Bool) (cid : Nat) : Op := op (.context 3 load cid) .away [acc 0x700000 1536 (some 0x700000)]
def gone : Troupe := { troupe 0 with out := [0] }
def moving (load : Bool) (troupes : Tab Troupe) : State := { with' sMd (ctxOp load (2 ^ 32)) with troupes := troupes }
theorem witness_ContextResults : (let s := moving false []; Calm s ∧ Memory.wf s.mem = true ∧ s.me.ops = [ctxOp false (2 ^ 32)] ∧
      (ctxOp false (2 ^ 32)).accs = [acc 0x700000 1536 (some 0x700000)] ∧ (ctxOp false (2 ^ 32)).kind = 1 ∧ (acc 0x700000 1536 (some 0x700000)).region = .priv ∧
      (accC 0x700000 1536 (some 0x700000)).region ≠ .priv ∧ (ctxOp false (2 ^ 32)).what = .context 3 false (2 ^ 32) ∧ s.residentCid (2 ^ 32) = false ∧ s.knownCid (2 ^ 32) = false) ∧
    (let s := { moving false [(1, troupe 0)] with others := [(0, { strand .lean with troupe := 1 })] }; s.residentCid (2 ^ 32) = true) ∧
    (let s := moving false [(1, gone)]; s.residentCid (2 ^ 32) = false ∧ s.knownCid (2 ^ 32) = true ∧ (s.vcoreRecord (2 ^ 32 / 2 ^ 32) (2 ^ 32 % 2 ^ 32)).length = 1536) ∧
    (let s := { moving true [(1, gone)] with mem := memWrite [] 0x700004 4 1 }
     memRead s.mem (0x700000 + 4) 4 * 2 ^ 32 + memRead s.mem 0x700000 4 = 2 ^ 32 ∧ s.residentCid (2 ^ 32) = false ∧ s.knownCid (2 ^ 32) = true) := by
  unfold Calm; decide +kernel
/-- A request of the stage manager that holds a slot, and its operation. -/
def swapReq (cid : Option Nat) (saving : Bool) : SwapReq := { issuer := mkSa 0 15 63 0, q := 0, cid := cid, saving := saving }
def swapOp (target cid : Nat) : Op := op (.slotswap 3 target cid) .away []
theorem witness_SlotSwapEvents_arrival : (with' sMd (swapOp (2 ^ 18) 5)).slotAt (2 ^ 18) = none ∧ (with' sMd (swapOp (2 ^ 18) 5)).me.sa < 2 ^ 18 ∧
    (let s := with' (sMv { strand .lean with troupe := 1 }) (swapOp 0 (2 ^ 64 - 1))
     s.me.ops = [swapOp 0 (2 ^ 64 - 1)] ∧ (swapOp 0 (2 ^ 64 - 1)).what = .slotswap 3 0 (2 ^ 64 - 1) ∧ 0 ≠ s.me.sa ∧
     ∃ m, s.slotAt 0 = some m ∧ m.sa = 0 ∧ m.real = true ∧ m.swap = none ∧ m.enabled = true ∧ m.dbg.stopped = false) := by
  refine ⟨by decide +kernel, by decide +kernel, by decide +kernel, by decide +kernel, by decide +kernel, { strand .lean with troupe := 1 }, ?_⟩
  decide +kernel
theorem witness_SlotSwapEvents : (let s := on' (sT (troupe 0)) (fun m => { m with swap := some (swapReq none false) });
      s.me.swap = some (swapReq none false) ∧ s.me.run ≠ .vacant ∧ s.troupe? s.me.troupe = some (troupe 0) ∧ s.me.dbg.stopped = false ∧ s.earlierEvent s.me = false ∧
      s.drained s.me = true ∧ mkSa 0 15 63 0 < 2 ^ 18 ∧ mkSa 0 15 63 0 ≠ s.me.sa ∧ s.me.kind = .lean ∧ s.me.inbox = [] ∧ (∀ i : Fin 8, s.me.inPorts[i] = []) ∧
      (s.cluster (saPkg s.me.sa)).tcc = []) ∧
    (let s := on' (sT gone) (fun m => { m with swap := some (swapReq (some (2 ^ 32)) false), run := .vacant, troupe := 0 });
      s.me.swap = some (swapReq (some (2 ^ 32)) false) ∧ s.troupe? (2 ^ 32 / 2 ^ 32) = some gone ∧ s.me.kind = .lean ∧ s.lostCtx = [] ∧
      ∀ k ∈ gone.tasks, k.2.worker = some (2 ^ 32 % 2 ^ 32) → k.2.state ≠ .running) := by decide +kernel
theorem witness_ContextRoundTrip : (strand .lean).vcid < 2 ^ 32 ∧ (strand .lean).troupe < 2 ^ 32 ∧ (strand .lean).asid < 2 ^ 32 ∧
    (∀ i : Fin 8, (strand .lean).credits[i] < 16) ∧ (strand .lean).tvec.extractLsb' 0 2 = 0 ∧ (strand .lean).trapInfo = 0 ∧
    (let m := { strand .lean with segs := #v[seg 1, seg 0, seg 3, seg 4, seg 1, seg 1, seg 1, seg 1] }; ∀ g ∈ m.codeSeg :: m.trapSeg :: m.segs.toList, g.valid = true) := by decide +kernel
/-- Vcore 0, whose home is core 1 and which moves to core 2, holds 64 KiB of shared memory. -/
theorem witness_ScratchpadsAndHalt : (let t := { troupe 0 with homes := [(0, mkSa 0 0 1 0)] };
      let s := on' (sT t) (fun m => { m with segs := #v[seg 0, seg 1, seg 2, seg 3, seg 4, seg 1, seg 1, seg 1] });
      Memory.wf s.mem = true ∧ s.troupe? 1 = some t ∧ t.live 0 = true ∧ Tab.get? t.homes 0 = some (mkSa 0 0 1 0) ∧
      mkSa 0 0 1 0 ≠ mkSa (pcDie (2 / 64)) (pcIndex (2 / 64)) (2 % 64) 0 ∧ kind2 (s.vcoreSegs 1 0) = [(0, 2 ^ 16)]) ∧
    (let s := { sL with clusters := [(0, { Cluster.fresh with clearing := [(5, 8, 64)] })] };
      (s.cluster (5 / 64)).clearing = [(5 % 64, 8, 64)] ∧ s.troupes = []) ∧
    (sL.me.system = true ∧ sL.me.kind ≠ .sm ∧ sL.me.ops = [] ∧ sL.me.held = [] ∧ sL.me.mq = [] ∧ sL.me.task = none) ∧ (with' sL opLd).me.ops ≠ [] := by decide +kernel
/-- The record of a fatal report. -/
def frec : FaultRec := { cycle := 3, pc := 4, addr := 9, vcid := 0, sa := 0, info := 0, cause := 1, reason := 1 }
def ended : Troupe := { troupe 0 with ending := true, faults := [frec] }
theorem witness_FatalEnd : (let t := { troupe 0 with reports := [frec] };
      (sT t).troupe? 1 = some t ∧ t.reports = [frec] ∧ t.ending = false ∧ ((sT t).die (saDie t.launcher)).hold = false ∧ ((sT t).die (saDie t.launcher)).dumps = []) ∧
    ({ ended with reports := [frec] } : Troupe).ending = true ∧
    (let s := on' (sT ended) (fun m => { m with run := .vacant });
      s.troupe? 1 = some ended ∧ (s.die (saDie ended.launcher)).hold = false ∧ s.toVacate 1 = [] ∧ (∀ m ∈ s.strands, m.swap = none) ∧ Listed s ∧ Memory.wf s.mem = true ∧
      ended.field 0x0F0 8 + ended.field 0x0F8 8 ≤ ended.field 0x130 8 ∧ 0x200 ≤ ended.field 0x0F8 8 ∧ ended.quietRecs = []) ∧
    ((sT ended).toVacate 1 = [(sT ended).me] ∧ (sT ended).vacating (sT ended).me = false) ∧
    (({ sT ended with dies := [(0, { Die.fresh with hold := true })] } : State).die 0).hold = true ∧ saDie ended.launcher = 0 ∧ (sT ended).troupe? 0 = none := by
  unfold Listed; decide +kernel
theorem witness_QuiescenceReport : (let t := { troupe 1 with quiet := 65536 };
      (sT t).troupe? 1 = some t ∧ 65536 ≤ t.quiet) ∧ (troupe 1).quiet < 65536 ∧
    (let s := on' (sT (troupe 1)) (fun m => { m with run := .parked });
      s.troupe? 1 = some (troupe 1) ∧ (s.die (saDie (troupe 1).launcher)).quiescent.length < 64 ∧ s.others = [] ∧ s.me.troupe = 1 ∧ s.me.run = .parked ∧ s.me.kind ≠ .sm ∧
      Memory.wf s.mem = true ∧ 0x200 + 1536 * (troupe 1).place.length + 16 ≤ (troupe 1).field 0x0F8 8) ∧
    64 ≤ (({ sT (troupe 1) with dies := [(0, { Die.fresh with quiescent := List.replicate 64 9 })] } : State).die 0).quiescent.length := by decide +kernel

/-! ### Witnesses: shipped instructions -/

theorem witness_Ships : sH.me.kind = .heavy ∧ sH.me.kind ≠ .sm ∧ sL.me.kind = .lean ∧ sL.me.kind ≠ .sm ∧ sL.shipTarget (saPkg sL.me.sa) = some 0 ∧
    ({ sL with shipMap := [(0, 0)] } : State).shipTarget (saPkg sL.me.sa) = none ∧
    firstEnabled sH.me.fctl 0x10 = none ∧ firstEnabled (on' sH (fun m => { m with fctl := 0xF8 })).me.fctl 0x10 ≠ none := by decide +kernel
/-- A guest of the current strand's first operation, and a module whose cluster 0 stands so at cycle 48 or 49. -/
def guest (wide : Bool) : Guest := { sa := 0, q := 0, prio := 0, entered := 48, latency := 12, wide := wide, net := 30 }
def inCluster (s : State) (c : Cluster) (cycle : Nat) : State := { s with clusters := [(0, c)], cycle := cycle }
/-- A shipped instruction's answer. -/
def answer (trap : Option (Cause × Word)) : ShipResult := { data := 77, mask := BitVec.allOnes 512, cond := 5, trap := trap, lanes := 1, core := 27, sets := true }
theorem witness_ShipEvents : (let s := inCluster sL { Cluster.fresh with guestIn := [guest false] } 48;
      (s.cluster 0).guestIn = [guest false] ∧ (guest false).entered ≤ s.cycle ∧ (s.cluster 0).guestQ.length < 256 ∧ s.shipTarget (saPkg (guest false).sa) = some 0) ∧
    (({ sL with shipMap := [(0, 0x93)] } : State).shipTarget 0 = some (pkgCluster 1 3) ∧ pkgCluster 1 3 ≠ 0) ∧ (4 : BitVec 5).toNat ≤ 16 ∧ (16 : BitVec 5).toNat ≤ 16 ∧
    (∀ w, let s := inCluster sL { Cluster.fresh with guestQ := [guest w] } 48;
      (s.cluster 0).guestQ = [guest w] ∧ (guest w).entered = s.cycle ∧ (s.cluster 0).blackout = none ∧ (s.cluster 0).guestIn = [] ∧ (s.cluster 0).wide.length < 4 ∧
      guestCycle 16 s.cycle = true ∧ guestCycle 0 s.cycle = false ∧ (guest w).wide = w) ∧
    (let o := op (.ship (.s 3) (answer none)) .away []; Calm (with' sL o) ∧ (with' sL o).me.ops = [o] ∧ o.stage = .away ∧ (answer none).trap = none) ∧
    (op (.ship (.v 3) (answer none)) .away []).what = .ship (.v 3) (answer none) ∧ (answer (some (.fpInexact, 16))).trap = some (.fpInexact, 16) ∧
    sL.me.tvec ≠ 0 ∧ sL.me.h = false ∧ (2 : BitVec 8).getLsbD 7 = false ∧ (0x82 : BitVec 8).getLsbD 7 = true := by unfold Calm; decide +kernel
theorem witness_WideAtomicIssue : segCheck sL.me (seg 1) true true 16 16 16 = .ok 16 ∧ segCheck sL.me (seg 1) true true 8 16 16 = .bad .misaligned 8 ∧
    segCheck sL.me (seg 2) true true 16 8 8 = .ok 16 ∧ ((seg 2).desc.extractLsb' 44 4).toNat ≠ 1 ∧ ((seg 1).desc.extractLsb' 44 4).toNat = 1 ∧
    ((known sL leafPriv).port sL.me.port).find sL.me.asid 16 = some leafPriv ∧ leafPriv.region = .priv ∧ leafRw.region ≠ .priv ∧
    sH.wideFull (saPkg sH.me.sa) = false ∧
    (inCluster sH { Cluster.fresh with wide := List.replicate 4 (guest true) } 48).wideFull (saPkg sH.me.sa) = true := by decide +kernel
/-- A wide atomic on the bytes at 0x50010, before its translation, away, and answered. -/
def wideOp (w : WideOp) (size : Nat) (stage : Stage) (res : Option WideRes) : Op := { op (.wide 2 w 7 0 res) stage [acc 0x50010 size (if stage = .away then some 0x50010 else none)] with
  dsts := if size = 16 then [.s 2, .s 3] else [.s 2] }
def atUnit (o : Op) : State := inCluster (with' sL o) { Cluster.fresh with wide := [guest true] } 48
def known5 (s : State) (l : Leaf) : State := { s with ports := [(0, { Port.fresh with base := [{ asid := 0, vpn := 5, leaf := l }] })] }
theorem witness_WideAtomicUnit_translate : (let o := wideOp .cas128 16 .unconfirmed none;
      Calm (atUnit o) ∧ Memory.wf (atUnit o).mem = true ∧ (atUnit o).me.ops = [o] ∧ o.accs = [acc 0x50010 16 none] ∧ (2 : SReg).toNat % 2 = 0 ∧
      ((atUnit o).cluster 0).wide = [guest true] ∧ (guest true).sa = (atUnit o).me.sa ∧ (guest true).q = o.q ∧ o.dsts.length = 2 ∧ o.stage = .unconfirmed ∧ o.ord ≠ 3 ∧
      ((known5 (atUnit o) leafRw).port 0).find 0 0x50010 = some leafRw ∧ ((atUnit o).port 0).find 0 0x50010 = none) ∧
    leafRw.check (portDie 0) (portCluster 0) true true = none ∧
    ({ leafRw with w := false } : Leaf).check (portDie 0) (portCluster 0) true true = some .pageRights := by unfold Calm; decide +kernel
theorem witness_WideAtomicUnit : (let o := wideOp .fadd 8 .away none; Calm (atUnit o) ∧ o.stage = .away ∧ o.dsts.length = 1 ∧
      (acc 0x50010 8 (some 0x50010)).loc = some 0x50010 ∧ (acc 0x50010 8 (some 0x50010)).region = .priv ∧ (accC 0x50010 8 (some 0x50010)).region ≠ .priv ∧
      0x50010 % 8 = 0 ∧ (atUnit o).aliased 0x50010 8 .priv = false) ∧
    (let o := { wideOp .swap128 16 .away none with trappable := true }; Calm (atUnit o) ∧ o.trappable = true) ∧
    (let o := wideOp .swap128 16 .away (some (.old 9)); Calm (atUnit o) ∧ o.what = .wide 2 .swap128 7 0 (some (.old 9)) ∧ o.trappable = false) ∧
    (let o := wideOp .fmin 8 .away (some (.failed .pageRights 0x50010 0)); Calm (atUnit o) ∧ o.what = .wide 2 .fmin 7 0 (some (.failed .pageRights 0x50010 0))) ∧
    sL.me.tvec ≠ 0 ∧ sL.me.h = false := by unfold Calm; refine ⟨?_, ?_, ?_, ?_⟩ <;> decide +kernel

/-! ### Witnesses: the matrix unit -/

/-- A ring of SIZE `size` and `slots` slots from `base`, with its counts; the heavy strand 0 of cluster 0 at cycle 100 with rings 0, 1 and 8. -/
def ringOf (size slots base head tail claim : Nat) : Ring := { cfg := BitVec.ofNat 64 (size * 2 ^ 40 + slots * 2 ^ 32 + base), head := BitVec.ofNat 32 head,
                                                               tail := BitVec.ofNat 32 tail, claim := BitVec.ofNat 32 claim, reserved := BitVec.ofNat 32 tail }
def sA : State := { on' sH (fun m => { m with sa := mkSa 0 0 48 0, segs := #v[seg 1, seg 3, seg 2, seg 4, seg 1, seg 1, seg 1, seg 1],
                                              rings := ((m.rings.set 0 (ringOf 4 4 0 0 2 0)).set 1 (ringOf 2 1 0x300000 0 1 0)).set 8 (ringOf 4 1 0 0 0 0) }) with cycle := 100 }
def matOp (w : MatWhat) : MatOp :=
  { q := 0, what := w, entered := some 3, started := none, ends := none, pops := [], conds := 0, row := 0, status := 0, pieces := [] }
def inQueue (s : State) (o : MatOp) : State := on' s (fun m => { m with mq := [o] })
/-- Ring 0 has 4 slots of 512 KiB, ring 1 one of 128 KiB, ring 8 one of 512 KiB and the others none. Rows of 1 KiB, and those that leave 256 rows. -/
theorem witness_MatrixIssue : sL.me.kind ≠ .heavy ∧ sA.me.kind = .heavy ∧ (7 : BitVec 4).toNat ≤ 10 ∧ (10 : BitVec 4).toNat ≤ 10 ∧ ringSlots sA.me 2 = 0 ∧
    (ringSlots sA.me 1 ≠ 0 ∧ slotBytes sA.me 1 < (tiles 10).1) ∧ (ringSlots sA.me 8 = 1 ∧ max (tiles 7).1 (tiles 7).2 ≤ slotBytes sA.me 8) ∧
    ((∀ r ∈ [(0 : RingIx), 1], ringSlots sA.me r ≠ 0) ∧ (0 : RingIx) ≠ 1 ∧ (tiles 7).1 ≤ slotBytes sA.me 0 ∧ (tiles 7).2 ≤ slotBytes sA.me 1) ∧
    sA.me.mq.length < 8 ∧ (on' sA (fun m => { m with mq := List.replicate 8 (matOp (.mzero 1)) })).me.mq.length = 8 ∧
    ((seg 1).desc.extractLsb' 44 4).toNat = 1 ∧ ((seg 3).desc.extractLsb' 44 4).toNat ≠ 1 ∧ segCheck sA.me (seg 3) true false 8 40 8 = .ok 8 ∧
    segCheck sA.me (seg 3) true false 4 40 8 = .bad .misaligned 4 ∧
    (let v := (rs sA [(2, 3 * 2 ^ 40 + 252 * 2 ^ 32 + 2048)]).me.getS 2;
      (v.extractLsb' 0 32).toNat % 64 = 0 ∧ 1024 ≤ (v.extractLsb' 0 32).toNat ∧ (v.extractLsb' 32 8).toNat + ((v.extractLsb' 40 8).toNat + 1) ≤ 256) ∧
    (let v := (rs sA [(2, 3 * 2 ^ 40 + 253 * 2 ^ 32 + 2048)]).me.getS 2; 256 < (v.extractLsb' 32 8).toNat + ((v.extractLsb' 40 8).toNat + 1)) ∧
    segCheck sA.me (seg 3) false true 64 (3 * 2048 + 1024) 64 = .ok 64 ∧ segCheck sA.me (seg 3) true false 0xF000 (3 * 2048 + 1024) 64 = .bad .segLimit 0xF000 ∧
    sA.me.mq.length ≤ (0 : BitVec 4).toNat ∧ (0 : BitVec 4).toNat < (inQueue sA (matOp (.mzero 1))).me.mq.length := by decide +kernel
theorem witness_RingsAndMstat : sA.me.kind = .heavy ∧ sA.me.mq = [] ∧ sA.me.rings[0].reserved = sA.me.rings[0].tail ∧
    (let v : Word := 4 * 2 ^ 40 + 4 * 2 ^ 32; v.extractLsb' 44 20 = 0 ∧ v.extractLsb' 24 8 = 0 ∧ (v.extractLsb' 40 4).toNat ≤ 4 ∧ (v.extractLsb' 32 8).toNat ≤ 64 ∧
      (v.extractLsb' 0 24).toNat % 256 = 0 ∧ (v.extractLsb' 0 24).toNat + 4 * (2 ^ 19 + 256) ≤ 2 ^ 24) ∧
    (1 : Word).extractLsb' 0 24 = 1 ∧ (inQueue sA (matOp (.mzero 1))).me.mq ≠ [] ∧ ringSlots sA.me 2 = 0 ∧ ringSlots sA.me 0 = 4 ∧
    (sA.me.rings[0].tail - sA.me.rings[0].head).toNat = 2 ∧ sA.me.mq.length < 16 := by decide +kernel
theorem witness_MatrixStart : OnArray (inQueue sA { matOp (.mzero 1) with entered := none }) 0 ∧ OnArray (inQueue sA (matOp (.mzero 1))) 0 ∧
    (let o := matOp (.mma 1 0 1 7 false true false); OnArray (inQueue sA o) 0 ∧ o.started = none ∧ o.ends = none ∧ o.entered.isSome ∧ (0 : RingIx) ≠ 1 ∧
      (inQueue sA o).me.rings[0].tail ≠ (inQueue sA o).me.rings[0].claim ∧ (inQueue sA o).me.rings[1].tail ≠ (inQueue sA o).me.rings[1].claim) := by
  unfold OnArray; decide +kernel
theorem witness_IntegerCells : (2 ^ 32 - 1 : Nat) < 2 ^ 32 := by decide +kernel
/-- Operations at their ends: an MMA, a MACCST whose row has its place, one whose message has no room, a MACCLD and a MACCST whose walk failed. -/
def ending (w : MatWhat) : MatOp := { matOp w with started := some 1, ends := some 90 }
def fullMail (s : State) : State := { on' s (fun m => { m with troupe := 1 }) with troupes := [(1, troupe 0)], mem := memWrite [] ((troupe 0).spill 0 + 8) 8 4096 }
theorem witness_MatrixRetires : (let o := { ending (.mma 1 0 1 7 false false false) with pops := [(0, 1), (1, 0)] };
      OnArray (inQueue sA o) 0 ∧ o.ends = some 90 ∧ 90 ≤ (inQueue sA o).cycle ∧ o.what.store = false ∧ (0 : RingIx) ≠ 1) ∧
    ((2 ^ 49 - 2048) % 4 = 0 ∧ (∀ d ∈ sA.dies, d.2.watches = []) ∧ ((seg 1).desc.extractLsb' 44 4).toNat = 1 ∧ (Seg.null.desc.extractLsb' 44 4).toNat ≠ 1) ∧
    (∀ x ∈ [(seg 1, Region.priv), (seg 1, .coherent), (Seg.null, .coherent)],
      let o := { ending (.maccst 1 x.1 0 1024 2 1 0 5) with pieces := [{ row := 0, off := 0, loc := 2 ^ 49 - 2048, len := 1024, region := x.2 }] };
      o.what = .maccst 1 x.1 0 1024 2 1 0 5 ∧ o.pieces = [{ row := 0, off := 0, loc := 2 ^ 49 - 2048, len := 1024, region := x.2 }] ∧ o.conds = 0 ∧ o.pops = [] ∧ o.status = 0 ∧ (inQueue sA o).mailFull 0 0 = false ∧ 2 ^ 49 - 2048 + 1024 ≤ 2 ^ 49 ∧ Memory.wf (inQueue sA o).mem = true ∧
      (fullMail (inQueue sA o)).mailFull 1 0 = true) ∧
    (let o := matOp (.maccld 1 (seg 3) 0x100 1024 2 1 0); o.entered.isSome ∧ o.started = none ∧ (inQueue sA o).me.ops = [] ∧ (seg 3).desc.extractLsb' 44 4 = 3) ∧
    (let o := { matOp (.maccst 1 (seg 1) 0x100 1024 2 2 0 5) with started := some 20 };
      let w := { walk0 none false with who := .matrix 0, va := 0x100, failed := true };
      let s := { inQueue sA o with ports := [(0, { Port.fresh with walks := [w] })] };
      o.row < 2 ∧ (seg 1).desc.extractLsb' 44 4 = 1 ∧ (s.port s.me.port).find s.me.asid 0x100 = none ∧ (s.port s.me.port).failedFor (.matrix 0) s.me.asid 0x100 = true) := by
  unfold OnArray; decide +kernel

/-! ### Witnesses: copy engines and links -/

/-- A command of the lean strand 0, its run, and die 0 with engine 3. -/
def cmdOf (form : CpyForm) (b : Nat) : CpyCmd := { form := form, sa := 0, kind := .lean, sys := true, troupe := 1, vcid := 0, asid := 0, root := 0, dst := 0x100, src := 0x2000,
                                                   b := BitVec.ofNat 64 b, b1 := 0, opt := 0, sseg := seg 4, dseg := seg 4, tag := 77, pushed := 0, packet := none }
def runOf (k : CpyCmd) : CpyRun := { cmd := k, pos := 0, pieces := [], idx := [], tsrc := 0, tdst := 0, status := 0, written := false, slot := none,
                                     unacked := [], win := [], bad := [] }
def onEngine (s : State) (x : Engine) : State := { s with dies := [(0, { Die.fresh with engines := [(3, x)] })] }
/-- Segment 4 is the die's scratchpad: a range inside it, one beyond it, a reduction of an odd destination or length, engines with a full queue, and
the packet that a CPY carries. -/
theorem witness_CopyIssue : rangeFault sL.me [(seg 4, 0x100, 16, 1, true, false), (seg 4, 0x40, 16, 1, false, true)] = none ∧
    rangeFault sL.me [(seg 4, 0x10000, 16, 1, true, false)] = some (.segLimit, 0x10000) ∧ (0x101 : Nat) % 4 ≠ 0 ∧ (0x100 : Nat) % 4 = 0 ∧ (6 : Nat) % 4 ≠ 0 ∧
    (sL.engine 0 0).queue.length < 64 ∧ (sL.engine 0 0).load = 0 ∧ sL.me.packet = none ∧
    64 ≤ ((onEngine sL { queue := List.replicate 64 (cmdOf .cpy 5), running := none }).engine 0 3).queue.length ∧ sM.me.kind = .sm ∧
    (on' sM (fun m => { m with packet := some { queue := 0, rdidx := 1, kind := 2, notify := false } })).me.packet.map (·.kind) = some 2 := by decide +kernel
theorem witness_CopyRuns_start : (let s := onEngine sL { queue := [cmdOf .cpy 0x30, cmdOf .cpy 4], running := none };
      (s.engine 0 3).running = none ∧ (s.engine 0 3).queue = cmdOf .cpy 0x30 :: [cmdOf .cpy 4] ∧ (cmdOf .cpy 0x30).sseg.desc.extractLsb' 44 4 = 4 ∧
      (cmdOf .cpy 0x30).dseg.desc.extractLsb' 44 4 = 4 ∧ (cmdOf .cpy 0x30).b ≠ 0) ∧
    (let r := runOf { cmdOf .cpyfill 0x30 with dseg := seg 1 };
      let s := onEngine sL { queue := [], running := some r };
      let w := { walk0 none false with who := .engine 0 3, va := 0x100, failed := true };
      (s.engine 0 3).running = some r ∧ r.cmd.dseg.desc.extractLsb' 44 4 = 1 ∧ (r.cmd.dseg.base.toNat + r.cmd.dst.toNat) % 2 ^ 64 = 0x100 ∧ r.cmd.b ≠ 0 ∧
      ((known s leafRw).port r.cmd.strand.port).find 0 0x100 = some leafRw ∧
      leafRw.check (portDie r.cmd.strand.port) (portCluster r.cmd.strand.port) false true = none ∧ (s.port r.cmd.strand.port).find 0 0x100 = none ∧
      (({ s with ports := [(0, { Port.fresh with walks := [w] })] } : State).port r.cmd.strand.port).failedFor (.engine 0 3) 0 0x100 = true) := by decide +kernel
/-- A run whose bytes have their places: a copy of 16 bytes, a fill of 16, and a sum of one element. -/
def placed (k : CpyCmd) (src : Option Nat) (n : Nat) (g : Region) : CpyRun := { runOf k with pieces := [{ src := src, dst := some 0x1000, len := n, sreg := g, dreg := g }] }
theorem witness_CopyRuns : ∀ g ∈ [Region.priv, .coherent],
    ∀ r ∈ [placed (cmdOf .cpy 16) (some 0x2000) 16 g, placed (cmdOf .cpyfill 16) none 16 g, placed (cmdOf .cpyred 4) (some 0x2000) 4 g],
    let s := cached (onEngine sL { queue := [], running := some r })
    (s.engine 0 3).running = some r ∧ CopyCalm s r.cmd ∧ r.written = false ∧ r.bad = [] ∧ r.status = 0 ∧ s.troupe? r.cmd.troupe = none ∧
    0x1000 + 16 ≤ 0x2000 ∧ 0x1000 + 16 ≤ (troupe 0).spill 0 := by
  unfold CopyCalm; decide +kernel
/-- The heavy strand 1 of cluster 0 with a ring of 4 slots or 3 whose slots 5 to 7 are taken, 7 reserved; a command that fills it. -/
def sB (slots : Nat) : State := { on' sH (fun m => { m with sa := mkSa 0 0 48 1, troupe := 1,
                                                            rings := m.rings.set 1 { ringOf 4 slots 0 5 6 5 with reserved := 8 } }) with troupes := [(1, troupe 0)], cycle := 33 }
def ringRun (slot : Option (BitVec 32)) : CpyRun := { runOf { cmdOf .cpyring 0 with dst := 0x1011 } with slot := slot }
def onB (slots : Nat) (r : CpyRun) (rest : Tab Engine) : State := { sB slots with dies := [(0, { Die.fresh with engines := (3, { queue := [], running := some r }) :: rest })] }
theorem witness_CopyToRing : (let k := { cmdOf .cpyring 0 with dst := 0x31 };
      let s := onEngine sL { queue := [k], running := none };
      (s.engine 0 3).running = none ∧ (s.engine 0 3).queue = k :: [] ∧ s.strand? (mkSa (saDie k.sa) (saCluster k.sa) 48 (k.dst.extractLsb' 4 2).toNat) = none) ∧
    (let s := onB 4 (ringRun none) []; (s.engine 0 3).running = some (ringRun none) ∧ s.me.run ≠ .vacant ∧
      s.me.sa = mkSa (saDie (ringRun none).cmd.sa) (saCluster (ringRun none).cmd.sa) 48 ((ringRun none).cmd.dst.extractLsb' 4 2).toNat ∧
      badTarget s (ringRun none).cmd = false ∧ ¬ 4 ≤ ((8 : BitVec 32) - s.me.rings[1].head).toNat ∧ 3 ≤ ((8 : BitVec 32) - s.me.rings[1].head).toNat) ∧
    badTarget (onB 0 (ringRun none) []) (ringRun none).cmd = true ∧
    (let s := onB 4 (ringRun (some 6)) []; s.earlierSlot 0 (ringRun (some 6)).cmd 6 = false ∧ s.mailFull 1 0 = false ∧ (ringRun (some 6)).status = 0) ∧
    (onB 4 (ringRun (some 7)) [(4, { queue := [], running := some (ringRun (some 6)) })]).earlierSlot 0 (ringRun (some 7)).cmd 7 = true := by decide +kernel
/-- An enabled inbound window for module 5 over links 0 to 3, and a flit not yet acknowledged. -/
def windowed : State := { sL with mgmt := { Mgmt.fresh with link := 3, win := [(2, natBytes 4 1 ++ natBytes 2 5 ++ natBytes 2 1 ++ natBytes 8 0 ++ natBytes 8 0x1000 ++ natBytes 8 0x2000)] } }
def unackedOne : Unacked := { num := 0, loc := 0x1003, len := 5, links := 3, flit := { link := 0, module := 5, off := 0, put := false, answer := false, len := 5, data := 0 } }
theorem witness_RemoteFlits : (windowed.exported 5 0x40).isSome = true ∧ windowed.exported 6 0x40 = none ∧ (∀ d ∈ windowed.dies, d.2.watches = []) ∧
    (∀ opt ∈ [0, 1], ∀ g ∈ [Region.priv, .coherent],
      let r := { runOf { cmdOf .cpyrem 5 with opt := opt } with unacked := [unackedOne], pieces := [{ src := none, dst := some 0x1003, len := 5, dreg := g }] };
      let s := { windowed with dies := [(0, { Die.fresh with engines := [(3, { queue := [], running := some r })] })] };
      (s.engine 0 3).running = some r ∧ CopyCalm s r.cmd ∧ r.status = 0 ∧ r.cmd.packet = none ∧ s.troupe? r.cmd.troupe = none ∧ unackedOne.flit.link = 0 % 32 ∧
      0x1003 ≤ unackedOne.loc ∧ unackedOne.loc < 0x1003 + 5 ∧ unackedOne.loc % 128 + unackedOne.len ≤ 128 ∧ 0 < unackedOne.len ∧
      (List.range 32).filter (fun l => unackedOne.links.testBit l && s.mgmt.link.getLsbD l && l != 0 % 32) = [1]) := by unfold CopyCalm; decide +kernel

/-! ### Witnesses: ordered tasks -/

/-- An ordered-task troupe whose published key is (5, 9), its lone task 9, a spawn of that task, and the frame of its worker. -/
def tO : Troupe := { troupe 1 with front := (5, 9) }
def spawnOf (id : Option Nat) (dead : Bool) : Spawn :=
  { sa := 0, q := 0, vcid := 0, pc := 4, t := 6, parent := 9, entry := 0x40, args := [7, 8], arrives := 0, id := id, dead := dead }
def frame0 : Frame := { s29 := 129, s30 := 130, s31 := 131, fctl := 3, wpc := 0x88 }
def granule0 : Granule := { loc := 0x1000, mask := 0xF00F, data := 7 }
theorem witness_TaskInstructions : sM.me.kind = .sm ∧ (sL.me.kind ≠ .sm ∧ sL.troupe? sL.me.troupe = none ∧ sL.me.task = none) ∧ tO.ordered = true ∧
    (sT tO).troupe? (sT tO).me.troupe = some tO ∧ (sT tO).me.task = none ∧ (sT tO).me.h = false ∧ (on' (sT tO) (fun m => { m with h := true })).me.h = true ∧
    (((sT tO).me.getS 1).toNat < tO.front.1.toNat ∧ tO.pass = false ∧ tO.requeued = none) ∧ ¬ ((sT tO).me.getS 7).toNat < tO.front.1.toNat ∧
    (∀ st ∈ [TaskState.running, .nonspec, .irrev], (sK (task st (some 0)) tO).taskOf (sK (task st (some 0)) tO).me = some (9, task st (some 0))) ∧
    ((sT tO).me.getS 1).toNat < (task .running (some 0)).t.toNat ∧ (task .running (some 0)).t.toNat ≤ ((sT tO).me.getS 7).toNat ∧
    (task .nonspec (some 0)).committing = false ∧ (let s := sK (task .running (some 0)) tO; s.me.ops = [] ∧ s.me.held = [] ∧ s.me.fixed = [] ∧ tO.spawns = []) := by
  decide +kernel
theorem witness_TaskArrival : (let o := op (.tspawn 3 none) .away [];
      let t := { tO with spawns := [spawnOf none false] };
      (with' (sK (task .running (some 0)) t) o).me.ops = [o] ∧ (spawnOf none false).id = none ∧ (spawnOf none false).arrives ≤ 0 ∧ t.spawnCtr < 0xFFFFFFFF ∧
      (spawnOf none false).sa = (with' (sK (task .running (some 0)) t) o).me.sa ∧ o.q = (spawnOf none false).q) ∧
    (let o := op (.tspawn 3 (some 77)) .away []; (with' sL o).me.ops = [o] ∧ sL.me.held = [] ∧ sL.me.undo = [] ∧ sL.me.inbox = [] ∧ (∀ i : Fin 8, sL.me.inPorts[i] = [])) ∧
    (tO.tasks = [] ∧ (spawnOf (some 77) false).id = some 77 ∧ (spawnOf (some 77) false).dead = false) ∧ (task .spilled none).state = .spilled ∧
    (let k := task .queued none;
      let t := { tO with tasks := [(9, k)], frames := [(0, frame0)] };
      let s := on' (sT t) (fun m => { m with run := .idle });
      s.others = [] ∧ s.troupe? 1 = some t ∧ k.retries = 0 ∧ s.me.troupe = 1 ∧ s.me.kind ≠ .sm ∧ saPkg s.me.sa = t.clusterAt k.unit ∧ s.me.readyAt ≤ s.cycle ∧
      s.me.swap = none ∧ s.me.dbg.stopReq = none ∧ s.me.dbg.stopped = false ∧ Tab.get? t.frames s.me.vcid = some frame0 ∧ tO.spawns = [] ∧ tO.pass = false) := by
  decide +kernel
theorem witness_TaskCommits : (sT tO).troupe? 1 = some tO ∧ Memory.wf (sT tO).mem = true ∧ (∀ d ∈ (sT tO).dies, d.2.watches = []) ∧
    ({ tO with sampled := some (3, 4) } : Troupe).sampled = some (3, 4) ∧ tO.pass = false ∧ ({ tO with pass := true } : Troupe).pass = true ∧
    (granule0.owner = none ∧ ({ granule0 with owner := some 3 } : Granule).owner = some 3 ∧ granule0.loc % 64 = 0 ∧ granule0.mask.getLsbD (0x1002 - 0x1000) = true ∧
      granule0.mask.getLsbD (0x1004 - 0x1000) = false) ∧
    (let k := { task .finished none with buffer := [granule0] }; k.state = .finished ∧ k.doomed = false ∧ k.ending = none ∧ k.worker = none) ∧
    (let k := { task .nonspec (some 0) with committing := true, buffer := [granule0] }; k.state = .nonspec ∧ k.committing = true) ∧
    (let k := task .running (some 0);
      let t := { tO with tasks := [(9, k)] };
      k.state = .running ∧ k.ending = none ∧ t.committing = none ∧ t.publishDue = false ∧ t.front = (k.t, BitVec.ofNat 32 9) ∧ (9 : Nat) < 2 ^ 32 ∧
      (sK k tO).residentOf 1 0 = some (sK k tO).me ∧ keyLess (3, BitVec.ofNat 32 1) (taskKey 9 k) = true) ∧ (task .irrev (some 0)).state = .irrev ∧
    sigHit (sigAdd 0 3) 3 = true ∧ sigHit 0 3 = false := by decide +kernel

/-! ### Witnesses: code, work queues and launch -/

/-- A leaf that may be executed, known to the strand's own port for page 0 of both spaces, with die 0's translations. -/
def codeLeaf : Leaf := { pa := 0x10000, large := false, x := true, w := false, rd := false, region := .priv, cmask := BitVec.allOnes 12, dmask := BitVec.allOnes 8 }
def coded (s : State) (x : Tab XEntry) : State := { s with
  ports := [(s.me.port, { Port.fresh with base := [{ asid := systemSpace, vpn := 0, leaf := codeLeaf }, { asid := 0, vpn := 0, leaf := codeLeaf }] })]
  dies := [(0, { Die.fresh with xcache := x })], cycle := 70 }
def xent (state : XState) : XEntry := { state := state, ends := 60, pas := [0x10008], words := [7], region := .priv, tail := none, size := 12, used := 3 }
theorem witness_CodeInstructions : InOrder sL ∧ sL.me.system = true ∧ segCheck sL.me (seg 1) false true 8 12 4 = .ok 8 ∧
    segCheck sL.me (seg 1) false true 2 12 4 = .bad .misaligned 2 ∧ ((seg 1).desc.extractLsb' 44 4).toNat = 1 ∧ ((seg 2).desc.extractLsb' 44 4).toNat ≠ 1 ∧
    segCheck sL.me (seg 2) false true 8 12 4 = .ok 8 ∧ (12 : Nat) % 4 = 0 ∧ (6 : Nat) % 4 ≠ 0 ∧
    (let s := coded sL []; s.fetchCheck s.me 8 = .ok 0x10008 .priv ∧ (8 : Nat) % 4 = 0 ∧
      Tab.get? (s.die 0).xcache (xkey 0x10008 s.me.kind s.me.system) = none ∧ (s.die 0).reloading = false ∧ (s.die 0).translating < 8) ∧
    Tab.get? ((coded sL [(xkey 0x10008 .lean true, xent .valid)]).die 0).xcache (xkey 0x10008 .lean true) = some (xent .valid) ∧
    8 ≤ ((coded sL ((List.range 8).map (fun i => (i, xent .pending)))).die 0).translating := by unfold InOrder; decide +kernel
theorem witness_CodeEvents : (∀ w ∈ [OpWhat.codesync 0x40 12, .xlatinv true 0 0], let o := op w .away []; Calm (with' sL o) ∧ (with' sL o).me.ops = [o]) ∧
    (∀ a ∈ [acc 0x40 12 (some 0x50040), accC 0x40 12 (some 0x50040)], let o := op (.codesync 0x40 12) .away [a]
      let s := cached (with' sL o); Calm s ∧ s.me.ops = [o] ∧ o.accs = [a] ∧ a.loc = some 0x50040 ∧ Memory.wf s.mem = true) ∧
    (∀ st ∈ [XState.pending, .doomed], let s := coded sL [(5, xent st)]; Tab.get? (s.die 0).xcache 5 = some (xent st) ∧ (s.die 0).xqueue = [] ∧
      (s.die 0).reloading = false ∧ (xent st).ends ≤ s.cycle ∧ s.poison = [] ∧ s.me.block = none) ∧
    (let s := on' (coded sL [(5, xent .pending)]) (fun m => { m with block := some { base := 8, words := [], key := 5 } });
      s.me.block = some { base := 8, words := [], key := 5 } ∧ saDie s.me.sa = 0) ∧
    sM.me.xwait = none ∧ (on' sM (fun m => { m with xwait := some (0, 2 ^ 64 + 5) })).me.xwait = some (0, 2 ^ 64 + 5) := by unfold Calm; decide +kernel
/-- A queue with a ring of 16 packets in page 0; the stage manager at cycle 100 with queue 2 in a state, mapped or not, and with its die's board. -/
def queueOf (state : QState) (rd wr : Nat) : Queue := { ring := 0x1000, logn := 4, prio := 9, state := state, freason := 0, asid := 0, root := 0x70000
                                                        rdidx := BitVec.ofNat 64 rd, wridx := BitVec.ofNat 64 wr, acycle := 33, fdetail := 0 }
def sQ (x : Queue) (d : Die) : State := { rs sM [(3, 2), (5, 0x2008), (6, 0x77)] with cycle := 100, queues := [(2, x)], dies := [(0, d)] }
def mapping (s : State) : State := on' s (fun m => { m with mapped := some 2 })
def struck : Queue := { queueOf .faulted 3 5 with freason := 4 }
def rankMem (w : Nat) : List Host.Cell := (List.range 16).foldl (fun m i => memWrite m (dieLoc 0 (0x40 + 4 * i)) 4 (if i = 15 then 0x3C004000 else w)) []
/-- The board holds queue 2 or not and 4,096 entries or fewer; a rank program of NOPs ends in its HALT word, one of an undefined major is refused. -/
theorem witness_QueueForms : (let s := sQ (queueOf .ready 0 1) { Die.fresh with board := [(4, 2), (9, 7)] };
      Manager s ∧ Memory.wf s.mem = true ∧ s.me.mapped = none ∧ (s.die 0).board = (4, 2) :: [(9, 7)] ∧ 2 / 16384 = saDie s.me.sa ∧ (s.me.getS 3).toNat = 2 ∧
      (∃ e ∈ (s.die 0).board, e.2 = 2)) ∧
    ¬ (20000 / 16384 = saDie (sQ struck Die.fresh).me.sa) ∧ (∀ st ∈ [QState.disabled, .mapped, .faulted], ((sQ (queueOf st 0 1) Die.fresh).queue 2).state ≠ .idle) ∧
    ((sQ (queueOf .idle 0 0) Die.fresh).queue 2).state = .idle ∧
    (let s := mapping (sQ (queueOf .mapped 3 5) Die.fresh); s.me.mapped = some 2 ∧ (s.queue 2).state = .mapped ∧ (s.queue 2).wridx.toNat - (s.queue 2).rdidx.toNat = 2) ∧
    (let s := mapping (sQ struck Die.fresh); (s.queue 2).state ≠ .mapped ∧ (s.queue 2).state = .faulted ∧ (s.queue 2).freason = 4) ∧
    (queueOf .mapped 3 3).wridx.toNat - (queueOf .mapped 3 3).rdidx.toNat = 0 ∧
    (on' sM (fun m => { m with packet := some { queue := 2, rdidx := 3, kind := 4, notify := true } })).me.packet = some { queue := 2, rdidx := 3, kind := 4, notify := true } ∧
    (let s := sQ (queueOf .ready 0 1) Die.fresh; (∀ e ∈ (s.die 0).board, e.2 ≠ 2) ∧ 2 ∉ (s.die 0).outside ∧ s.inserting 2 = false ∧ (s.die 0).board.length < 4096) ∧
    4096 ≤ (List.replicate 4096 ((3 : Nat), (7 : Nat))).length ∧ (0x40 : Nat) % 64 = 0 ∧ (0x41 : Nat) % 64 ≠ 0 ∧ 0x40 + 64 ≤ 0x2000000 ∧
    rankBad ((List.range 16).map (fun i => memRead (rankMem 0x24000000) (dieLoc 0 (0x40 + 4 * i)) 4)) ≠ rankBad ((List.range 16).map (fun _ => 0xFC000000)) := by
  unfold Manager; decide +kernel
/-- The queue's page is unknown, known, or not readable; its packet 3 is of a kind. -/
def paged (s : State) (l : Leaf) : State := { s with ports := [(s.me.port, { Port.fresh with base := [{ asid := 0, vpn := 0, leaf := l }] })] }
def packetAt (s : State) (kind flags : Nat) : State := { s with mem := memWrite (memWrite s.mem 0x510C0 1 kind) 0x510C1 1 flags }
theorem witness_QueueWaitAndSignal : (let s := sQ (queueOf .mapped 3 5) Die.fresh; Manager s ∧ Memory.wf s.mem = true ∧ s.me.mapped = none) ∧
    (let s := mapping (sQ (queueOf .mapped 3 5) Die.fresh); s.me.mapped = some 2 ∧ s.me.poll = none ∧ (s.queue 2).rdidx.toNat < (s.queue 2).wridx.toNat ∧
      (0x1000 + 64 * ((s.queue 2).rdidx.toNat % 2 ^ (s.queue 2).logn.toNat) = 0x10C0) ∧ s.xlate s.me.port (.strand s.me.sa) 0 0x10C0 true false = .miss ∧
      (paged s leafRw).xlate s.me.port (.strand s.me.sa) 0 0x10C0 true false = .hit leafRw ∧ leafRw.addr 0x10C0 = 0x510C0 ∧
      (paged s leafRw).xlate s.me.port (.strand s.me.sa) 0 0x2008 true true = .hit leafRw ∧ (s.me.getS 5).toNat = 0x2008 ∧ 0x2008 % 8 = 0 ∧
      leafRw.region ≠ .priv ∧ (paged s leafPriv).xlate s.me.port (.strand s.me.sa) 0 0x2008 true true = .hit leafPriv ∧ leafPriv.region = .priv ∧ leafPriv.addr 0x2008 % 8 = 0 ∧ (s.me.getS 6).toNat % 8 ≠ 0 ∧
      (paged s { leafRw with rd := false }).xlate s.me.port (.strand s.me.sa) 0 0x10C0 true false = .fail .pageRights) ∧
    packetOk (memBytes (packetAt (sQ struck Die.fresh) 0 0).mem 0x510C0 64) = true ∧ packetOk (memBytes (packetAt (sQ struck Die.fresh) 3 0).mem 0x510C0 64) = true ∧
    packetOk (memBytes (packetAt (sQ struck Die.fresh) 9 0).mem 0x510C0 64) = false ∧ (queueOf .mapped 3 3).wridx.toNat ≤ (queueOf .mapped 3 3).rdidx.toNat := by
  unfold Manager; decide +kernel
theorem witness_QueueWaitAndSignal_poll : (on' sM (fun m => { m with poll := some { started := 3, next := 200, result := none } })).me.poll.map (·.result) = some none ∧
    (on' sM (fun m => { m with poll := some { started := 3, next := 200, result := some 77 } })).me.poll.map (·.result) = some (some 77) := by decide +kernel
/-- A WAIT packet for the word at 0x2008 to be 5 under a mask, with a limit. -/
def waitFor (limit word : Nat) : State :=
  let s := packetAt (on' (paged (mapping (sQ (queueOf .mapped 3 5) Die.fresh)) leafRw) (fun m => { m with poll := some { started := 3, next := 100, result := none } })) 3 0
  { s with mem := [(8, 8, 0x2008), (0x10, 8, 5), (0x18, 8, 0xFF), (0x24, 4, limit)].foldl (fun m x => memWrite m (0x510C0 + x.1) x.2.1 x.2.2) (memWrite s.mem 0x52008 8 word) }
theorem witness_QueueEvents : (sQ struck Die.fresh).arrivalsOpen = false ∧ ({ sQ struck Die.fresh with mgmt := { Mgmt.fresh with stage := 3 } } : State).arrivalsOpen = true ∧
    (let x := queueOf .idle 3 5; ¬ (6 < x.wridx.toNat ∨ 2 ^ x.logn.toNat < 6 - x.rdidx.toNat) ∧ (4 < x.wridx.toNat) ∧ (2 ^ x.logn.toNat < 20 - x.rdidx.toNat) ∧ (6 : Word) ≠ x.wridx ∧
      (5 : Word) = x.wridx) ∧
    (let s := sQ (queueOf .ready 0 1) { Die.fresh with inserts := [(2, 5, 100)], board := [(3, 7)] };
      (s.die 0).inserts = [(2, 5, s.cycle)] ∧ (s.queue 2).state = .ready ∧ (∀ e ∈ (s.die 0).board, e.2 ≠ 2) ∧ 2 ∉ (s.die 0).outside ∧ (s.die 0).board.length < 4096) ∧
    (∀ e ∈ (sQ struck Die.fresh).dies, e.2.inserts = []) ∧
    (∀ st ∈ [QState.disabled, .idle, .ready, .mapped, .faulted], ((sQ (queueOf st 0 1) Die.fresh).queue 2).state = st) ∧
    (let s := waitFor 0 0x705; Memory.wf s.mem = true ∧ s.me.poll = some { started := 3, next := s.cycle, result := none } ∧ s.me.mapped = some 2 ∧
      (s.port s.me.port).find 0 0x10C0 = some leafRw ∧ memRead s.mem (0x510C0 + 8) 8 = 0x2008 ∧ s.xlate s.me.port (.strand s.me.sa) 0 0x2008 true false = .hit leafRw ∧
      memRead s.mem (leafRw.addr 0x2008) 8 &&& memRead s.mem (0x510C0 + 0x18) 8 = memRead s.mem (0x510C0 + 0x10) 8 &&& memRead s.mem (0x510C0 + 0x18) 8) ∧
    (let s := waitFor 1 0x706; memRead s.mem (leafRw.addr 0x2008) 8 &&& 0xFF ≠ 5 ∧ memRead s.mem (0x510C0 + 0x24) 4 = 1 ∧ s.cycle < 3 + 1024 * 1 ∧
      3 + 1024 * 1 ≤ ({ s with cycle := 1100 } : State).cycle) := by decide +kernel
/-- A valid descriptor with a code segment of system code; the launcher with its queue mapped, and two free lean slots. -/
def goodDesc : List Byte := setBytes (setBytes (desc 0) 0x020 16 (2 ^ 108 + 2 ^ 107 + 0x10000 * 2 ^ 64)) 0x040 8 0x80
def launcher : State := { on' (rs sMd [(3, 0x1000)]) (fun m => { m with mapped := some 2 }) with
  queues := [(2, queueOf .mapped 3 5)], cycle := 1000, mgmt := { Mgmt.fresh with admits := 0xFF }
  others := [(0, { Strand.fresh 0 .lean 4 with run := .vacant }), (1, { Strand.fresh 1 .lean 4 with run := .vacant })] }
theorem witness_LaunchForms : Manager launcher ∧ Memory.wf launcher.mem = true ∧ (on' launcher (fun m => { m with mapped := none })).me.mapped = none ∧ launcher.me.mapped = some 2 ∧
    (launcher.mgmt.admits.getLsbD 0 = true ∧ (launcher.die 0).hold = false) ∧ ({ launcher with mgmt := Mgmt.fresh } : State).mgmt.admits.getLsbD 0 = false ∧
    launcher.xlate launcher.me.port (.strand launcher.me.sa) 0 0x1000 true false = .miss ∧
    (paged launcher leafRw).xlate launcher.me.port (.strand launcher.me.sa) 0 0x1000 true false = .hit leafRw ∧
    (paged launcher leafRw).xlate launcher.me.port (.strand launcher.me.sa) 0 (0xFFC0 + 511) true false = .miss ∧
    (paged launcher { leafRw with rd := false }).xlate launcher.me.port (.strand launcher.me.sa) 0 0x1000 true false = .fail .pageRights ∧
    (0x1000 : Nat) % 64 = 0 ∧ launcher.descOk goodDesc = true ∧ launcher.descOk (setBytes goodDesc 0 4 0) = false := by unfold Manager; decide +kernel
/-- The launch is on its way: its request's search has ended, for one cluster or for more than there are. -/
def launchOp (n : Option Nat) : Op := op (.launch 3 n) .away []
def searched (once : Bool) (bs : List Byte) : State := { with' launcher (launchOp none) with
  placeQ := [{ sa := mkSa 0 15 63 0, q := 0, desc := bs, queue := 2, notify := false, once := once, arrives := 900, due := some 990, waiting := false, carried := false }], nextTroupe := 7 }
theorem witness_Placement : (let s := searched true goodDesc; Calm s ∧ Listed s ∧ 990 ≤ s.cycle ∧ mkSa 0 15 63 0 = s.me.sa ∧ s.me.ops = [launchOp none] ∧
      (launchOp none).what = .launch 3 none ∧ s.mgmt.admits.getLsbD 0 = true ∧ (s.die 0).hold = false ∧ s.nextTroupe % 2 ^ 32 ≠ 0 ∧ s.troupe? (s.nextTroupe % 2 ^ 32) = none ∧
      s.findPlace goodDesc = some (0, 0, [0, 1, 2, 3]) ∧ [0, 1, 2, 3].Nodup ∧
      s.me.sa ∉ [0, 1, 2, 3] ∧ (∀ sa ∈ [0, 1, 2, 3], (s.slotAt sa).isSome = true)) ∧
    ({ searched true goodDesc with mgmt := Mgmt.fresh } : State).mgmt.admits.getLsbD 0 = false ∧
    (searched false (setBytes goodDesc 0x00A 1 200)).findPlace (setBytes goodDesc 0x00A 1 200) = none := by unfold Calm Listed; decide +kernel
/-- The launched troupe, without initial tasks or with one. -/
def launched (bs : List Byte) : Troupe := { State.reset.newTroupe { request 0 with desc := bs } (0, 0, [0]) 2 with launcher := mkSa 0 15 63 0 }
def released (bs : List Byte) : State := { with' launcher (launchOp (some 4)) with troupes := [(4, launched bs)] }
theorem witness_Release : ∀ n ∈ [0, 1], let bs := setBytes (setBytes goodDesc 0x114 4 n) 0x118 8 0x600000
    let s := released bs
    Calm s ∧ Listed s ∧ s.troupe? 4 = some (launched bs) ∧ (launched bs).launcher = s.me.sa ∧ s.me.kind = .sm ∧ s.me.ops = [launchOp (some 4)] ∧
    bytesNat (launched bs).desc 0x114 4 = n ∧ Memory.wf s.mem = true := by unfold Calm Listed; decide +kernel

/-! ### Witnesses: debug, the device, turns and steps -/

/-- The lean strand 0 of troupe 1 beside a partner of its troupe, which a barrier joins to it. -/
def partnerT : Troupe := { troupe 0 with place := [(0, 0), (1, 1)], bars := [(3, barOf [] [])] }
def partner : Strand := { strand .lean with sa := 1, troupe := 1, vcid := 1 }
def sD (f : Strand → Strand) (p : Strand) : State := { on' (sT partnerT) f with others := [(1, p)] }
theorem witness_DebugCommands : slotOf 0 0 0 = 0 ∧ (let s := sD id partner; Listed s ∧ s.strand? 0 = some s.me ∧ (s.die 0).tripped = false ∧ saPkg 0 = 0 ∧
      s.troupe? s.me.troupe = some partnerT ∧ 1 ∈ partnerT.partners s.me.vcid ∧ s.residentOf 1 1 = some partner ∧ partner.dbg.stopped = false ∧ partner.sa ≠ 0) ∧
    (let s := sD (fun m => { m with dbg := { m.dbg with stopped := true, pending := [List.replicate 32 7] } }) { partner with dbg := { partner.dbg with frozen := true } };
      Listed s ∧ s.me.dbg.stopped = true ∧ s.me.dbg.pending = [List.replicate 32 7] ∧ s.me.kind ≠ .sm ∧ s.strand? 1 = some { partner with dbg := { partner.dbg with frozen := true } }) ∧
    ({ sD id partner with dies := [(0, { Die.fresh with tripped := true })] } : State).me = (sD id partner).me ∧
    (({ sD id partner with dies := [(0, { Die.fresh with tripped := true })] } : State).die 0).tripped = true ∧ ((0 : Nat) ≠ 1 ∧ partner.run ≠ .vacant) := by
  unfold Listed; decide +kernel
/-- A watch of a strand over 8 bytes; the operation that asks for one and the one that gives it back; a hit to be reported. -/
def watchAt (pa : Nat) : Watch := watchFor (strand .lean) (acc 0 8 (some pa)) true false
def watched (o : Op) (n : Nat) : State := { with' sL o with dies := [(0, { Die.fresh with watches := (List.range n).map (fun i => (i, watchAt 0x50000)) })] }
def setOp : Op := op (.wpset 3 0 true false) .away [acc 0 8 (some 0x50000)]
def clrOp : Op := op (.result 3 (BitVec.ofNat 64 (2 ^ 63 + 4))) .away []
def hitOf : WatchHit := { at_ := 30, owner := 0, addr := 0x123, record := List.replicate 32 5 }
theorem witness_Watchpoints : InOrder sL ∧ ((0x18 : Nat) % 8 ≤ 4 ∧ (0x18 : Word).getLsbD 3 = true) ∧ ¬ ((0x1F : Nat) % 8 ≤ 4) ∧ ((0x07 : Word).getLsbD 3 = false) ∧
    segCheck sL.me (seg 1) true false 16 8 8 = .ok 16 ∧ segCheck sL.me (seg 1) true false 4 8 8 = .bad .misaligned 4 ∧ sL.me.system = true ∧
    (let s := watched setOp 3; Still s ∧ s.me.ops = [setOp] ∧ setOp.accs = [acc 0 8 (some 0x50000)] ∧
      (let w := watchFor s.me (acc 0 8 (some 0x50000)) true false; s.watchLoad (fun y => y.l2 == w.l2) < 16 ∧ s.watchLoad (fun y => y.llc == w.llc) < 16) ∧
      0x50000 + 8 ≤ 0xC000000000 ∧ (s.die 0).freeWatch = some 3) ∧
    (let s := watched setOp 16; let w := watchFor s.me (acc 0 8 (some 0x50000)) true false; ¬ s.watchLoad (fun y => y.l2 == w.l2) < 16) ∧
    (let s := watched clrOp 5; Still s ∧ s.me.ops = [clrOp] ∧ clrOp.what = .result 3 (BitVec.ofNat 64 (2 ^ 63 + 4)) ∧ Tab.get? (s.die 0).watches 4 = some (watchAt 0x50000) ∧
      (watchAt 0x50000).owner = s.me.cid) ∧ Tab.get? ((watched clrOp 4).die 0).watches 4 = none ∧
    (let s := { sL with cycle := 70, dies := [(0, { Die.fresh with hits := [hitOf] })] }; (s.die 0).hits = [hitOf] ∧ hitOf.at_ ≤ s.cycle ∧ s.me.cid = hitOf.owner ∧ s.me.run ≠ .vacant) ∧
    (Tab.getD sL.mgmt.trace 0 (0, 0)).2 = 0 ∧ ((2 ^ 63 : Word).getLsbD 63 = true) := by unfold InOrder Still; decide +kernel
/-- The module in a stage. -/
def inStage (n : Nat) (s : State) : State := { s with mgmt := { s.mgmt with stage := BitVec.ofNat 8 n } }
theorem witness_HostPort : ((inStage 0 sL).mgmt.stage.toNat = 0 ∧ 0x10 / 8 * 8 < 0x100000) ∧ ((inStage 255 sL).mgmt.stage.toNat = 0xFF ∧ recoveryOffset 0x80 = false) ∧
    (0x100000 ≤ 0x100008 / 8 * 8 ∧ 0x100008 / 8 * 8 < 0x4100000 ∧ (inStage 3 sL).mgmt.stage.toNat ≠ 0xFF) ∧
    (0x10000000 ≤ 0x10000018 / 8 * 8 ∧ (inStage 2 sL).arrivalsOpen = false ∧ (inStage 3 sL).arrivalsOpen = true) ∧
    (0x1000000000 ≤ 0x1000000123 / 8 * 8 ∧ 0x1000000123 / 8 * 8 < 0xD000000000 ∧ (inStage 2 sL).mgmt.stage.toNat = 2 ∧ Memory.wf sL.mem = true) ∧
    (0x20000000 ≤ 0x20050000 / 8 * 8 ∧ 0x20050000 / 8 * 8 < 0x20600000 ∧ 0x20050000 / 8 * 8 % 65536 = 0) ∧ (0x8305 : Word).toNat % 16 = 5 ∧ (0x8305 : Word).toNat / 16 % 64 = 48 ∧
    (0x8302 : Word).toNat % 16 = 2 ∧ (0x8302 : Word).toNat / 16 % 64 ≤ 48 := by decide +kernel
/-- What verifies is free; these are the stages, the update's ends and the quiet module. -/
theorem witness_StartAndUpdate : ((inStage 1 sL).mgmt.stage = 1 ∧ Listed (inStage 1 sL) ∧ Memory.wf (inStage 1 sL).mem = true) ∧ (inStage 2 sL).mgmt.stage = 2 ∧
    (inStage 3 sL).mgmt.stage = 3 ∧ (inStage 255 sL).mgmt.stage = 0xFF ∧ (∀ n ∈ [1, 2, 3, 0xFF], (inStage 0 sL).mgmt.stage ≠ BitVec.ofNat 8 n) ∧ sL.updating = none ∧
    (let s := { inStage 4 sL with updating := some 70, cycle := 70 }; s.updating = some s.cycle ∧ s.mgmt.stage = 4) ∧
    (let s := { inStage 4 (on' sL (fun m => { m with run := .vacant })) with updating := some 38, cycle := 70 };
      s.updating = some 38 ∧ s.mgmt.stage = 4 ∧ 38 < s.cycle ∧ s.quiesced = true ∧ s.residents = [] ∧ Memory.wf s.mem = true) ∧
    (State.reset.mgmt.flashBad = (false, false) ∧ ({ Mgmt.fresh with flashBad := (true, true) } : Mgmt).flashBad = (true, true)) := by unfold Listed; decide +kernel
/-- Beside what the free limits decide: strands that run, a cluster's samples, and a core with an enabled empty slot above another. -/
theorem witness_DeviceEvents : sL.mgmt.sysCtl.toNat % 4 ≠ 1 ∧ ({ Mgmt.fresh with sysCtl := 1 } : Mgmt).sysCtl.toNat % 4 = 1 ∧ sL.me.run ≠ .vacant ∧ sL.me.task = none ∧
    Memory.wf sL.mem = true ∧ (sL.cluster 0).warm = false ∧ (sL.cluster 0).coolSamples < 15 ∧ sL.displaced = [] ∧ sL.applied = [] ∧ Listed sL ∧
    (let s := { sL with others := [(1, { strand .lean with sa := 1, run := .vacant })] }
     1 < s.coreWidth (slotOf 0 0 0) ∧ s.slotAt (slotOf 0 0 0 + 1) = some { strand .lean with sa := 1, run := .vacant } ∧ s.coreWidth (slotOf 0 0 0) ≤ 4 ∧
     ({ strand .lean with sa := 1, run := .vacant } : Strand).occupied = false) ∧
    (saDie sL.me.sa = 0 ∧ sL.me.dbg.stopped = false ∧ saCluster 0 < 12) := by unfold Listed; decide +kernel
/-- A strand whose block holds ADDI, and the two words of LI behind it, all in a page that it may execute. -/
def fetched (pc : Word) : State := on' { sL with
    ports := [(sL.me.port, { Port.fresh with base := [{ asid := systemSpace, vpn := 0, leaf := codeLeaf }] })] }
  (fun m => { m with pc := pc, block := some { base := 0, words := [0x08C0FFFE, 0xF8600000, 0x12345678], key := 0 } })
theorem witness_StepRunsDecoded : (∀ n ∈ [0, 4], let s := fetched (BitVec.ofNat 64 n); let m := s.me
      s.agenda = [] ∧ s.turnsOver = false ∧ m.dueAt s.cycle = true ∧ s.taken = false ∧ m.run = .active ∧ m.ops = [] ∧ m.held = [] ∧ m.task = none ∧ m.xwait = none ∧ m.swap = none ∧
      m.readyAt ≤ s.cycle ∧ m.forfeit = 0 ∧ m.dbg.stopped = false ∧ m.dbg.stopReq = none ∧ (s.cluster (saPkg m.sa)).blackout = none ∧ m.dbg.stepping = none ∧ s.asyncNext m = none ∧
      m.cue = false ∧ m.drain = false ∧ s.fetchCheck m m.pc = .ok (0x10000 + n) .priv ∧ s.lineLost m (0x10000 + n) = false) := by decide +kernel
/-- Where the translation of the code is the most recently used already, its use changes nothing. -/
theorem useCode_same (s : State) (pc : Word) (h : (s.useCode pc).ports = s.ports) : s.useCode pc = s := by
  unfold State.useCode at *
  simp only at *
  split at h
  · exact congrArg (fun p => ({ s with ports := p } : State)) h
  · rfl
theorem witness_StepRunsDecoded_hazard : (fetched 0).useCode 0 = fetched 0 ∧ (fetched 4).useCode 4 = fetched 4 ∧
    hazard (fetched 0) (.addi 6 0 (-1) false) = none ∧ hazard (fetched 4) (.li 3 0x12345678 false) = none ∧
    (fetched 4).fetchCheck (fetched 4).me 8 = .ok 0x10008 .priv ∧ (fetched 4).lineLost (fetched 4).me 0x10008 = false ∧ (0x10008 : Nat) % 65536 ≠ 0 :=
  ⟨useCode_same _ _ (by decide +kernel), useCode_same _ _ (by decide +kernel), by decide +kernel, by decide +kernel, by decide +kernel, by decide +kernel, by decide⟩
theorem witness_StepRunsDecoded_words : decode 0x08C0FFFE 0 = some (.addi 6 0 (-1) false) ∧ wordCount 0x08C0FFFE = 1 ∧
    decode 0xF8600000 0x12345678 = some (.li 3 0x12345678 false) ∧ wordCount 0xF8600000 = 2 := ⟨rfl, rfl, rfl, rfl⟩
theorem witness_StepRunsDecoded_event : ({ sL with agenda := [(0, .turn)] } : State).agenda = (0, .turn) :: [] ∧ 0 ≤ sL.cycle ∧
    ({ sL with turnsOver := true } : State).turnsOver = true := by decide +kernel
theorem witness_TurnAndCycle : Listed (sD id partner) ∧ (sD id partner).turnsOver = false ∧ ({ sL with turnsOver := true } : State).troupes = [] ∧ Listed { sL with turnsOver := true } ∧
    (sL.l1d = [] ∧ sL.l2 = []) ∧ Listed { cached sL with turnsOver := true } ∧ Memory.wf (cached sL).mem = true ∧
    (∃ c ∈ (cached sL).l1d, ∃ y ∈ c.2, y.num = 0x50008 / 128 ∧ y.dirtyAt 0x50008 = true ∧ y.byte 0x50008 = 5)
    ∧ (∀ m ∈ sL.strands, m.kind ≠ .heavy) := by unfold Listed; decide +kernel
/-- One-word and two-word instructions of a scalar major and of another one. -/
theorem witness_DecodeEncode : (let i := Instr.addi 6 0 (-1) false; i.wf = true ∧ i.isEvent = false ∧ fld ((encode i).getD 0 0) 26 6 < 16) ∧
    (let i := Instr.li 3 0x12345678 false; i.wf = true ∧ i.isEvent = false ∧ 16 ≤ fld ((encode i).getD 0 0) 26 6) ∧
    (let i := Instr.fadd 1 2 3 0 7 false; i.wf = true ∧ i.isEvent = false ∧ 16 ≤ fld ((encode i).getD 0 0) 26 6) := by decide +kernel
theorem witness_MemoryStaysCanonical : Memory.wf { sL with agenda := [(0, .patrolScrub)] }.mem = true ∧
    step { sL with agenda := [(0, .patrolScrub)] } = .next { sL with agenda := [] } := ⟨by decide +kernel, rfl⟩

/-! ### Private lines (R14, R151, R155, R158, R180): what a core, another core of its die, and memory hold -/

/-- What the access at 0x50008 leaves: the value that the core reads, that the core of SADDR 32 reads, that the LLC holds, and whether the line is in
the core's L1D. Core 32 has read the line before. -/
def afterLine (what : OpWhat) (s : State) : Option (Nat × Nat × Nat × Bool) :=
  let o := op what .away [acc 8 4 (some 0x50008)]
  let e := match what with | .amo .. => Instr.atomicAtController 0 0 | .load .. => .loadDataReturn 0 0 | _ => .storePerformed 0 0
  match exec e (with' s o) with
  | .next t => some (t.view 0 true 0x50008 4, t.view 32 true 0x50008 4, memRead t.mem 0x50008 4, (t.inL1 0 (0x50008 / 128)).isSome)
  | _ => none
/-- Memory holds 9, and so does a clean copy of core 32; core 0 has stored 5. -/
def shared : State := let m := memWrite [] 0x50008 4 9
  { sL with mem := m, l1d := [(32, [memLine m (0x50008 / 128)])] }
def ahead : State := shared.putValueL1 0 0x50008 4 5
theorem test_private_store_stays_in_l1d : afterLine .store shared = some (5, 9, 9, true) := by decide +kernel
theorem test_private_load_fills_l1d : afterLine (.load 1 false) shared = some (9, 9, 9, true) := by decide +kernel
theorem test_flushl_writes_back_and_keeps : afterLine (.line false) ahead = some (5, 9, 5, true) := by decide +kernel
theorem test_invl_writes_back_and_drops : afterLine (.line true) ahead = some (5, 9, 5, false) := by decide +kernel
theorem test_atomic_recalls_the_line : afterLine (.amo 1 .add 0 false) ahead = some (10, 9, 9, false) := by decide +kernel

/-! ### Further witnesses: registers, traps, numbers, segments, channels -/

theorem witness_ReadStateRegister_tasks : hasTasks (sK (task .running (some 0)) (troupe 1)) ∧ ¬ hasTasks sL ∧
    (0x008 : BitVec 12) ∉ (srValues sL).map (·.1) := by
  refine ⟨⟨_, rfl, (9, task .running (some 0)), by decide +kernel, rfl⟩, fun h => ?_, by simp [srValues]⟩
  obtain ⟨t, h, -⟩ := h
  cases h
theorem witness_TrapDelivery_early : (let s := on' sL (fun m => { m with held := [heldOne], entry := some { q := 1, cause := .watchpoint, addr := 7, trapPc := 0, trapCause := 0, trapAddr := 0, trapInfo := 0 } });
      s.me.ops = [] ∧ s.me.undo = [] ∧ s.me.held = [heldOne] ∧ s.me.task = none ∧ s.me.run ≠ .dead ∧ s.me.entry.map (·.q) = some 1 ∧ heldOne.q < 1 ∧ s.me.tvec ≠ 0) := by
  decide +kernel
/-- 1.5, 1.0, both zeros, both infinities, a subnormal kept or flushed, −1.0, and the quiet and the signaling NaN, in FP32. -/
theorem witness_FloatMinMaxEstimateValues : fp32.source false 0x3FC00000 = .fin false 0xC00000 (-23) ∧ (2 : Nat) ^ 23 ≤ 0xC00000 ∧ (0xC00000 : Nat) < 2 ^ 24 ∧
    fp32.source false 0x80000000 = .zero true ∧ fp32.source false 0 = .zero false ∧ fp32.source false 0x7F800000 = .inf false ∧
    fp32.source false 0xFF800000 = .inf true ∧ fp32.source true 0x80000001 = .zero true ∧ fp32.isSub 0x80000001 = true ∧
    fp32.source false 1 = .fin false 1 (-149) ∧ fp32.source false 0xBF800000 = .fin true 0x800000 (-23) ∧
    fp32.source false 0x7FC00000 = .nan false ∧ fp32.source false 0x7F800001 = .nan true := by
  decide +kernel
theorem witness_FloatMinMaxEstimateValues_less : realLess (.fin false 0x800000 (-23)) (.fin false 0xC00000 (-23)) ∧ realLess (.inf true) (.fin false 0xC00000 (-23)) ∧
    ¬ realLess (.zero true) (.zero false) ∧ fp32.source false 0x3F800000 = .fin false 0x800000 (-23) :=
  ⟨(by decide +kernel : scaled 1100 _ < scaled 1100 _), rfl, (by decide +kernel : ¬ scaled 1100 _ < scaled 1100 _), by decide +kernel⟩
/-- An overflow of E4M3 and of FP16, a tiny FP32 value, one that rounds up out of the tiny range, and 3. -/
theorem witness_RoundingFaithful_ends : e4m3 ∈ [fp64, fp32, fp16, bf16, e5m2, e4m3] ∧ (5 : Int) < (Nat.log2 3 : Int) + 9 - e4m3.mbits ∧
    (fp16.bias : Int) - fp16.mbits < (Nat.log2 3 : Int) + 20 - fp16.mbits ∧ (Nat.log2 3 : Int) - 150 < 1 - fp32.bias ∧
    (Nat.log2 (2 ^ 25 - 1) : Int) - 151 + 1 = 1 - fp32.bias ∧ (Nat.log2 3 : Int) + 0 < fp32.bias := by decide +kernel
/-- A SYS = 0 and a SYS = 1 segment of KIND 4 whose base is the control page. -/
theorem witness_SegmentCheck_page : (let g : Seg := { seg 4 with base := 0x1FF0000 };
      (g.desc.extractLsb' 44 4).toNat = 4 ∧ g.desc.getLsbD 48 = false ∧ 0x1FF0000 < g.base.toNat + 8 + 4 ∧ g.base.toNat + 8 < 0x2000000 ∧
      segCheck sL.me g true false 8 4 4 = .bad .segRights 8 ∧ segCheck sL.me { g with desc := g.desc ||| (1 : Word) <<< 48 } true false 8 4 4 = .ok 0x1FF0008) := by
  decide +kernel
/-- The page that PREF finds passes R150, or does not. -/
theorem witness_FenceAndLines_pref : ((known sL leafPriv).port sL.me.port).find sL.me.asid 128 = some leafPriv ∧
    leafPriv.check (portDie sL.me.port) (portCluster sL.me.port) true false = none ∧
    ((known sL { leafPriv with rd := false }).port sL.me.port).find sL.me.asid 128 = some { leafPriv with rd := false } ∧
    (({ leafPriv with rd := false } : Leaf).check (portDie sL.me.port) (portCluster sL.me.port) true false).isSome = true := by decide +kernel
/-- A channel to a vcore in the same core, in the cluster, on another die, with nothing under way on it or a vector that arrives later. -/
theorem witness_ChannelSend_time : (let s := sT (tC [] []);
      (∀ e ∈ s.agenda, e.1 ≤ 6) ∧ Tab.get? (tC [] []).place 0 = some 0 ∧ OnGrid s.me.sa 0 ∧ ¬ OnGrid s.me.sa (mkSa 0 15 63 0)) ∧
    pathOf 0 1 = 6 ∧ pathOf 0 (mkSa 0 0 3 0) = 16 ∧ pathOf (mkSa 0 2 0 0) (mkSa 6 5 0 0) = 194 := by
  unfold OnGrid; decide +kernel
/-- Words of majors 0x20 to 0x33 that are no events: a vector sum, a shipped sum, a load of a vector. -/
theorem witness_StageManagerIllegal_words : ∀ i ∈ [Instr.vadd 1 2 3 false 0 2 false false, .dadd 8 10 11 7 false, .vld 1 2 3 1 0 0 false],
    i.wf = true ∧ i.isEvent = false ∧ 0x20 ≤ encodedWords i / 2 ^ 26 % 2 ^ 6 ∧ encodedWords i / 2 ^ 26 % 2 ^ 6 ≤ 0x33 ∧
    ¬ (0x28 < encodedWords i / 2 ^ 26 % 2 ^ 6 ∧ encodedWords i / 2 ^ 26 % 2 ^ 6 < 0x30) := by decide +kernel

/-! ### Further witnesses: slot swaps -/

/-- The stage manager asks for CID 2^32 to come to slot 0, whose strand is given; that context lies in cluster 0's cache, if at all. -/
def swaps (m : Strand) (others : Tab Strand) (homes : Tab Nat) (tcc : List (Nat × List Byte)) : State := { with' sMd (swapOp 0 (2 ^ 32)) with
  others := (0, m) :: others, troupes := [(1, { gone with homes := homes })], clusters := [(0, { Cluster.fresh with tcc := tcc })] }
def emptied : Strand := { strand .lean with run := .vacant, troupe := 0 }
def ctxFor (m : Strand) : List Byte := ({ m with troupe := 1 } : Strand).context 0 0 0
def saved : List (Nat × List Byte) := [(2 ^ 32, ctxFor (strand .lean))]
/-- Answers 1, 4, 3, 2 and 6, and the hold: a disabled slot, a context at another slot, one unknown, one of a heavy core, one whose range has its home
elsewhere, and one at home. -/
theorem witness_SlotSwapEvents_answers :
    (let s := swaps { emptied with enabled := false } [] [] saved; s.slotAt 0 = some { emptied with enabled := false } ∧ emptied.real = true ∧ emptied.swap = none ∧
      (swapOp 0 (2 ^ 32)).what = .slotswap 3 0 (2 ^ 32) ∧ s.me.ops = [swapOp 0 (2 ^ 32)] ∧ s.me.sa < 2 ^ 18 ∧ 0 ≠ s.me.sa) ∧
    (let s := swaps emptied [(1, { strand .lean with sa := 1, troupe := 1 })] [] []
     s.slotAt 0 = some emptied ∧ emptied.enabled = true ∧ emptied.dbg.stopped = false ∧ emptied.cid ≠ 2 ^ 32 ∧ s.residentCid (2 ^ 32) = true ∧ (2 : Nat) ^ 32 ≠ 2 ^ 64 - 1) ∧
    (let s := { swaps emptied [] [] [] with troupes := [] }; s.claimedCid (2 ^ 32) = false ∧ s.residentCid (2 ^ 32) = false ∧ s.troupe? 1 = none) := by decide +kernel
theorem witness_SlotSwapEvents_contexts :
    (let s := swaps emptied [] [] [(2 ^ 32, ctxFor (strand .heavy))]
     0 ∈ gone.out ∧ gone.live 0 = true ∧ s.claimedCid (2 ^ 32) = false ∧ s.residentCid (2 ^ 32) = false ∧ bytesNat (s.vcoreRecord 1 0) 0x00C 4 / 2 % 2 = 1) ∧
    (let s := swaps emptied [] [(0, 32)] saved; let flags := bytesNat (s.vcoreRecord 1 0) 0x00C 4
     emptied.kind = .lean ∧ flags / 2 % 2 = 0 ∧ flags / 4 % 64 = emptied.width ∧ kind2 (recordSegs (s.vcoreRecord 1 0)) = [(0, 2 ^ 16)] ∧ s.claimedCid (2 ^ 32) = false ∧
      s.residentCid (2 ^ 32) = false ∧ Tab.get? [(0, 32)] 0 ≠ some (0 - saSlot 0)) ∧
    (let s := swaps emptied [] [(0, 0)] saved; Tab.get? [(0, 0)] 0 = some (0 - saSlot 0) ∧ (∀ h ∈ s.heldRanges 0, h.1 = 1) ∧ s.movedTied emptied (some (2 ^ 32)) = false) := by
  decide +kernel
/-- A drained strand whose slot waits for a context, the same while it is being saved, with that context in a cache, and the empty slot. -/
theorem witness_SlotSwapEvents_move : ∀ b ∈ [false, true],
    (let s := { on' (sT { troupe 0 with place := [(0, 0), (1, 1)], out := [1] }) (fun m => { m with swap := some (swapReq (some (2 ^ 32 + 1)) b) }) with
        clusters := [(0, { Cluster.fresh with tcc := if b then [] else [(2 ^ 32 + 1, [])] }), (1, { Cluster.fresh with tcc := [(2 ^ 32 + 1, [])] })] }
     s.me.swap = some (swapReq (some (2 ^ 32 + 1)) b) ∧ s.me.run ≠ .vacant ∧ s.me.dbg.stopped = false ∧ s.earlierEvent s.me = false ∧ s.drained s.me = true ∧
      s.movedTied s.me (some (2 ^ 32 + 1)) = false ∧ (s.troupe? 1).map (·.tasks) = some [] ∧ s.me.kind = .lean ∧ s.me.inbox = [] ∧
      (b = true → (s.cluster (saPkg s.me.sa)).tcc = []) ∧ (∃ p ∈ s.clusters, (p.2.cached (2 ^ 32 + 1)).isSome = true) ∧
      (on' s (fun m => { m with run := .vacant })).me.run = .vacant ∧ (on' s (fun m => { m with run := .vacant })).movedTied s.me (some (2 ^ 32 + 1)) = false) := by decide +kernel

/-! ### Further witnesses: the matrix array -/

/-- An MMA of one ring, and an MMAG of three groups whose second is empty and whose third leaves the 256 rows, of two rings or of one group of one ring. -/
theorem witness_MatrixStart_rings : (let o := matOp (.mma 1 0 0 7 false true true); let s := inQueue sA o
      OnArray s 0 ∧ o.started = none ∧ o.ends = none ∧ o.entered.isSome ∧ 0 < (s.me.rings[0].tail - s.me.rings[0].claim).toNat ∧
      1 < (s.me.rings[0].tail - s.me.rings[0].claim).toNat) ∧
    (let o := matOp (.mmag 1 1 0 7 false false 0x100 3 [200, 0, 100] false); let s := inQueue sA o
      OnArray s 0 ∧ o.entered.isSome ∧ s.me.ops = [] ∧ 3 = [200, 0, 100].length ∧ (([200, 0, 100].take 3).filter (0 < ·)).length = 2 ∧
      0 < (s.me.rings[1].tail - s.me.rings[1].claim).toNat ∧ 2 ≤ (s.me.rings[0].tail - s.me.rings[0].claim).toNat ∧ 256 < [200, 0, 100].sum) ∧
    (let o := matOp (.mmag 1 0 0 7 false true 0x100 1 [9] false); OnArray (inQueue sA o) 0 ∧ ([9].filter (0 < ·)).length + 1 ≤ 2) := by
  unfold OnArray; decide +kernel
/-- A MACCST of two rows under way or to be started, of a global segment whose page is known, unknown, forbidden or failed, and of shared memory. -/
def storing (g : Seg) (started : Option Nat) : MatOp := { matOp (.maccst 1 g 0x100 1024 2 2 0 5) with started := started }
theorem witness_StoreWalks : (∀ g ∈ [seg 1, seg 3], ∀ b ∈ [none, some 20], let o := storing g b; let s := inQueue sA o
      OnArray s 0 ∧ s.me.mq = [o] ∧ o.ends = none ∧ o.row ≤ 2 ∧ (g.desc.extractLsb' 44 4).toNat ∈ [1, 3, 4] ∧ o.entered.isSome ∧ s.me.ops = [] ∧ o.row = 0 ∧
      o.pieces = [] ∧ (b = some 20 → 20 ≤ s.cycle)) ∧
    (let s := inQueue sA (storing (seg 1) (some 20)); s.xlate s.me.port (.matrix 0) s.me.asid 0x100 false true = .miss ∧
      (known5 s leafRw).xlate s.me.port (.matrix 0) s.me.asid 0x100 false true = .miss ∧
      (paged s leafRw).xlate s.me.port (.matrix 0) s.me.asid 0x100 false true = .hit leafRw ∧
      (paged s { leafRw with w := false }).xlate s.me.port (.matrix 0) s.me.asid 0x100 false true = .fail .pageRights) ∧
    (∀ m ∈ sA.heavies 0, m.mq = []) := by unfold OnArray; decide +kernel
/-- k-groups with a signaling NaN, ∞ · 0, both infinities, one infinity, zeros of one sign, and a sum; both scales, one of them NaN. -/
theorem witness_FloatCells : fp16.value 0x7D00 = .nan true ∧ fp16.value 0x7C00 = .inf false ∧ fp16.value 0xFC00 = .inf true ∧ fp16.value 0x8000 = .zero true ∧
    fp16.value 0x3C00 = .fin false 1024 (-10) ∧ (63 : Nat) % 64 = 63 ∧ (35 : Nat) % 64 ≠ 63 ∧ codeEighths 0 7 ≠ 0 := by decide +kernel

/-! ### Further witnesses: copies -/

def queued (s : State) (k : CpyCmd) : State := onEngine s { queue := [k], running := none }
/-- A remote page behind window entry 2, which admits puts and gets of the links 0 and 1, one of them up or none. -/
def leafFar : Leaf := { leafRw with pa := 0xC000000000 + 2 * 2 ^ 38, region := .remote }
def farWin : List Byte := natBytes 4 3 ++ natBytes 2 5 ++ natBytes 2 7 ++ natBytes 8 (2 ^ 30)
def overLinks (up : BitVec 32) (s : State) : State := { s with mgmt := { s.mgmt with link := up, win := [(2, farWin)] } }
def putCmd : CpyCmd := { cmdOf .cpyrem 0x60 with dseg := seg 1 }
/-- A command's sides: local, a page known, unknown, failed, without its right and of a wrong region; the bad and the good target of a CPYRING; and a put
of one page that its entry serves or, without a link, does not. -/
theorem witness_CopyPlaces :
    (let s := queued sL (cmdOf .cpy2d (3 * 2 ^ 32 + 5)); (s.engine 0 3).running = none ∧ (s.engine 0 3).queue = [cmdOf .cpy2d (3 * 2 ^ 32 + 5)] ∧ s.poison = [] ∧
      (copyBytes (cmdOf .cpy2d (3 * 2 ^ 32 + 5)) (fun _ => 0)).length = 15 ∧ sideAt s (cmdOf .cpy 5) 0 3 (seg 4) 0x100 true false false = .inl (2 ^ 50 + 0x100, .coherent) ∧
      sideAt s (cmdOf .cpy 5) 0 3 (seg 1) 0x100 true false false = .inr (.inl 0x100) ∧ sideAt (known s leafRw) (cmdOf .cpy 5) 0 3 (seg 1) 0x100 true false false = .inl (0x50100, .coherent) ∧
      sideAt (known s { leafRw with rd := false }) (cmdOf .cpy 5) 0 3 (seg 1) 0x100 true false false = .inr (.inr 1) ∧
      sideAt (known s leafFar) (cmdOf .cpy 5) 0 3 (seg 1) 0x100 true false false = .inr (.inr 2)) ∧
    ((copyBytes { cmdOf .cpyg 0x40 with b1 := 2, opt := 2, sseg := { seg 4 with base := 8, desc := (seg 4).desc - 0xFFFF } } (fun _ => 9)).any (fun b => !b.ok) = true) := by
  decide +kernel
theorem witness_CopyPlaces_ring : (let k := { cmdOf .cpyring 0 with dst := 0x1011 }
      let s := { sB 4 with dies := [(0, { Die.fresh with engines := [(3, { queue := [k], running := none })] })] }
      s.poison = [] ∧ (s.strand? (mkSa (saDie k.sa) (saCluster k.sa) 48 (k.dst.extractLsb' 4 2).toNat)).isSome = true ∧ badTarget s k = false ∧
      badTarget s { k with dst := 0x1031 } = true) := by decide +kernel
theorem witness_CopyPlaces_remote : ∀ up ∈ [0, 2], (let s := known (overLinks (BitVec.ofNat 32 up) (queued sL putCmd)) leafFar
      s.poison = [] ∧ putCmd.b ≠ 0 ∧ putCmd.opt ≤ 1 ∧ (putCmd.dseg.base.toNat + putCmd.dst.toNat) % 65536 + 0x60 ≤ 65536 ∧
      sideAt s putCmd 0 3 putCmd.sseg putCmd.src.toNat true false false = .inl (2 ^ 50 + 0x2000, .coherent) ∧
      sideAt s putCmd 0 3 putCmd.dseg putCmd.dst.toNat false true true = .inl (0xC000000000 + 2 * 2 ^ 38 + 0x100, .remote) ∧
      (let w := Tab.getD s.mgmt.win 2 []; (BitVec.ofNat 8 (bytesNat w 6 1)).getLsbD 0 = true ∧ (BitVec.ofNat 8 (bytesNat w 6 1)).getLsbD 1 = true ∧
        0x100 + 0x60 ≤ min (bytesNat w 8 8) (2 ^ 38) ∧ (s.mgmt.link.getLsbD 1 = true ↔ up = 2))) := by decide +kernel
/-- A CPY2D of two parts, the second on the first's place; a put of 96 bytes with two links, one, or none up; a CPYRING of one row whose slot is reserved. -/
theorem witness_CopyMoves : (let r := { runOf (cmdOf .cpy2d 0) with pieces := [{ src := some 0x2000, dst := some 0x1000, len := 4, sreg := .coherent, dreg := .coherent },
        { src := some 0x3000, dst := some 0x1002, len := 4, sreg := .coherent, dreg := .coherent }] }
      let s := cached (onEngine sL { queue := [], running := some r })
      (s.engine 0 3).running = some r ∧ CopyCalm s r.cmd ∧ r.cmd.form ∈ [CpyForm.cpy, .cpy2d, .cpyg, .cpys] ∧ r.written = false ∧ r.bad = [] ∧ r.status = 0 ∧
      (∀ p ∈ r.pieces, p.src.isSome ∧ p.sreg = .coherent ∧ p.dreg = .coherent) ∧ s.troupe? r.cmd.troupe = none) ∧
    (∀ up ∈ [0, 1, 3], let p : Piece := { src := some (2 ^ 50 + 0x2000), dst := some (0xC000000000 + 2 * 2 ^ 38 + 0x100), len := 0x60, sreg := .coherent, dreg := .remote }
      let r := { runOf putCmd with pieces := [p], win := [(2, farWin)] }
      let s := overLinks (BitVec.ofNat 32 up) (onEngine sL { queue := [], running := some r })
      (s.engine 0 3).running = some r ∧ CopyCalm s r.cmd ∧ r.cmd.form = .cpyrem ∧ r.cmd.opt ≤ 1 ∧ r.cmd.packet = none ∧ 2 * 2 ^ 38 + 0x100 < 2 ^ 44 ∧ p.len ≤ 65536 ∧
      ((List.range 32).filter (fun l => (BitVec.ofNat 32 (bytesNat (Tab.getD r.win 2 []) 0 4)).getLsbD l && s.mgmt.link.getLsbD l) = [] ↔ up = 0)) := by
  unfold CopyCalm; decide +kernel
theorem witness_CopyMoves_ring : (let r := { ringRun (some 7) with cmd := { (ringRun none).cmd with dst := 0x111 }
                                                                   pieces := [{ src := some 0x2000, dst := none, len := 64, sreg := .coherent, dreg := .coherent },
                                                                              { src := some 0x3000, dst := none, len := 256, sreg := .coherent, dreg := .coherent }] }
      let s := onB 4 r []
      (s.engine 0 3).running = some r ∧ CopyCalm s r.cmd ∧ r.cmd.form = .cpyring ∧ r.status = 0 ∧ r.slot = some 7 ∧ s.me.run ≠ .vacant ∧
      s.me.sa = mkSa (saDie r.cmd.sa) (saCluster r.cmd.sa) 48 (r.cmd.dst.extractLsb' 4 2).toNat ∧ (r.cmd.dst.extractLsb' 8 9).toNat = 1 ∧
      (r.cmd.dst.extractLsb' 17 3).toNat = 0 ∧ 256 * 64 ≤ slotBytes s.me 1 ∧ s.ringHeld (saPkg s.me.sa) ((s.me.rings[1]).slotAt 7) (256 * 64) = false ∧
      s.ringHeld (saPkg s.me.sa) ((s.me.rings[1]).slotAt 7 + slotBytes s.me 1) 256 = false) := by unfold CopyCalm; decide +kernel
/-- A put or a get that a flit asks for admitted, and the flit of fewer than 64 bytes. -/
theorem witness_RemoteFlits_short : (windowed.exported 5 0x40).isSome = true ∧ min 5 64 = 5 ∧ windowed.exported 5 0x40 ≠ none := by decide +kernel

/-! ### Further witnesses: tasks, the host, queues, debug, the device and the end of a cycle -/

/-- Task 9 commits a granule, and task 10 of a later key has it in its signature, on a strand or finished, or in none. -/
def commits (x : Task) : State := sT { tO with tasks := [(9, { task .finished none with buffer := [granule0] }), (10, x)], committing := some 9 }
theorem witness_CommitAborts : (∀ x ∈ [{ task .running (some 0) with sig := sigAdd 0 granule0.loc }, { task .finished none with sig := sigAdd 0 granule0.loc }, task .running (some 0)],
      let s := commits x
      (s.troupe? 1).map (·.tasks) = some [(9, { task .finished none with buffer := [granule0] }), (10, x)] ∧ Memory.wf s.mem = true ∧
      (∀ d ∈ s.dies, d.2.watches = []) ∧ (s.troupe? 1).bind (·.committing) = some 9 ∧ x.doomed = false ∧
      keyLess (5, BitVec.ofNat 32 9) (x.t, BitVec.ofNat 32 10) = true ∧ (s.residentOf 1 0).isSome = true) ∧
    sigHit (sigAdd 0 granule0.loc) granule0.loc = true ∧ sigHit (task .running (some 0)).sig granule0.loc = false := by decide +kernel
/-- A unit of `k` queued tasks, with a share of 64 KiB or none, to which a task comes. -/
def crowd (k share : Nat) : Troupe := { tO with
  desc := setBytes tO.desc 0x128 8 share, tasks := (List.range k).map (fun i => (i, task .queued none)), spawns := [spawnOf (some 5000) false] }
theorem crowd_task (k n : Nat) (x : Nat × Task) (h : x ∈ (crowd k n).tasks) : x.1 < k ∧ x.2 = task .queued none := by
  obtain ⟨i, hi, rfl⟩ := List.mem_map.1 h
  exact ⟨List.mem_range.1 hi, rfl⟩
theorem crowd_length (k n : Nat) : ((crowd k n).tasks.filter (fun q => q.2.unit == 0 && q.2.state == .queued)).length = k := by
  rw [List.filter_eq_self.2 fun x h => by rw [(crowd_task k n x h).2]; rfl]
  exact (List.length_map _).trans List.length_range
/-- The troupe with 1,024 tasks, whatever its share. -/
theorem witness_TaskSpills (k n : Nat) : (sT (crowd k n)).troupe? 1 = some (crowd k n) ∧ (crowd k n).spawns = [spawnOf (some 5000) false] ∧
    (spawnOf (some 5000) false).dead = false ∧ ((crowd k n).tasks.filter (fun q => q.2.unit == 0 && q.2.state == .queued)).length = k ∧
    (k ≤ 5000 → (crowd k n).tasks.all (fun q => decide (q.1 < 5000)) = true) ∧ (crowd k n).tasks.Pairwise (fun a b => a.1 < b.1) :=
  ⟨rfl, rfl, rfl, crowd_length k n, fun h => List.all_eq_true.2 fun x hx => decide_eq_true (Nat.lt_of_lt_of_le (crowd_task k n x hx).1 h),
    List.pairwise_lt_range.map _ fun _ _ h => h⟩
theorem witness_TaskSpills_share : (∀ n ∈ [0x10000, 63], 5000 % (crowd 1 n).clusters = 0 ∧ (crowd 1 n).field 0x128 8 / (crowd 1 n).clusters / 64 = n / 64) ∧
    0x10000 / 64 = 1024 ∧ 63 / 64 = 0 := by decide +kernel
theorem witness_HostTables : (∀ n ∈ [1, 3], (inStage n sL).mgmt.stage.toNat ≠ 0 ∧ (inStage n sL).mgmt.stage.toNat ≠ 0xFF) ∧ (inStage 255 sL).mgmt.stage.toNat = 0xFF ∧
    (∀ o ∈ [0x100, 0x17F, 0x200, 0x27F, 0x400, 0xBFF, 0xC0, 0xFF, 0x30020, 0x30FFF, 0x180, 0x2FFF8, 0x31000, 0xFFFFF], o / 8 * 8 < 0x100000) ∧
    (∀ st ∈ [QState.disabled, .idle], ((sQ (queueOf st 0 1) Die.fresh).queue 2).state = st) ∧ (0x30020 / 8 * 8 = 0x30020 ∧ (1 : Word) ≠ 2) ∧ 0x40FFFFF / 8 * 8 < 0x4100000 := by
  decide +kernel
/-- A poisoned word of a rank program, of a packet, of the word that QSIGNAL adds to or a WAIT packet compares, and of a descriptor; a WAIT packet with
FENCE behind an unfinished one. -/
def spoilt (a : Nat) (s : State) : State := { s with poison := [a] }
theorem witness_Queue_poison : (spoilt (dieLoc 0 0x48) sM).sick (dieLoc 0 0x40) 64 = some (dieLoc 0 0x48) ∧
    (spoilt 0x510C4 (paged (mapping (sQ (queueOf .mapped 3 5) Die.fresh)) leafRw)).sick (leafRw.addr 0x10C0) 64 = some 0x510C4 ∧
    (spoilt 0x52008 (waitFor 0 0x705)).sick (leafRw.addr 0x2008) 8 = some 0x52008 ∧ (waitFor 0 0x705).sick (leafRw.addr 0x2008) 8 = none ∧
    ((spoilt 0x51010 launcher).poison.find? (fun p => ((List.range 512).map (fun i => leafRw.addr (0x1000 + i))).contains p)) = some 0x51010 := by decide +kernel
theorem witness_QueueWaitAndSignal_fence : (let s := packetAt (on' (paged (mapping (sQ (queueOf .mapped 3 5) Die.fresh)) leafRw) (fun m => { m with
        copies := [(3, 7, { queue := 2, rdidx := 2, kind := 2, notify := false })] })) 3 1
      Manager s ∧ Memory.wf s.mem = true ∧ s.me.mapped = some 2 ∧ s.me.poll = none ∧ s.unfinished 2 = true ∧ memRead s.mem (0x510C0 + 1) 1 % 2 = 1 ∧
      packetOk (memBytes s.mem 0x510C0 64) = true ∧ s.sick 0x510C0 64 = none) := by unfold Manager; decide +kernel
/-- A strand whose BRK stop is not complete, one asked to stop, and two records not yet written. -/
theorem witness_DebugCommands_pending : (∀ n ∈ [some 4, some 1], let s := sD (fun m => { m with dbg := { m.dbg with claimed := true, stopReq := n } }) partner
      Listed s ∧ s.strand? 0 = some s.me ∧ s.me.run ≠ .vacant ∧ s.me.dbg.stopped = false ∧ s.me.dbg.frozen = false ∧ s.me.dbg.stopReq = n ∧ (s.die 0).tripped = false) ∧
    (let s := sD (fun m => { m with dbg := { m.dbg with stopped := true, frozen := true, pending := [List.replicate 32 7, List.replicate 32 8] } }) partner
     Listed s ∧ s.me.dbg.frozen = true ∧ s.me.dbg.pending = List.replicate 32 7 :: [List.replicate 32 8]) ∧
    ((inCluster sL { Cluster.fresh with blackout := some 40 } 48).cluster 0).blackout = some 40 := by unfold Listed; decide +kernel
/-- A heavy core that the repair map calls failed. -/
theorem witness_StartAndUpdate_failed : (let s := { inStage 1 sL with repair := [.core (slotOf 3 48 0)] }; s.mgmt.stage = 1 ∧ Listed s ∧ Memory.wf s.mem = true ∧
      WearUnit.core (slotOf 3 48 0) ∈ s.repair ∧ 3 < 96 ∧ WearUnit.core (slotOf 4 48 0) ∉ s.repair) := by unfold Listed; decide +kernel
/-- The places of errors: a saved context, a translation valid or under way with the strand that waits for it, a task in each state, a copy source. -/
theorem witness_DeviceEvents_sites : ((inCluster sL { Cluster.fresh with tcc := [(2 ^ 32 + 3, [])] } 0).cluster 0).cached (1 * 2 ^ 32 + 3) = some [] ∧
    (∀ st ∈ [XState.valid, .pending], let s := on' (coded sL [(5, xent st)]) (fun m => { m with block := some { base := 8, words := [], key := 5 } })
      Tab.get? (s.die 0).xcache 5 = some (xent st) ∧ (s.die 0).xqueue = [] ∧ s.me.block = some { base := 8, words := [], key := 5 } ∧ saDie s.me.sa = 0) ∧
    (∀ st ∈ [TaskState.queued, .spilled, .irrev, .running, .nonspec, .finished], ∀ n ∈ [2, 3], let j := { task st (some 0) with retries := n }
      let s := sK j tO; (s.troupe? 1).map (·.tasks) = some [(9, j)] ∧ tO.spawns = [] ∧ s.residentOf 1 0 = some s.me) ∧
    (let r := runOf (cmdOf .cpy 5); ((onEngine sL { queue := [], running := some r }).engine 0 3).running = some r) ∧ sL.struck = [] := by decide +kernel
/-- A unit struck before, and a strand that was asked for a stop before its die trips. -/
theorem witness_DeviceEvents_strikes : WearUnit.core 0 ∈ ({ sL with struck := [.core 0] } : State).struck ∧
    (on' sL (fun m => { m with dbg := { m.dbg with stopReq := some 1 } })).me.dbg.stopReq.getD 3 = 1 ∧ saDie sMd.me.sa = 0 ∧ sMd.me.sa < 2 ^ 18 ∧ sMd.me.kind = .sm := by
  decide +kernel
/-- The end of a cycle with a troupe that runs, whose cycle is quiet, counts or not, or that has halted. -/
def lastTurn (t : Troupe) (m : Strand → Strand) : State := { on' (sT t) m with turnsOver := true }
theorem witness_TurnAndCycle_troupe : (let s := lastTurn (troupe 0) id; s.turnsOver = true ∧ Listed s ∧ Unfinished s ∧ (∀ m ∈ s.strands, m.kind ≠ .heavy) ∧ s.l1d = []) := by
  unfold Listed Unfinished; decide +kernel
theorem witness_CycleMonitors : (let t := { troupe 0 with quiet := 65535 }; let s := lastTurn t id
      s.troupe? 1 = some t ∧ Unfinished s ∧ t.stirred = false ∧ t.out = [] ∧ (∀ m ∈ s.strands, m.dbg.stopped = false ∧ m.ops = [] ∧ m.xwait = none ∧ m.forfeit = 0 ∧
        m.readyAt ≤ s.cycle ∧ m.run ≠ .parked ∧ m.mq = []) ∧ s.trafficOf 1 = false ∧ s.copiesOf 1 = false ∧ s.walksOf 1 = false ∧ t.quiet + 1 = 65536) ∧
    (lastTurn gone id).troupes.map (·.2.out) = [[0]] ∧ ({ troupe 0 with stirred := true } : Troupe).stirred = true ∧ (lastTurn (troupe 0) (fun m => { m with forfeit := 3 })).me.forfeit ≠ 0 ∧
    ({ lastTurn (troupe 0) id with agenda := [(12, .inboxMessageArrival 1 ⟨0, 0⟩ 5)] } : State).trafficOf 1 = true := by
  unfold Unfinished; decide +kernel
theorem witness_CycleMonitors_end : (let t := { troupe 0 with halted := [0] }; let s := lastTurn t id
      s.turnsOver = true ∧ Listed s ∧ s.troupes = [(1, t)] ∧ t.ending = false ∧ (∀ v ∈ t.place, v.1 ∈ t.halted) ∧ t.tasks = [] ∧ t.spawns = [] ∧ t.notify = false ∧
      (∀ m ∈ s.strands, m.kind ≠ .heavy) ∧ s.l1d = [] ∧ s.l2 = [] ∧ Memory.wf s.mem = true ∧ s.me.run ≠ .vacant ∧ s.me.troupe = 1) := by unfold Listed; decide +kernel
end Sys2Proof.Tests
end

section
/-! PROOFS. The coordinates of clusters and strands (chapter 01; R10, R11, R211). -/

namespace Sys2Proof.Proofs

open Machine

/-! ### A cluster by its row and column (R10) -/

/-- A package cluster number is written in base 16: its low digit is the column. -/
theorem clusterNumber_mod (row : Nat) {col : Nat} (hcol : col < 16) : (16 * row + col) % 16 = col := by
  rw [Nat.mul_add_mod, Nat.mod_eq_of_lt hcol]

/-- A package cluster number is written in base 16: its high digit is the row. -/
theorem clusterNumber_div (row : Nat) {col : Nat} (hcol : col < 16) : (16 * row + col) / 16 = row := by
  rw [Nat.mul_add_div (by decide), Nat.div_eq_of_lt hcol, Nat.add_zero]

theorem pcDie_clusterNumber (row : Nat) {col : Nat} (hcol : col < 16) : pcDie (16 * row + col) = 4 * (row / 3) + col / 4 := by
  rw [pcDie, clusterNumber_div row hcol, clusterNumber_mod row hcol]

theorem pcIndex_clusterNumber (row : Nat) {col : Nat} (hcol : col < 16) : pcIndex (16 * row + col) = 4 * (row % 3) + col % 4 := by
  rw [pcIndex, clusterNumber_div row hcol, clusterNumber_mod row hcol]

/-- The die gives the block of three rows and four columns, the cluster-in-die index the place in the block. -/
theorem pkgCluster_pcDie_pcIndex (p : Nat) : pkgCluster (pcDie p) (pcIndex p) = p := by
  have hrow : 3 * (pcDie p / 4) + pcIndex p / 4 = p / 16 := by unfold pcDie pcIndex; omega
  have hcol : 4 * (pcDie p % 4) + pcIndex p % 4 = p % 16 := by unfold pcDie pcIndex; omega
  rw [pkgCluster, hrow, hcol, Nat.div_add_mod]

/-- A die holds the clusters of three rows and four columns, and no others. -/
theorem eq_die_iff_in_block {row col : Nat} (hcol : col < 16) (d : Nat) :
    d = 4 * (row / 3) + col / 4 ↔
      3 * (d / 4) ≤ row ∧ row ≤ 3 * (d / 4) + 2 ∧ 4 * (d % 4) ≤ col ∧ col ≤ 4 * (d % 4) + 3 := by
  have hdigits : d = 4 * (row / 3) + col / 4 ↔ d / 4 = row / 3 ∧ d % 4 = col / 4 := by omega
  have hrows : d / 4 = row / 3 ↔ 3 * (d / 4) ≤ row ∧ row ≤ 3 * (d / 4) + 2 := by omega
  have hcols : d % 4 = col / 4 ↔ 4 * (d % 4) ≤ col ∧ col ≤ 4 * (d % 4) + 3 := by omega
  rw [hdigits, hrows, hcols, and_assoc]

/-! ### The fields of an SADDR (R211) -/

section
variable {die cl core slot : Nat}

theorem saSlot_mkSa (hslot : slot < 32) : saSlot (mkSa die cl core slot) = slot := by
  unfold saSlot mkSa; omega

theorem saCore_mkSa (hcore : core < 64) (hslot : slot < 32) : saCore (mkSa die cl core slot) = core := by
  unfold saCore mkSa; omega

theorem saCluster_mkSa (hcl : cl < 16) (hcore : core < 64) (hslot : slot < 32) : saCluster (mkSa die cl core slot) = cl := by
  unfold saCluster mkSa; omega

theorem saDie_mkSa (hdie : die < 8) (hcl : cl < 16) (hcore : core < 64) (hslot : slot < 32) :
    saDie (mkSa die cl core slot) = die := by
  unfold saDie mkSa; omega

theorem saPkg_mkSa (hdie : die < 8) (hcl : cl < 16) (hcore : core < 64) (hslot : slot < 32) :
    saPkg (mkSa die cl core slot) = pkgCluster die cl := by
  rw [saPkg, saDie_mkSa hdie hcl hcore hslot, saCluster_mkSa hcl hcore hslot]

end

/-! ### The obligation -/

/-- Settles O55: the die and the index of a cluster are the digits of its row and column, and an SADDR keeps each of its fields apart. -/
theorem coordinates : Obligations.Coordinates := by
  unfold Obligations.Coordinates
  intro row hrow col hcol p die index
  have hdie : pcDie p = die := pcDie_clusterNumber row hcol
  have hindex : pcIndex p = index := pcIndex_clusterNumber row hcol
  have hpkg : pkgCluster die index = p := by rw [← hdie, ← hindex, pkgCluster_pcDie_pcIndex]
  have hp : p ≤ 95 := by omega
  have hdie8 : die < 8 := by omega
  have hindex11 : index ≤ 11 := by omega
  have hindex16 : index < 16 := by omega
  refine ⟨hp, hdie8, hindex11, hdie, hindex, hpkg, fun d _ => eq_die_iff_in_block hcol d, fun core slot hcore hslot => ?_⟩
  exact ⟨saDie_mkSa hdie8 hindex16 hcore hslot, saCluster_mkSa hindex16 hcore hslot, saCore_mkSa hcore hslot,
    saSlot_mkSa hslot, (saPkg_mkSa hdie8 hindex16 hcore hslot).trans hpkg⟩

end Sys2Proof.Proofs
end
